-- ==== Sys2Proof/Word.lean ====
section
/-! DEFINITION. The word types of the GN2-0824 and the plainest names over them (R4, R12). -/
namespace Sys2Proof

/-- A 64-bit scalar register, address or handle (R12). -/
abbrev Word := BitVec 64

/-- One byte of memory (R4). -/
abbrev Byte := BitVec 8

/-- A 256-byte vector register (R12). -/
abbrev VWord := BitVec 2048

/-- A 64-byte pattern entry (R85). -/
abbrev PatWord := BitVec 512

/-- A 96-bit instruction word (R34). -/
abbrev IWord := BitVec 96

end Sys2Proof
end

