-- ==== Sys2Proof/Syntax.lean ====
section
/-! DEFINITION. The abstract syntax: registers, fields and the one inductive `Instr`, with one constructor for
each row of the table of operations and events (R54 for the instructions, spec/95 for the events). -/
namespace Sys2Proof

/-- A register specifier (R13). A reserved specifier is kept so that decoding loses no bit; no well-formed
instruction names one. -/
inductive Reg where
  | s (n : Fin 64)
  | v (n : Fin 16)
  | p (n : Fin 8)
  | q (n : Fin 8)
  | z (n : Fin 2)
  | rsv (n : Fin 30)
  deriving DecidableEq, Repr

/-- A source field with its trap-on-empty bit (R16). -/
structure Src where
  reg : Reg
  trap : Bool
  deriving DecidableEq, Repr

/-- The guard bits GE, GN and GQ of the common header (R40). -/
structure Guard where
  en : Bool
  neg : Bool
  q : Fin 8
  deriving DecidableEq, Repr

/-- The fields of an instruction in formats X, M, B and E (R40, R42): `a`, `b`, `c` are SA, SB, SC. -/
structure Fields where
  guard : Guard
  dst : Reg
  mod : BitVec 8
  a : Src
  b : Src
  c : Src
  imm : BitVec 40
  deriving DecidableEq, Repr

/-- The fields of an instruction in format L (R42, R43). -/
structure LFields where
  guard : Guard
  dst : Reg
  mod : BitVec 8
  imm : BitVec 64
  deriving DecidableEq, Repr

/-- An engine whose commands are queued: a cluster's copy unit, a core's matrix slice, a cluster's Thresher port. -/
inductive EngineUnit where
  | copy (pos : Nat)
  | slice (core : Nat)
  | thresher (pos : Nat)
  deriving DecidableEq, Repr

/-- A channel between two endpoints of the job on one virtual channel (R331, R367). -/
structure Channel where
  src : Nat
  dst : Nat
  vc : BitVec 2
  deriving DecidableEq, Repr

/-- What firmware writes to map a page: table entries at (device, physical address) (R276, R280). -/
structure PageMap where
  entries : List (Nat × Nat × BitVec 64)
  deriving DecidableEq, Repr

/-- What a restore finds (R343): the bytes of the images, by lease and offset, that their storage has changed since; and each lease
that resumes elsewhere, with its physical die and its lease number there (R10). -/
structure Restoration where
  damage : List (Nat × Nat × BitVec 8)
  places : List (Nat × Nat × Nat)
  deriving DecidableEq, Repr

/-- Where a corrected error was found (R282, R424): the lease, and the core, if it was found in one. -/
structure CorrectedAt where
  lease : Nat
  core : Option Nat
  deriving DecidableEq, Repr

/-- Where an uncorrectable soft error was found (R283). -/
inductive SoftError where
  | register (task : Nat) (spec : BitVec 7)
  | producer (k : Nat)
  | memory (vdev : Nat) (pa : Nat)
  | spad (a : Nat)
  | line (core : Nat) (host : Bool) (ln : Nat)
  | engine (u : EngineUnit) (k : Nat)
  | control (ver : Nat)
  deriving DecidableEq, Repr

/-- A request to pin ways as a window (R295): the device memory of `size` bytes from (`vdev`, `pa`) is its backing. -/
structure PinnedReq where
  win : Nat
  vdev : Nat
  die : Nat
  pa : Nat
  size : Nat
  slices : List Nat
  ways : BitVec 16
  deriving DecidableEq, Repr

/-- A flit as a receiving port sees it (R368, R402, R403): header, payload, route prefix and origin. -/
structure WireFlit where
  header : BitVec 128
  payload : BitVec 384
  toDevice : Nat
  toLease : Nat
  fromDevice : Nat
  fromLease : Nat
  trunk : Bool
  deriving DecidableEq, Repr

/-- A configuration blob (R411), with the outcome of its signature check. The operator keys and the lease policies are bytes whose
form the spec does not give. -/
structure ConfigBlob where
  valid : Bool
  powerLimit : Nat
  links : BitVec 24
  devices : List Nat
  operatorKeys : List (List (BitVec 8)) := []
  policies : List (BitVec 8) := []
  deriving DecidableEq, Repr

/-- The parameters of a lease request (R407). `positions` are the job-virtual positions of its four clusters
as the 16-bit numbers of R11[31:16]; areas are job-virtual or (device, physical) addresses as their rules say. -/
structure LeaseRequest where
  lease : Nat
  phys : Nat
  group : Nat
  positions : List Nat
  secret : List (BitVec 8)
  key : List (BitVec 8)
  spoolFirst : Nat
  spoolCount : Nat
  quota : Nat
  spillArea : Nat
  frameArea : Nat
  holdArea : Nat
  dumpArea : Nat
  dumpSlots : Nat
  bastingArea : Nat
  chunkLog : Nat
  chunkLogSize : Nat
  fillMask : BitVec 16
  age : Nat
  glean : Nat
  inbox : Nat
  chunk : Nat
  rollback : Nat
  record : Bool
  replay : Bool
  shadow : Nat
  retry : Nat
  directFlags : BitVec 64
  trapVec : BitVec 64
  rootVdev : Nat
  rootPa : Nat
  /-- the job's identity (R407) -/
  job : Nat := 0
  /-- where the lease's queue area begins in its device's memory (R395) -/
  queueArea : Nat := 0
  deriving DecidableEq, Repr

/-- A launch image (R65, R260): pattern entries and launch records by index. -/
structure LaunchImage where
  patterns : List (Nat × PatWord)
  records : List (Nat × BitVec 2048)
  deriving DecidableEq, Repr

/-- The operations and events of the device: one constructor for each row of the table. -/
inductive Instr where
  /-- NOP (R53). Does nothing; a guarded NOP waits for its guard without consuming it. -/
  | nop (f : Fields)
  /-- ADD (R95). Writes a + b at the selected width, wrapped and extended by S. -/
  | add (f : Fields)
  /-- SUB (R95). Writes a − b at the selected width, wrapped and extended by S. -/
  | sub (f : Fields)
  /-- MUL (R95). Writes the low w bits of a × b. -/
  | mul (f : Fields)
  /-- MULH (R95). Writes the high w bits of a × b, signed when S = 1. -/
  | mulh (f : Fields)
  /-- DIV (R96). Writes the quotient rounded toward zero, or traps DIVIDE_ZERO on a zero divisor. -/
  | div (f : Fields)
  /-- REM (R96). Writes the remainder with the sign of a, or traps DIVIDE_ZERO on a zero divisor. -/
  | rem (f : Fields)
  /-- AND (R95). Writes the bitwise AND of the operands. -/
  | and (f : Fields)
  /-- OR (R95). Writes the bitwise OR of the operands. -/
  | or (f : Fields)
  /-- XOR (R95). Writes the bitwise XOR of the operands. -/
  | xor (f : Fields)
  /-- ANDN (R95). Writes a AND NOT b. -/
  | andn (f : Fields)
  /-- SHL (R97). Shifts a left by the full 64-bit shift amount, giving 0 when it reaches the width. -/
  | shl (f : Fields)
  /-- SHR (R97). Shifts a right with zeros in by the full 64-bit shift amount. -/
  | shr (f : Fields)
  /-- SAR (R97). Shifts a right with copies of the sign bit in. -/
  | sar (f : Fields)
  /-- ROT (R95). Rotates a left by the shift amount modulo the width. -/
  | rot (f : Fields)
  /-- MIN (R95). Writes the lesser operand, compared signed when S = 1. -/
  | min (f : Fields)
  /-- MAX (R95). Writes the greater operand, compared signed when S = 1. -/
  | max (f : Fields)
  /-- ABS (R95). Writes the absolute value of a read as signed. -/
  | abs (f : Fields)
  /-- CLZ (R95). Counts the leading zero bits of the w-bit pattern. -/
  | clz (f : Fields)
  /-- CTZ (R95). Counts the trailing zero bits of the w-bit pattern. -/
  | ctz (f : Fields)
  /-- POPC (R95). Counts the one bits of the w-bit pattern. -/
  | popc (f : Fields)
  /-- BREV (R95). Reverses the bits of the w-bit pattern. -/
  | brev (f : Fields)
  /-- BSWAP (R95). Reverses the bytes of the w-bit pattern. -/
  | bswap (f : Fields)
  /-- BFX (R99). Extracts a bit field given by pos and len, optionally sign-extended. -/
  | bfx (f : Fields)
  /-- BFI (R99). Inserts a field of s[SC] into s[SA] at pos and len. -/
  | bfi (f : Fields)
  /-- SEL (R100). Writes s[SA] or the second operand as the guard q[SC] selects. -/
  | sel (f : Fields)
  /-- MOVI (R101). Writes the 64-bit immediate of the format L word to an s register. -/
  | movi (f : LFields)
  /-- MOV (R102). Copies one register or an immediate to another register for the permitted file pairs. -/
  | mov (f : Fields)
  /-- LEA (R103). Writes the format M effective address without accessing memory. -/
  | lea (f : Fields)
  /-- CMP (R105). Writes into a guard whether the comparison condition holds. -/
  | cmp (f : Fields)
  /-- TST (R105). Writes into a guard whether a AND b is zero or nonzero. -/
  | tst (f : Fields)
  /-- MAD (R95). Writes a × b + c at the selected width. -/
  | mad (f : Fields)
  /-- CHK (R104). Passes the index when it lies below the limit and otherwise traps BOUNDS. -/
  | chk (f : Fields)
  /-- FADD (R108). Writes the correctly rounded floating-point sum. -/
  | fadd (f : Fields)
  /-- FSUB (R108). Writes the correctly rounded floating-point difference. -/
  | fsub (f : Fields)
  /-- FMUL (R108). Writes the correctly rounded floating-point product. -/
  | fmul (f : Fields)
  /-- FFMA (R108). Writes a × b + c rounded once. -/
  | ffma (f : Fields)
  /-- FDIV (R108). Writes the correctly rounded quotient on the core's divider. -/
  | fdiv (f : Fields)
  /-- FSQRT (R108). Writes the correctly rounded square root on the core's divider. -/
  | fsqrt (f : Fields)
  /-- FMIN (R109). Writes the lesser operand, with canonical NaN for any NaN input. -/
  | fmin (f : Fields)
  /-- FMAX (R109). Writes the greater operand, with canonical NaN for any NaN input. -/
  | fmax (f : Fields)
  /-- FCMP (R110). Writes into a guard the result of a floating-point comparison. -/
  | fcmp (f : Fields)
  /-- FCLASS (R111). Writes a one-hot mask of the operand's class. -/
  | fclass (f : Fields)
  /-- FCVT (R112). Converts between floating-point formats under the rounding mode. -/
  | fcvt (f : Fields)
  /-- FTOI (R112). Converts a floating-point value to an integer of width W. -/
  | ftoi (f : Fields)
  /-- ITOF (R112). Converts an integer of width W to a floating-point format. -/
  | itof (f : Fields)
  /-- FSGN (R109). Writes the magnitude of a with a sign chosen by copy, negate or XOR. -/
  | fsgn (f : Fields)
  /-- BR (R117). Branches to the slot offset after checking the target. -/
  | br (f : Fields)
  /-- JMP (R117). Jumps to the address in a register after checking the target. -/
  | jmp (f : Fields)
  /-- CALL (R117). Writes the link and branches to the slot offset. -/
  | call (f : Fields)
  /-- CALLR (R117). Writes the link and jumps to the address in a register. -/
  | callr (f : Fields)
  /-- RET (R117). Returns to the address in a register, s63 by default. -/
  | ret (f : Fields)
  /-- LOOP (R118). Decrements the count register and branches while it is nonzero. -/
  | loop (f : Fields)
  /-- QSET (R120). Writes several guards at once under a mask. -/
  | qset (f : Fields)
  /-- QLOG (R121). Writes a guard from a truth table of two guards. -/
  | qlog (f : Fields)
  /-- LD (R126). Loads 1 to 8 bytes into an s register, extended by SGN. -/
  | ld (f : Fields)
  /-- ST (R126). Stores 1 to 8 bytes of an s register. -/
  | st (f : Fields)
  /-- LDV (R126). Loads 256 bytes into a v register. -/
  | ldv (f : Fields)
  /-- STV (R128). Stores the enabled 4-byte parts of a v register under a mask. -/
  | stv (f : Fields)
  /-- LDG (R129). Gathers one element per active lane into a v register. -/
  | ldg (f : Fields)
  /-- STG (R129). Scatters one element per active lane from a v register. -/
  | stg (f : Fields)
  /-- LDT (R130). Loads a run of pattern elements into a v register without conversion. -/
  | ldt (f : Fields)
  /-- PREF (R131). Starts a fill of a line into L1 or of a granule into its home slice. -/
  | pref (f : Fields)
  /-- CLEAN (R131). Writes the dirty bytes of the named lines back to their home slice. -/
  | clean (f : Fields)
  /-- INVAL (R131). Cleans the named lines and removes them from L1. -/
  | inval (f : Fields)
  /-- LDF (R133). Waits for a full scratchpad word, reads it and empties it. -/
  | ldf (f : Fields)
  /-- LDFF (R133). Waits for a full scratchpad word and reads it, leaving it full. -/
  | ldff (f : Fields)
  /-- STE (R133). Waits for an empty scratchpad word, stores into it and fills it. -/
  | ste (f : Fields)
  /-- STF (R133). Stores into a scratchpad word and sets it full without waiting. -/
  | stf (f : Fields)
  /-- SETE (R133). Marks a scratchpad word empty, keeping its value. -/
  | sete (f : Fields)
  /-- PROBE (R133). Writes F + 2·K of a scratchpad word. -/
  | probe (f : Fields)
  /-- AADD (R137). Atomically adds to a location and returns the old value. -/
  | aadd (f : Fields)
  /-- AAND (R137). Atomically ANDs into a location. -/
  | aand (f : Fields)
  /-- AOR (R137). Atomically ORs into a location. -/
  | aor (f : Fields)
  /-- AXOR (R137). Atomically XORs into a location. -/
  | axor (f : Fields)
  /-- AMIN (R137). Atomically stores the minimum of the location and the operand. -/
  | amin (f : Fields)
  /-- AMAX (R137). Atomically stores the maximum of the location and the operand. -/
  | amax (f : Fields)
  /-- ASWP (R137). Atomically swaps the operand into the location. -/
  | aswp (f : Fields)
  /-- ACAS (R137). Atomically stores n when the location equals c. -/
  | acas (f : Fields)
  /-- AINCW (R140). Atomically increments the location, wrapping to 0 at the bound. -/
  | aincw (f : Fields)
  /-- AFADDB (R140). Atomically adds when the sum neither overflows nor exceeds the bound. -/
  | afaddb (f : Fields)
  /-- AFADD (R137). Atomically adds a floating-point value rounded to nearest even. -/
  | afadd (f : Fields)
  /-- FENCE (R143). Waits until the task's earlier accesses have performed for every observer in the scope. -/
  | fence (f : Fields)
  /-- PHASE (R144). Performs REL followed at once by ACQ. -/
  | phase (f : Fields)
  /-- REL (R144). Publishes dirty PHASED bytes and orders earlier accesses before later ones. -/
  | rel (f : Fields)
  /-- ACQ (R144). Waits for the task's releases and self-invalidates clean PHASED lines. -/
  | acq (f : Fields)
  /-- GET (R152). Enqueues a copy of one tile from memory into the cluster's scratchpad. -/
  | get (f : Fields)
  /-- PUT (R152). Enqueues a copy of one tile from the cluster's scratchpad to memory. -/
  | put (f : Fields)
  /-- PUSH (R153). Takes a permit count and enqueues a tile copy into another cluster's scratchpad. -/
  | push (f : Fields)
  /-- LAYOUT (R155). Enqueues a converting, transposing or patch-matrix copy of one tile. -/
  | layout (f : Fields)
  /-- CFILL (R156). Enqueues a fill of one tile with a constant. -/
  | cfill (f : Fields)
  /-- CQUERY (R156). Returns the copy unit's free entries, the task's entries and the returned permits. -/
  | cquery (f : Fields)
  /-- PERMIT (R154). Grants push permits for a region of the issuing core's scratchpad. -/
  | permit (f : Fields)
  /-- VADD (R160). Adds active elements, wrapping or saturating. -/
  | vadd (f : Fields)
  /-- VSUB (R160). Subtracts active elements, wrapping or saturating. -/
  | vsub (f : Fields)
  /-- VMUL (R160). Multiplies active elements, keeping the low bits. -/
  | vmul (f : Fields)
  /-- VMULH (R160). Multiplies active elements, keeping the high bits. -/
  | vmulh (f : Fields)
  /-- VMAD (R160). Adds a × b into each active element of the destination. -/
  | vmad (f : Fields)
  /-- VAND (R160). Bitwise AND of active elements. -/
  | vand (f : Fields)
  /-- VOR (R160). Bitwise OR of active elements. -/
  | vor (f : Fields)
  /-- VXOR (R160). Bitwise XOR of active elements. -/
  | vxor (f : Fields)
  /-- VSHL (R160). Shifts active elements left. -/
  | vshl (f : Fields)
  /-- VSHR (R160). Shifts active elements right with zeros in. -/
  | vshr (f : Fields)
  /-- VSAR (R160). Shifts active elements right with sign copies in. -/
  | vsar (f : Fields)
  /-- VMIN (R160). Writes the lesser of each pair of active elements. -/
  | vmin (f : Fields)
  /-- VMAX (R160). Writes the greater of each pair of active elements. -/
  | vmax (f : Fields)
  /-- VABS (R160). Writes the absolute value of each active element. -/
  | vabs (f : Fields)
  /-- VCMP (R161). Compares active elements into a v or p register. -/
  | vcmp (f : Fields)
  /-- VSEL (R161). Selects each element from two sources under a mask. -/
  | vsel (f : Fields)
  /-- VBCAST (R162). Writes a scalar or immediate into every element. -/
  | vbcast (f : Fields)
  /-- VEXT (R162). Extracts one element into an s register. -/
  | vext (f : Fields)
  /-- VINS (R162). Inserts a scalar into one element. -/
  | vins (f : Fields)
  /-- VPERM (R162). Permutes elements by an index vector. -/
  | vperm (f : Fields)
  /-- VSLIDE (R162). Slides elements by a signed count, filling with zeros. -/
  | vslide (f : Fields)
  /-- VRED (R163). Reduces active elements in ascending order into an s register. -/
  | vred (f : Fields)
  /-- VSCAN (R163). Writes the inclusive running result at each active element. -/
  | vscan (f : Fields)
  /-- VPOPC (R162). Counts the one bits of a p register under a mask. -/
  | vpopc (f : Fields)
  /-- VFIRST (R162). Writes the index of the lowest one bit of a p register. -/
  | vfirst (f : Fields)
  /-- VIOTA (R162). Writes to each element the number of mask bits below it. -/
  | viota (f : Fields)
  /-- PLOG (R162). Combines two p registers bitwise by a truth table. -/
  | plog (f : Fields)
  /-- VCOMPRESS (R162). Packs the active elements to the low elements and zeros the rest. -/
  | vcompress (f : Fields)
  /-- VTOPK (R164). Writes the indices of the k largest active elements. -/
  | vtopk (f : Fields)
  /-- VFADD (R167). Adds active floating-point elements, correctly rounded. -/
  | vfadd (f : Fields)
  /-- VFSUB (R167). Subtracts active floating-point elements. -/
  | vfsub (f : Fields)
  /-- VFMUL (R167). Multiplies active floating-point elements. -/
  | vfmul (f : Fields)
  /-- VFFMA (R167). Writes a × b + d rounded once in each active element. -/
  | vffma (f : Fields)
  /-- VFDIV (R167). Divides active floating-point elements on the shared unit. -/
  | vfdiv (f : Fields)
  /-- VFSQRT (R167). Takes the square root of active elements on the shared unit. -/
  | vfsqrt (f : Fields)
  /-- VFMIN (R167). Writes the lesser floating-point element as FMIN does. -/
  | vfmin (f : Fields)
  /-- VFMAX (R167). Writes the greater floating-point element as FMAX does. -/
  | vfmax (f : Fields)
  /-- VFCMP (R167). Compares floating-point elements into a v or p register. -/
  | vfcmp (f : Fields)
  /-- VFEXP2 (R167). Writes 2 to the power of each active element. -/
  | vfexp2 (f : Fields)
  /-- VFLOG2 (R167). Writes the base-2 logarithm of each active element. -/
  | vflog2 (f : Fields)
  /-- VFRCP (R167). Writes the reciprocal of each active element. -/
  | vfrcp (f : Fields)
  /-- VFRSQ (R167). Writes the reciprocal square root of each active element. -/
  | vfrsq (f : Fields)
  /-- VFRED (R168). Reduces active elements by a fixed binary tree into an s register. -/
  | vfred (f : Fields)
  /-- VFCVT (R169). Converts elements between floating-point formats, one part at a time. -/
  | vfcvt (f : Fields)
  /-- VFTOI (R169). Converts floating-point elements to integers. -/
  | vftoi (f : Fields)
  /-- VITOF (R169). Converts integer elements to floating point. -/
  | vitof (f : Fields)
  /-- VQUANT (R171). Quantises elements with one scale and zero point, saturating. -/
  | vquant (f : Fields)
  /-- VDEQ (R171). Dequantises or widens elements with one scale and zero point. -/
  | vdeq (f : Fields)
  /-- VSCALE (R167). Writes a × 2^e rounded once in each active element. -/
  | vscale (f : Fields)
  /-- VFCLASS (R167). Writes the class mask of each active element. -/
  | vfclass (f : Fields)
  /-- MGANG (R176). Takes the core's accumulators and becomes pending on a gang mask. -/
  | mgang (f : Fields)
  /-- MLDB (R178). Enqueues the load of a B block into a buffer of the core's slice. -/
  | mldb (f : Fields)
  /-- MMA (R180). Enqueues one K step of A × B into an accumulator. -/
  | mma (f : Fields)
  /-- MZERO (R183). Enqueues the zeroing of an accumulator. -/
  | mzero (f : Fields)
  /-- MRDZ (R183). Enqueues the conversion of accumulator rows into a pattern. -/
  | mrdz (f : Fields)
  /-- MWRZ (R183). Enqueues the loading of accumulator rows from a pattern. -/
  | mwrz (f : Fields)
  /-- MSCALE (R179). Checks two block scales and enqueues setting the accumulator's scale product. -/
  | mscale (f : Fields)
  /-- MREL (R177). Enqueues the release of the accumulators and the end of gang membership. -/
  | mrel (f : Fields)
  /-- TMV (R184). Enqueues a matrix-vector product in the die's Threshers. -/
  | tmv (f : Fields)
  /-- SPAWN (R194). Allocates a Spool entry and creates a child task. -/
  | spawn (f : Fields)
  /-- SPAWNG (R196). Allocates one Spool entry and creates one task for each tile of a grid pattern. -/
  | spawng (f : Fields)
  /-- TOUCH (R198). Reads a future's value, parking or waiting while it is unsettled. -/
  | touch (f : Fields)
  /-- TOUCHS (R198). Reads a future's value or poison word without trapping on poison. -/
  | touchs (f : Fields)
  /-- TOUCHANY (R199). Waits until any of up to 32 futures is settled and reports the lowest. -/
  | touchany (f : Fields)
  /-- RESOLVE (R200). Settles a future RESOLVED with a value. -/
  | resolve (f : Fields)
  /-- POISON (R200). Settles a future POISONED with a cause and a record address. -/
  | poison (f : Fields)
  /-- CANCEL (R201). Settles a future CANCELLED and cancels its bound task. -/
  | cancel (f : Fields)
  /-- KEEP (R202). Marks or folds a speculative task's sub-version into the launch. -/
  | keep (f : Fields)
  /-- FDROP (R200). Decrements a future's consumer count without waiting. -/
  | fdrop (f : Fields)
  /-- FSTAT (R203). Returns a future's state, cause and consumers left. -/
  | fstat (f : Fields)
  /-- RETIRE (R204). Ends the task, resolving its own future and freeing its slot. -/
  | retire (f : Fields)
  /-- YIELD (R204). Returns the task to its Loom's queue and frees its slot. -/
  | yield (f : Fields)
  /-- FNEW (R194). Allocates a future with no task. -/
  | fnew (f : Fields)
  /-- NEEDLE (R207). Makes a capability to write one of the task's registers. -/
  | needle (f : Fields)
  /-- SEND (R208). Sends a scalar value through a needle. -/
  | send (f : Fields)
  /-- SENDV (R208). Sends a vector value through a needle. -/
  | sendv (f : Fields)
  /-- CLR (R210). Marks a register empty after its pending producer lands. -/
  | clr (f : Fields)
  /-- MSG (R212). Sends a 64-byte active message to a core's inbox. -/
  | msg (f : Fields)
  /-- MBIND (R213). Binds or unbinds a handler id in the core's or lease's handler tables. -/
  | mbind (f : Fields)
  /-- MPOST (R214). Posts a ranked entry to a core's mailbox. -/
  | mpost (f : Fields)
  /-- MTAKE (R215). Takes or peeks the top mailbox entries, or configures the depth. -/
  | mtake (f : Fields)
  /-- BINIT (R217). Initialises or frees a barrier node. -/
  | binit (f : Fields)
  /-- BARR (R218). Arrives at a barrier node and returns a phase token without waiting. -/
  | barr (f : Fields)
  /-- BWAIT (R218). Waits until a barrier token has passed. -/
  | bwait (f : Fields)
  /-- BARW (R218). Arrives at a barrier node and waits for its phase to pass. -/
  | barw (f : Fields)
  /-- BLINK (R219). Adds a signed delta to a barrier node's target count. -/
  | blink (f : Fields)
  /-- GETSR (R21). Reads a special register. -/
  | getsr (f : Fields)
  /-- SETSR (R21). Writes a special register, checking privilege and reserved values. -/
  | setsr (f : Fields)
  /-- TRAP (R222). Takes cause SOFTWARE with the immediate as information. -/
  | trap (f : Fields)
  /-- ERET (R222). Leaves the handler and resumes at trap.pc. -/
  | eret (f : Fields)
  /-- BRK (R222). Takes cause BREAKPOINT, or a debug stop when a debugger holds the lease. -/
  | brk (f : Fields)
  /-- TRACE (R223). Appends a TRACE record to the lease's trace stream. -/
  | trace (f : Fields)
  /-- TSTAMP (R223). Waits for earlier instructions and accesses, then writes time.now. -/
  | tstamp (f : Fields)
  /-- LPATCH (R225). Writes an 8-byte patchable field of an idle launch record. -/
  | lpatch (f : Fields)
  /-- LARM (R225). Arms a launch record and assigns its version. -/
  | larm (f : Fields)
  /-- PATSET (R226). Writes a well-formed entry into the lease's pattern table. -/
  | patset (f : Fields)
  /-- PATGET (R226). Reads a pattern entry into a v register. -/
  | patget (f : Fields)
  /-- BASTE (R227). Requests a basting point at a given phase of a root node. -/
  | baste (f : Fields)
  /-- FIXED_LATENCY_RESULT (R115). A fixed-latency result is written to its destination, applying any held send after it. -/
  | fixedLatencyResult (task : Nat)
  /-- VALUE_LANDS (R15). The value of a long-latency producer arrives and fills its register. -/
  | valueLands (k : Nat)
  /-- STORE_ACKNOWLEDGED (R127). An acknowledgment of a remote store or atomic reduces the unacknowledged-operation count. -/
  | storeAcknowledged (k : Nat)
  /-- RELEASE_COMPLETE (R144). A release completes once its accesses have performed and its bytes reach their homes. -/
  | releaseComplete (k : Nat)
  /-- MEMORY_ACCESS (R303). A remote load, store or atomic arrives at its bank or home slice and performs. -/
  | memoryAccess (k : Nat)
  /-- TAGGED_REQUEST (R135). A waiting tagged request arrives at a bank and performs or joins the waiting list. -/
  | taggedRequest (k : Nat)
  /-- TAGGED_RESEND (R135). A tagged request returned from a full list is sent again 64 cycles later. -/
  | taggedResend (k : Nat)
  /-- WITHDRAWAL (R136). A withdrawal of a waiting request arrives at its bank and completes or removes it. -/
  | withdrawal (k : Nat)
  /-- PAGE_WALK (R278). A table walk completes and serves every merged miss. -/
  | pageWalk (k : Nat)
  /-- FIRMWARE_MAP_PAGE (R280). Firmware maps a faulting page and every waiter issues again. -/
  | firmwareMapPage (k : Nat) (m : PageMap)
  /-- FIRMWARE_REFLECT_FAULT (R280). Firmware reflects a fault so each task traps and each command ends with the status. -/
  | firmwareReflectFault (k : Nat)
  /-- TRANSLATION_INVALIDATE (R279). Firmware invalidates translation caches after a mapping change. -/
  | translationInvalidate (lease : Nat)
  /-- HELD_COMMAND_RELEASE (R50). A guard-held engine command runs or is discarded when its guard fills. -/
  | heldCommandRelease (u : EngineUnit) (k : Nat)
  /-- COPY_CHANNEL_TAKE (R383). A free copy channel takes the eligible command by priority and recency. -/
  | copyChannelTake (pos : Nat) (chan : Nat)
  /-- COPY_GRANULE (R150). A copy channel finishes one 2 KiB granule of its command. -/
  | copyGranule (pos : Nat) (chan : Nat)
  /-- CHANNEL_YIELD (R383). A running command gives up its channel after 16 granules. -/
  | channelYield (pos : Nat) (chan : Nat)
  /-- TILE_COPY_START (R243). The Loom allocates tile buffers and starts a task's tile copies. -/
  | tileCopyStart (pos : Nat)
  /-- MATRIX_COMMAND_START (R174). A matrix command at the head of the queue starts on the slice. -/
  | matrixCommandStart (core : Nat)
  /-- GANG_FORMS (R176). Every core of a mask has a pending MGANG and the gang forms. -/
  | gangForms (pos : Nat) (mask : BitVec 8)
  /-- GANG_STEP_START (R377). The gang barrier starts a gang step after the last member asserts. -/
  | gangStepStart (pos : Nat) (mask : BitVec 8)
  /-- MATRIX_COMMAND_DONE (R376). A matrix command finishes and writes its token. -/
  | matrixCommandDone (core : Nat)
  /-- ACCUMULATOR_RELEASE (R19). After a retired task's matrix commands complete, its accumulators are released. -/
  | accumulatorRelease (core : Nat)
  /-- THRESHER_GRANULE_READ (R379). A Thresher weight granule read completes. -/
  | thresherGranuleRead (pos : Nat) (k : Nat) (row : Nat)
  /-- THRESHER_ROW (R380). A Thresher finishes one output row. -/
  | thresherRow (pos : Nat) (k : Nat) (row : Nat)
  /-- RESULT_BEAT (R381). A result beat reaches the port, which writes Y and may fill the token. -/
  | resultBeat (pos : Nat) (k : Nat) (stack : Nat)
  /-- SEND_DELIVERY (R356). A send arrives at the target's home Loom and is applied in slot or frame, or refused. -/
  | sendDelivery (k : Nat)
  /-- SEND_STATUS (R209). A send's status returns to the sender. -/
  | sendStatus (k : Nat)
  /-- MESSAGE (R212). A message arrives at a core and is accepted or refused. -/
  | message (k : Nat)
  /-- MESSAGE_STATUS (R212). A message's status returns to the sender. -/
  | messageStatus (k : Nat)
  /-- HANDLER_ACTIVATION_START (R360). A free slot starts a handler activation for the oldest bound message. -/
  | handlerActivationStart (core : Nat)
  /-- POST (R214). A mailbox post is accepted and ranked, dropping the lowest entry. -/
  | postFlit (k : Nat)
  /-- POST_STATUS (R214). A post's status returns to the poster. -/
  | postStatus (k : Nat)
  /-- GRANT (R364). A push-permit grant arrives and is merged or takes a free entry. -/
  | grantFlit (k : Nat)
  /-- GRANT_STATUS (R154). A grant's token word returns to the granting task. -/
  | grantStatus (k : Nat)
  /-- PERMIT_RETURN (R364). Unused permit counts return to the granting core's RETP. -/
  | permitReturn (k : Nat)
  /-- SPOOL_REQUEST (R236). A request reaches the home Spool and acts on the entry's state. -/
  | spoolRequest (k : Nat)
  /-- SPOOL_ANSWER (R198). The Spool's answer reaches the requesting task. -/
  | spoolAnswer (k : Nat)
  /-- REFILL_RETRY (R238). A refill waiting for a body proceeds when a body of the lease is freed. -/
  | refillRetry (lease : Nat)
  /-- WAKE (R239). A wake flit marks parked tasks of a cluster READY. -/
  | wakeFlit (k : Nat)
  /-- CANCEL_DELIVERY (R249). A cancel reaches a task and acts by its Loom state. -/
  | cancelDelivery (k : Nat)
  /-- DISPATCH (R244). The Loom places the first READY task of highest priority on a core. -/
  | dispatch (pos : Nat)
  /-- AGING (R245). A task waiting 2^AGE cycles at one priority rises one level. -/
  | aging (task : Nat)
  /-- GLEANER_INTERVAL (R253). At each interval end the Gleaner balances queued tasks across clusters. -/
  | gleanerInterval (lease : Nat)
  /-- ARRIVE (R218). An arrival reaches a barrier node's bank and is counted or held. -/
  | arrive (k : Nat)
  /-- FLIP (R365). A parent's flip reaches a child node, which flips and answers its waiters. -/
  | flip (k : Nat)
  /-- NODE_WAIT (R218). A wait request reaches a node and is answered or queued. -/
  | nodeWait (k : Nat)
  /-- NODE_ANSWER (R218). A barrier status word returns to its waiter. -/
  | nodeAnswer (k : Nat)
  /-- WAKE_WRITE (R398). The host writes PIDX and the front end covers ring entries up to it. -/
  | wakeWrite (lease : Nat) (queue : Nat) (p : BitVec 32)
  /-- QUEUE_ENABLE (R397). Writing QCTL with EN = 1 enables the queue when SIZE and ERR allow. -/
  | queueEnable (lease : Nat) (queue : Nat) (x : BitVec 64)
  /-- QUEUE_DISABLE (R397). Writing QCTL with EN = 0 stops taking entries and clears ERR. -/
  | queueDisable (lease : Nat) (queue : Nat) (x : BitVec 64)
  /-- REGISTER_WRITE (R396). A host write to a register with no behaviour of its own stores the value. -/
  | registerWrite (lease : Nat) (off : Nat) (x : BitVec 64)
  /-- QUEUE_ENTRY_TAKE (R399). The front end reads a queue entry and starts or refuses its launch. -/
  | queueEntryTake (lease : Nat) (queue : Nat)
  /-- LAUNCH_START (R258). The root entry is allocated, a version taken and the root dispatched. -/
  | launchStart (k : Nat)
  /-- ROOT_ALLOCATION_RETRY (R258). A waiting root allocation is tried again when lease resources are freed. -/
  | rootAllocationRetry (k : Nat)
  /-- RECORD_LAUNCH_START (R261). An armed record starts when the record queue's previous launch has ended. -/
  | recordLaunchStart (lease : Nat)
  /-- LAUNCH_COMMIT (R316). A launch whose conditions hold reaches its commit point. -/
  | launchCommit (ver : Nat)
  /-- SHADOW_GRANULE_COPY (R318). One committed granule's dirty pieces are copied to home memory. -/
  | shadowGranuleCopy (ver : Nat)
  /-- LAUNCH_ABORT (R319). An abort cancels tasks and frees the launch's shadow, records and entries. -/
  | launchAbort (ver : Nat)
  /-- PREPARE (R323). A participant receives round n of version v and answers when drained. -/
  | prepareMsg (k : Nat)
  /-- PREPARED (R324). The coordinator receives a participant's counts and decides or starts a new round. -/
  | preparedMsg (k : Nat)
  /-- RETRACT (R323). The coordinator learns of an operation accepted after PREPARED. -/
  | retractMsg (k : Nat)
  /-- COMMIT (R323). A participant applies the coordinator's commit decision. -/
  | commitMsg (k : Nat)
  /-- ABORT (R323). A participant applies the coordinator's abort decision. -/
  | abortMsg (k : Nat)
  /-- ABORTQ (R323). The coordinator learns that a participant aborted the launch. -/
  | abortqMsg (k : Nat)
  /-- DONE (R323). The coordinator learns that a participant finished copying. -/
  | doneMsg (k : Nat)
  /-- LAUNCH_KILL (R248). Firmware kills a launch, stopping every task and ending it KILLED. -/
  | launchKill (ver : Nat)
  /-- GANG_STOP (R326). A gang-stop arrives and stops every core, engine and Loom of the job. -/
  | gangStop (vdev : Nat)
  /-- ENGINE_INTERRUPTION (R328). An engine command reaches its interruption point and records progress. -/
  | engineInterruption (u : EngineUnit)
  /-- STOP_WATCHDOG (R330). A core not stopped 1.5 µs after a gang-stop kills the job's launches. -/
  | stopWatchdog (vdev : Nat)
  /-- MARKER (R331). A marker drains its channel and a serving endpoint forwards its own markers. -/
  | marker (ch : Channel)
  /-- CONTEXT_IMAGE_WRITE (R334). Lease images are written and tagged and the device becomes quiescent. -/
  | contextImageWrite (lease : Nat)
  /-- RESTORE (R343). Images are checked, positions remapped and the job resumed from the cut. -/
  | restore (r : Restoration)
  /-- UNCORRECTABLE_ERROR (R283). An uncorrectable error reaches firmware and is rolled back or reported. -/
  | uncorrectableError (e : SoftError)
  /-- ROLLBACK (R350). Firmware restores the basting point and relaunches later launches. -/
  | rollback
  /-- CORRECTED_ERROR (R282). A corrected single-bit error is counted where it was found. -/
  | correctedError (w : CorrectedAt)
  /-- SCRUB (R283). Scrubbing marks a 64-byte piece with an uncorrectable error. -/
  | scrub (vdev : Nat) (pa : Nat)
  /-- CORE_DUMP (R284). The dump writer writes a fatal task's record and then settles its entry. -/
  | coreDump (k : Nat) (ok : Bool)
  /-- DRAIN_COMPLETE (R390). A route slot's drain completes and the new table is installed. -/
  | drainComplete (lease : Nat) (slot : Nat)
  /-- ROUTE_SLOT_WRITE (R388). Firmware writes a route slot at the lease's request. -/
  | routeSlotWrite (lease : Nat) (slot : Nat) (x : BitVec 256)
  /-- REMAP_WINDOW_WRITE (R281). Firmware writes a remap window descriptor at the lease's request. -/
  | remapWindowWrite (lease : Nat) (win : Nat) (x : BitVec 256)
  /-- PINNED_WINDOW (R295). Firmware pins ways as a window and loads it from its backing. -/
  | pinnedWindow (lease : Nat) (w : PinnedReq)
  /-- CHUNK_END (R345). In recorded mode a chunk ends, takes a sequence number and logs a record. -/
  | chunkEnd (task : Nat) (why : Nat)
  /-- WRITE_INDEX_UPDATE (R421). The device writes its write index to TWPA at least every 1 µs. -/
  | writeIndexUpdate (lease : Nat)
  /-- TRACE_ENABLE (R420). Writing TCTL with EN = 1 starts the trace ring when SIZE is valid. -/
  | traceEnable (lease : Nat) (x : BitVec 64)
  /-- TRACE_DISABLE (R420). Writing TCTL with EN = 0 stops making records. -/
  | traceDisable (lease : Nat) (x : BitVec 64)
  /-- TRP (R421). The host writes the trace read index, freeing ring slots. -/
  | trpWrite (lease : Nat) (r : BitVec 32)
  /-- LEVEL_SAMPLE (R424). Level sources are sampled every 1,024 cycles, on a unit: a core, or for the slice occupancy a slice, as 64
  times its die plus its number. -/
  | levelSample (lease : Nat) (unit : Nat) (src : BitVec 8)
  /-- POWER_SAMPLE (R414). The power clamp measures power every 1 µs and steps the clock. -/
  | powerSample (avgMilliWatt : Nat)
  /-- THERMAL_CLAMP (R415). A junction above 100 °C lowers the clock. -/
  | thermalClamp (hot : Bool)
  /-- OVERTEMP_RESET (R415). A junction at 115 °C stops every core and resets the device. -/
  | overtempReset
  /-- LINK_CRC_REPLAY (R404). A flit failing its CRC is re-sent from the replay buffer. -/
  | linkCrcReplay (link : Nat)
  /-- PLANE_TABLE_WRITE (R404). The policy core rewrites the plane table and sources re-send unacknowledged flits. -/
  | planeTableWrite (tbl : List Nat)
  /-- FLIT_RECEIVE (R403). A receiving port delivers a flit to the named lease or discards it. -/
  | flitReceive (f : WireFlit)
  /-- TIME_SYNC (R401). Link-management flits synchronise time.now across the domain. -/
  | timeSync (t : BitVec 64)
  /-- TRUNK_CONTROL (R402). A CONTROL flit crosses a trunk between domains. -/
  | trunkControl (f : WireFlit)
  /-- DEBUG_ATTACH (R427). A debugger attaches to a lease through firmware. -/
  | debugAttach (lease : Nat)
  /-- DEBUG_CONTINUE (R427). The debugger continues the job and the stopped instruction issues again. -/
  | debugContinue (lease : Nat)
  /-- DEBUG_CHUNK_STOP (R428). Firmware stops a replay before a given chunk's communicating instruction. -/
  | debugChunkStop (seq : Nat)
  /-- WATCHPOINT_WRITE (R426). Firmware writes a watchpoint at the host's request. -/
  | watchpointWrite (lease : Nat) (ix : Nat) (x : BitVec 128)
  /-- BREAKPOINT_PLANT (R426). Firmware rewrites a slot with BRK and recomputes the line's parity. -/
  | breakpointPlant (lease : Nat) (pc : BitVec 64) (code : BitVec 40)
  /-- DEVICE_RESET (R410). At reset the boot ROM derives the identity and checks Polroth's image. -/
  | deviceReset (imageOk : Bool)
  /-- CONFIGURATION_BLOB (R411). A signed configuration blob is checked and applied. -/
  | configurationBlob (b : ConfigBlob)
  /-- ATTESTATION_REQUEST (R412). The PF returns a signed attestation report. -/
  | attestationRequest (nonce : BitVec 256)
  /-- LEASE_CREATE (R407). Firmware creates a lease with its parameters from a PF mailbox request. -/
  | leaseCreate (r : LeaseRequest)
  /-- TEARDOWN (R409). A lease is stopped, its launches killed and its state cleared. -/
  | teardown (lease : Nat)
  /-- FUNCTION_LEVEL_RESET (R409). A host FLR of a VF performs teardown. -/
  | functionLevelReset (lease : Nat)
  /-- HOST_WRITE (R308). The host writes device memory, which launches that start after the write and a phase change observe. -/
  | hostWrite (vdev : Nat) (pa : Nat) (bytes : List (BitVec 8))
  /-- DUMP_SLOT_FREE (R284). The host frees a dump slot, which the dump writer may then use again. -/
  | dumpSlotFree (lease : Nat) (slot : Nat)
  /-- LAUNCH_IMAGE_LOAD (R260). Firmware loads a launch image, writing its patterns and launch records or refusing a malformed image. -/
  | launchImageLoad (lease : Nat) (img : LaunchImage)
  /-- UNPINNING (R295). Firmware unpins a pinned window, writing it back to its HBM backing and returning its ways to the fill masks. -/
  | unpinning (lease : Nat) (win : Nat)
  /-- END_TO_END_ACKNOWLEDGEMENT (R404). An end-to-end acknowledgement lets a source release the flits it kept for a source, destination and channel triple. -/
  | endToEndAcknowledgement (src : Nat) (dst : Nat) (vc : Nat) (seq : Nat)
  /-- DEBUGGER_WRITE (R427). During a debug stop the debugger writes registers of stopped frames through firmware. -/
  | debuggerWrite (task : Nat) (spec : BitVec 7) (x : BitVec 2048)
  deriving DecidableEq, Repr

end Sys2Proof
end

