-- ==== Sys2Proof/Machine/Forms.lean ====
section
/-! DEFINITION. The encoding tables of the instruction set: which constructor stands at which class and operation
(R54), which register file each field accepts, which bits of IMM it may use, and which MOD values it defines
(R41, R47, R52 and the entry of each instruction). -/
namespace Sys2Proof

/-- The register a specifier names (R13). -/
def Reg.ofSpec (n : BitVec 7) : Reg :=
  let k := n.toNat
  if k < 0x40 then .s (Fin.ofNat 64 k)
  else if k < 0x50 then .v (Fin.ofNat 16 (k - 0x40))
  else if k < 0x58 then .p (Fin.ofNat 8 (k - 0x50))
  else if k < 0x60 then .q (Fin.ofNat 8 (k - 0x58))
  else if k < 0x62 then .z (Fin.ofNat 2 (k - 0x60))
  else .rsv (Fin.ofNat 30 (k - 0x62))

/-- The specifier of a register (R13). -/
def Reg.spec : Reg → BitVec 7
  | .s n => BitVec.ofNat 7 n.val
  | .v n => BitVec.ofNat 7 (0x40 + n.val)
  | .p n => BitVec.ofNat 7 (0x50 + n.val)
  | .q n => BitVec.ofNat 7 (0x58 + n.val)
  | .z n => BitVec.ofNat 7 (0x60 + n.val)
  | .rsv n => BitVec.ofNat 7 (0x62 + n.val)

end Sys2Proof

namespace Sys2Proof.Machine

open Sys2Proof

/-- The fields of an instruction, by format (R42). -/
inductive Body where
  | x (f : Fields)
  | l (f : LFields)
  deriving DecidableEq, Repr

/-- Class, operation and fields of an instruction (R40, R54); an event of the device has none. -/
def partsOf : Instr → Option (Nat × Nat × Body)
  | .nop f => some (0, 0, .x f)
  | .add f => some (0, 1, .x f)
  | .sub f => some (0, 2, .x f)
  | .mul f => some (0, 3, .x f)
  | .mulh f => some (0, 4, .x f)
  | .div f => some (0, 5, .x f)
  | .rem f => some (0, 6, .x f)
  | .and f => some (0, 7, .x f)
  | .or f => some (0, 8, .x f)
  | .xor f => some (0, 9, .x f)
  | .andn f => some (0, 10, .x f)
  | .shl f => some (0, 11, .x f)
  | .shr f => some (0, 12, .x f)
  | .sar f => some (0, 13, .x f)
  | .rot f => some (0, 14, .x f)
  | .min f => some (0, 15, .x f)
  | .max f => some (0, 16, .x f)
  | .abs f => some (0, 17, .x f)
  | .clz f => some (0, 18, .x f)
  | .ctz f => some (0, 19, .x f)
  | .popc f => some (0, 20, .x f)
  | .brev f => some (0, 21, .x f)
  | .bswap f => some (0, 22, .x f)
  | .bfx f => some (0, 23, .x f)
  | .bfi f => some (0, 24, .x f)
  | .sel f => some (0, 25, .x f)
  | .movi f => some (0, 26, .l f)
  | .mov f => some (0, 27, .x f)
  | .lea f => some (0, 28, .x f)
  | .cmp f => some (0, 29, .x f)
  | .tst f => some (0, 30, .x f)
  | .mad f => some (0, 31, .x f)
  | .chk f => some (0, 32, .x f)
  | .fadd f => some (1, 0, .x f)
  | .fsub f => some (1, 1, .x f)
  | .fmul f => some (1, 2, .x f)
  | .ffma f => some (1, 3, .x f)
  | .fdiv f => some (1, 4, .x f)
  | .fsqrt f => some (1, 5, .x f)
  | .fmin f => some (1, 6, .x f)
  | .fmax f => some (1, 7, .x f)
  | .fcmp f => some (1, 8, .x f)
  | .fclass f => some (1, 9, .x f)
  | .fcvt f => some (1, 10, .x f)
  | .ftoi f => some (1, 11, .x f)
  | .itof f => some (1, 12, .x f)
  | .fsgn f => some (1, 13, .x f)
  | .br f => some (2, 0, .x f)
  | .jmp f => some (2, 1, .x f)
  | .call f => some (2, 2, .x f)
  | .callr f => some (2, 3, .x f)
  | .ret f => some (2, 4, .x f)
  | .loop f => some (2, 5, .x f)
  | .qset f => some (2, 6, .x f)
  | .qlog f => some (2, 7, .x f)
  | .ld f => some (3, 0, .x f)
  | .st f => some (3, 1, .x f)
  | .ldv f => some (3, 2, .x f)
  | .stv f => some (3, 3, .x f)
  | .ldg f => some (3, 4, .x f)
  | .stg f => some (3, 5, .x f)
  | .ldt f => some (3, 6, .x f)
  | .pref f => some (3, 7, .x f)
  | .clean f => some (3, 8, .x f)
  | .inval f => some (3, 9, .x f)
  | .ldf f => some (4, 0, .x f)
  | .ldff f => some (4, 1, .x f)
  | .ste f => some (4, 2, .x f)
  | .stf f => some (4, 3, .x f)
  | .sete f => some (4, 4, .x f)
  | .probe f => some (4, 5, .x f)
  | .aadd f => some (4, 8, .x f)
  | .aand f => some (4, 9, .x f)
  | .aor f => some (4, 10, .x f)
  | .axor f => some (4, 11, .x f)
  | .amin f => some (4, 12, .x f)
  | .amax f => some (4, 13, .x f)
  | .aswp f => some (4, 14, .x f)
  | .acas f => some (4, 15, .x f)
  | .aincw f => some (4, 16, .x f)
  | .afaddb f => some (4, 17, .x f)
  | .afadd f => some (4, 18, .x f)
  | .fence f => some (4, 24, .x f)
  | .phase f => some (4, 25, .x f)
  | .rel f => some (4, 26, .x f)
  | .acq f => some (4, 27, .x f)
  | .get f => some (5, 0, .x f)
  | .put f => some (5, 1, .x f)
  | .push f => some (5, 2, .x f)
  | .layout f => some (5, 3, .x f)
  | .cfill f => some (5, 4, .x f)
  | .cquery f => some (5, 5, .x f)
  | .permit f => some (5, 6, .x f)
  | .vadd f => some (6, 0, .x f)
  | .vsub f => some (6, 1, .x f)
  | .vmul f => some (6, 2, .x f)
  | .vmulh f => some (6, 3, .x f)
  | .vmad f => some (6, 4, .x f)
  | .vand f => some (6, 5, .x f)
  | .vor f => some (6, 6, .x f)
  | .vxor f => some (6, 7, .x f)
  | .vshl f => some (6, 8, .x f)
  | .vshr f => some (6, 9, .x f)
  | .vsar f => some (6, 10, .x f)
  | .vmin f => some (6, 11, .x f)
  | .vmax f => some (6, 12, .x f)
  | .vabs f => some (6, 13, .x f)
  | .vcmp f => some (6, 14, .x f)
  | .vsel f => some (6, 15, .x f)
  | .vbcast f => some (6, 16, .x f)
  | .vext f => some (6, 17, .x f)
  | .vins f => some (6, 18, .x f)
  | .vperm f => some (6, 19, .x f)
  | .vslide f => some (6, 20, .x f)
  | .vred f => some (6, 21, .x f)
  | .vscan f => some (6, 22, .x f)
  | .vpopc f => some (6, 23, .x f)
  | .vfirst f => some (6, 24, .x f)
  | .viota f => some (6, 25, .x f)
  | .plog f => some (6, 26, .x f)
  | .vcompress f => some (6, 27, .x f)
  | .vtopk f => some (6, 28, .x f)
  | .vfadd f => some (7, 0, .x f)
  | .vfsub f => some (7, 1, .x f)
  | .vfmul f => some (7, 2, .x f)
  | .vffma f => some (7, 3, .x f)
  | .vfdiv f => some (7, 4, .x f)
  | .vfsqrt f => some (7, 5, .x f)
  | .vfmin f => some (7, 6, .x f)
  | .vfmax f => some (7, 7, .x f)
  | .vfcmp f => some (7, 8, .x f)
  | .vfexp2 f => some (7, 9, .x f)
  | .vflog2 f => some (7, 10, .x f)
  | .vfrcp f => some (7, 11, .x f)
  | .vfrsq f => some (7, 12, .x f)
  | .vfred f => some (7, 13, .x f)
  | .vfcvt f => some (7, 14, .x f)
  | .vftoi f => some (7, 15, .x f)
  | .vitof f => some (7, 16, .x f)
  | .vquant f => some (7, 17, .x f)
  | .vdeq f => some (7, 18, .x f)
  | .vscale f => some (7, 19, .x f)
  | .vfclass f => some (7, 20, .x f)
  | .mgang f => some (8, 0, .x f)
  | .mldb f => some (8, 1, .x f)
  | .mma f => some (8, 2, .x f)
  | .mzero f => some (8, 3, .x f)
  | .mrdz f => some (8, 4, .x f)
  | .mwrz f => some (8, 5, .x f)
  | .mscale f => some (8, 6, .x f)
  | .mrel f => some (8, 7, .x f)
  | .tmv f => some (8, 8, .x f)
  | .spawn f => some (9, 0, .x f)
  | .spawng f => some (9, 1, .x f)
  | .touch f => some (9, 2, .x f)
  | .touchs f => some (9, 3, .x f)
  | .touchany f => some (9, 4, .x f)
  | .resolve f => some (9, 5, .x f)
  | .poison f => some (9, 6, .x f)
  | .cancel f => some (9, 7, .x f)
  | .keep f => some (9, 8, .x f)
  | .fdrop f => some (9, 9, .x f)
  | .fstat f => some (9, 10, .x f)
  | .retire f => some (9, 11, .x f)
  | .yield f => some (9, 12, .x f)
  | .fnew f => some (9, 13, .x f)
  | .needle f => some (10, 0, .x f)
  | .send f => some (10, 1, .x f)
  | .sendv f => some (10, 2, .x f)
  | .clr f => some (10, 3, .x f)
  | .msg f => some (10, 4, .x f)
  | .mbind f => some (10, 5, .x f)
  | .mpost f => some (10, 6, .x f)
  | .mtake f => some (10, 7, .x f)
  | .binit f => some (10, 8, .x f)
  | .barr f => some (10, 9, .x f)
  | .bwait f => some (10, 10, .x f)
  | .barw f => some (10, 11, .x f)
  | .blink f => some (10, 12, .x f)
  | .getsr f => some (11, 0, .x f)
  | .setsr f => some (11, 1, .x f)
  | .trap f => some (11, 2, .x f)
  | .eret f => some (11, 3, .x f)
  | .brk f => some (11, 4, .x f)
  | .trace f => some (11, 5, .x f)
  | .tstamp f => some (11, 6, .x f)
  | .lpatch f => some (11, 7, .x f)
  | .larm f => some (11, 8, .x f)
  | .patset f => some (11, 9, .x f)
  | .patget f => some (11, 10, .x f)
  | .baste f => some (11, 11, .x f)
  | _ => none

/-- The assigned operations of class 0x0 (R54). -/
def ofOp0 (op : Nat) (f : Fields) (lf : LFields) : Option Instr :=
  match op with
  | 0 => some (.nop f)
  | 1 => some (.add f)
  | 2 => some (.sub f)
  | 3 => some (.mul f)
  | 4 => some (.mulh f)
  | 5 => some (.div f)
  | 6 => some (.rem f)
  | 7 => some (.and f)
  | 8 => some (.or f)
  | 9 => some (.xor f)
  | 10 => some (.andn f)
  | 11 => some (.shl f)
  | 12 => some (.shr f)
  | 13 => some (.sar f)
  | 14 => some (.rot f)
  | 15 => some (.min f)
  | 16 => some (.max f)
  | 17 => some (.abs f)
  | 18 => some (.clz f)
  | 19 => some (.ctz f)
  | 20 => some (.popc f)
  | 21 => some (.brev f)
  | 22 => some (.bswap f)
  | 23 => some (.bfx f)
  | 24 => some (.bfi f)
  | 25 => some (.sel f)
  | 26 => some (.movi lf)
  | 27 => some (.mov f)
  | 28 => some (.lea f)
  | 29 => some (.cmp f)
  | 30 => some (.tst f)
  | 31 => some (.mad f)
  | 32 => some (.chk f)
  | _ => none

/-- The assigned operations of class 0x1 (R54). -/
def ofOp1 (op : Nat) (f : Fields) : Option Instr :=
  match op with
  | 0 => some (.fadd f)
  | 1 => some (.fsub f)
  | 2 => some (.fmul f)
  | 3 => some (.ffma f)
  | 4 => some (.fdiv f)
  | 5 => some (.fsqrt f)
  | 6 => some (.fmin f)
  | 7 => some (.fmax f)
  | 8 => some (.fcmp f)
  | 9 => some (.fclass f)
  | 10 => some (.fcvt f)
  | 11 => some (.ftoi f)
  | 12 => some (.itof f)
  | 13 => some (.fsgn f)
  | _ => none

/-- The assigned operations of class 0x2 (R54). -/
def ofOp2 (op : Nat) (f : Fields) : Option Instr :=
  match op with
  | 0 => some (.br f)
  | 1 => some (.jmp f)
  | 2 => some (.call f)
  | 3 => some (.callr f)
  | 4 => some (.ret f)
  | 5 => some (.loop f)
  | 6 => some (.qset f)
  | 7 => some (.qlog f)
  | _ => none

/-- The assigned operations of class 0x3 (R54). -/
def ofOp3 (op : Nat) (f : Fields) : Option Instr :=
  match op with
  | 0 => some (.ld f)
  | 1 => some (.st f)
  | 2 => some (.ldv f)
  | 3 => some (.stv f)
  | 4 => some (.ldg f)
  | 5 => some (.stg f)
  | 6 => some (.ldt f)
  | 7 => some (.pref f)
  | 8 => some (.clean f)
  | 9 => some (.inval f)
  | _ => none

/-- The assigned operations of class 0x4 (R54). -/
def ofOp4 (op : Nat) (f : Fields) : Option Instr :=
  match op with
  | 0 => some (.ldf f)
  | 1 => some (.ldff f)
  | 2 => some (.ste f)
  | 3 => some (.stf f)
  | 4 => some (.sete f)
  | 5 => some (.probe f)
  | 8 => some (.aadd f)
  | 9 => some (.aand f)
  | 10 => some (.aor f)
  | 11 => some (.axor f)
  | 12 => some (.amin f)
  | 13 => some (.amax f)
  | 14 => some (.aswp f)
  | 15 => some (.acas f)
  | 16 => some (.aincw f)
  | 17 => some (.afaddb f)
  | 18 => some (.afadd f)
  | 24 => some (.fence f)
  | 25 => some (.phase f)
  | 26 => some (.rel f)
  | 27 => some (.acq f)
  | _ => none

/-- The assigned operations of class 0x5 (R54). -/
def ofOp5 (op : Nat) (f : Fields) : Option Instr :=
  match op with
  | 0 => some (.get f)
  | 1 => some (.put f)
  | 2 => some (.push f)
  | 3 => some (.layout f)
  | 4 => some (.cfill f)
  | 5 => some (.cquery f)
  | 6 => some (.permit f)
  | _ => none

/-- The assigned operations of class 0x6 (R54). -/
def ofOp6 (op : Nat) (f : Fields) : Option Instr :=
  match op with
  | 0 => some (.vadd f)
  | 1 => some (.vsub f)
  | 2 => some (.vmul f)
  | 3 => some (.vmulh f)
  | 4 => some (.vmad f)
  | 5 => some (.vand f)
  | 6 => some (.vor f)
  | 7 => some (.vxor f)
  | 8 => some (.vshl f)
  | 9 => some (.vshr f)
  | 10 => some (.vsar f)
  | 11 => some (.vmin f)
  | 12 => some (.vmax f)
  | 13 => some (.vabs f)
  | 14 => some (.vcmp f)
  | 15 => some (.vsel f)
  | 16 => some (.vbcast f)
  | 17 => some (.vext f)
  | 18 => some (.vins f)
  | 19 => some (.vperm f)
  | 20 => some (.vslide f)
  | 21 => some (.vred f)
  | 22 => some (.vscan f)
  | 23 => some (.vpopc f)
  | 24 => some (.vfirst f)
  | 25 => some (.viota f)
  | 26 => some (.plog f)
  | 27 => some (.vcompress f)
  | 28 => some (.vtopk f)
  | _ => none

/-- The assigned operations of class 0x7 (R54). -/
def ofOp7 (op : Nat) (f : Fields) : Option Instr :=
  match op with
  | 0 => some (.vfadd f)
  | 1 => some (.vfsub f)
  | 2 => some (.vfmul f)
  | 3 => some (.vffma f)
  | 4 => some (.vfdiv f)
  | 5 => some (.vfsqrt f)
  | 6 => some (.vfmin f)
  | 7 => some (.vfmax f)
  | 8 => some (.vfcmp f)
  | 9 => some (.vfexp2 f)
  | 10 => some (.vflog2 f)
  | 11 => some (.vfrcp f)
  | 12 => some (.vfrsq f)
  | 13 => some (.vfred f)
  | 14 => some (.vfcvt f)
  | 15 => some (.vftoi f)
  | 16 => some (.vitof f)
  | 17 => some (.vquant f)
  | 18 => some (.vdeq f)
  | 19 => some (.vscale f)
  | 20 => some (.vfclass f)
  | _ => none

/-- The assigned operations of class 0x8 (R54). -/
def ofOp8 (op : Nat) (f : Fields) : Option Instr :=
  match op with
  | 0 => some (.mgang f)
  | 1 => some (.mldb f)
  | 2 => some (.mma f)
  | 3 => some (.mzero f)
  | 4 => some (.mrdz f)
  | 5 => some (.mwrz f)
  | 6 => some (.mscale f)
  | 7 => some (.mrel f)
  | 8 => some (.tmv f)
  | _ => none

/-- The assigned operations of class 0x9 (R54). -/
def ofOp9 (op : Nat) (f : Fields) : Option Instr :=
  match op with
  | 0 => some (.spawn f)
  | 1 => some (.spawng f)
  | 2 => some (.touch f)
  | 3 => some (.touchs f)
  | 4 => some (.touchany f)
  | 5 => some (.resolve f)
  | 6 => some (.poison f)
  | 7 => some (.cancel f)
  | 8 => some (.keep f)
  | 9 => some (.fdrop f)
  | 10 => some (.fstat f)
  | 11 => some (.retire f)
  | 12 => some (.yield f)
  | 13 => some (.fnew f)
  | _ => none

/-- The assigned operations of class 0xa (R54). -/
def ofOp10 (op : Nat) (f : Fields) : Option Instr :=
  match op with
  | 0 => some (.needle f)
  | 1 => some (.send f)
  | 2 => some (.sendv f)
  | 3 => some (.clr f)
  | 4 => some (.msg f)
  | 5 => some (.mbind f)
  | 6 => some (.mpost f)
  | 7 => some (.mtake f)
  | 8 => some (.binit f)
  | 9 => some (.barr f)
  | 10 => some (.bwait f)
  | 11 => some (.barw f)
  | 12 => some (.blink f)
  | _ => none

/-- The assigned operations of class 0xb (R54). -/
def ofOp11 (op : Nat) (f : Fields) : Option Instr :=
  match op with
  | 0 => some (.getsr f)
  | 1 => some (.setsr f)
  | 2 => some (.trap f)
  | 3 => some (.eret f)
  | 4 => some (.brk f)
  | 5 => some (.trace f)
  | 6 => some (.tstamp f)
  | 7 => some (.lpatch f)
  | 8 => some (.larm f)
  | 9 => some (.patset f)
  | 10 => some (.patget f)
  | 11 => some (.baste f)
  | _ => none

/-- The instruction at a class and operation, or none where R54 assigns nothing. -/
def ofParts (cls op : Nat) (f : Fields) (lf : LFields) : Option Instr :=
  match cls with
  | 0 => ofOp0 op f lf
  | 1 => ofOp1 op f
  | 2 => ofOp2 op f
  | 3 => ofOp3 op f
  | 4 => ofOp4 op f
  | 5 => ofOp5 op f
  | 6 => ofOp6 op f
  | 7 => ofOp7 op f
  | 8 => ofOp8 op f
  | 9 => ofOp9 op f
  | 10 => ofOp10 op f
  | 11 => ofOp11 op f
  | _ => none
/-- The bits [hi:lo] of a modifier or immediate as a number. -/
def fld {w : Nat} (x : BitVec w) (hi lo : Nat) : Nat := (x.toNat >>> lo) % 2 ^ (hi + 1 - lo)

/-- What a register field accepts (R41): `unused` is 0x00 with a clear trap bit; `sNZ` is s1 to s63; `mask` is a p
register or 0x00; `vOpt` is a v register or 0x00; `any` is a register CLR may name. -/
inductive Kind where
  | unused | s | sNZ | v | p | q | z | mask | sv | vp | vOpt | any | bad
  deriving DecidableEq, Repr

/-- Whether a field of this kind accepts the register. -/
def Kind.accepts : Kind → Reg → Bool
  | .unused, r => r == .s 0
  | .s, .s _ => true
  | .sNZ, .s n => n != 0
  | .v, .v _ => true
  | .p, .p _ => true
  | .q, .q _ => true
  | .z, .z _ => true
  | .mask, .p _ => true
  | .mask, r => r == .s 0
  | .sv, .s _ => true
  | .sv, .v _ => true
  | .vp, .v _ => true
  | .vp, .p _ => true
  | .vOpt, .v _ => true
  | .vOpt, r => r == .s 0
  | .any, .s n => n != 0
  | .any, .v _ => true
  | .any, .p _ => true
  | .any, .q _ => true
  | _, _ => false

/-- Whether a source field is as its kind asks: an unused field has its trap bit clear (R41). A field that the entry
uses may hold 0x00 with its trap bit set: DEDUCED (assumption log 12); unsafe if such a word traps. -/
def Kind.acceptsSrc (k : Kind) (x : Src) : Bool :=
  k.accepts x.reg && !(k == .unused && x.trap)

/-- What the fields of one instruction may hold: the four register fields, the usable bits of IMM, and a further
condition on IMM. -/
structure Shape where
  dst : Kind := .unused
  a : Kind := .unused
  b : Kind := .unused
  c : Kind := .unused
  imm : BitVec 40 := 0
  immOk : Bool := true
  deriving DecidableEq, Repr

/-- All 40 bits of IMM. -/
def allImm : BitVec 40 := 0xFFFFFFFFFF#40

/-- The bits of IMM that format E packs as PX, PY, PZ and the low bits of EX (R46). -/
def eImm (px py pz : Bool) (ex : Nat) : BitVec 40 :=
  (if px then 0xFF00000000#40 else 0) ||| (if py then 0x00FF000000#40 else 0) |||
    (if pz then 0x0000FF0000#40 else 0) ||| BitVec.ofNat 40 ex

/-- Bit 7 of MOD: the second operand is IMM (R47, R157). -/
def immForm (m : BitVec 8) : Bool := m.getLsbD 7

/-- The second source: unused in the immediate form, otherwise of kind `k`. -/
def secondKind (m : BitVec 8) (k : Kind) : Kind := if immForm m then .unused else k

/-- IMM in an instruction whose second operand may be immediate. -/
def secondImm (m : BitVec 8) : BitVec 40 := if immForm m then allImm else 0

/-- Width in bits of the floating-point side of a class 0x7 conversion (R166). -/
def ftBits (m : BitVec 8) : Nat := if fld m 4 3 = 0 then 32 else 16

/-- Width in bits of the other side of a conversion, by mnemonic and X (R169, R171). -/
def convBits (codes : List Nat) (m : BitVec 8) : Nat := codes.getD (fld m 2 0) 8

/-- The ratio of the wider to the narrower width (R170). -/
def ratio (x y : Nat) : Nat := if x < y then y / x else x / y

/-- A class 0x7 conversion's part number lies below the ratio (R170). A MOD that names no format gives no ratio and is
refused as a modifier (R51). -/
def partOk (codes : List Nat) (f : Fields) : Bool :=
  fld f.mod 4 3 == 3 || decide (codes.length ≤ fld f.mod 2 0) ||
    decide (fld f.imm 2 0 < ratio (ftBits f.mod) (convBits codes f.mod))

/-- X codes of VFCVT, VFTOI and VITOF, VQUANT and VDEQ as widths (R169, R171). -/
def cvtWidths : List Nat := [16, 16, 8, 8, 8, 8]
def intWidths : List Nat := [32, 16, 8, 8, 4, 4]
def quantWidths : List Nat := [8, 8, 4, 4]
def deqWidths : List Nat := [8, 8, 4, 4, 8, 8, 16, 16]

/-- A special-register number that R21 lists. -/
def srListed (n : Nat) : Bool :=
  decide (n ≤ 5) || (decide (0x10 ≤ n) && decide (n ≤ 0x17)) || (decide (0x20 ≤ n) && decide (n ≤ 0x24)) ||
    (decide (0x30 ≤ n) && decide (n ≤ 0x33)) || n == 0x38 || n == 0x39 || n == 0x40 ||
    (decide (0x80 ≤ n) && decide (n ≤ 0xBF)) || (decide (0x100 ≤ n) && decide (n ≤ 0x1FF))

/-- The register that a NEEDLE may name under its mode (R207). -/
def needleRegOk (mode : Nat) (n : BitVec 7) : Bool :=
  match Reg.ofSpec n with
  | .s k => k != 0
  | .v _ => true
  | .p _ => mode != 3
  | .q _ => mode != 3
  | _ => false

/-- The two source files MOV accepts for its destination (R102); `bad` for a pair it refuses. -/
def movSource (f : Fields) : Kind :=
  if immForm f.mod then
    match f.dst with
    | .s _ => .unused | .p _ => .unused | .q _ => .unused | _ => .bad
  else
    match f.dst, f.a.reg with
    | .s _, .s _ => .s | .s _, .p _ => .p | .s _, .q _ => .q
    | .p _, .s _ => .s | .p _, .p _ => .p
    | .q _, .s _ => .s | .q _, .q _ => .q
    | .v _, .v _ => .v
    | _, _ => .bad

/-- The destination of MOV: any file but z (R102). -/
def movDst (f : Fields) : Kind :=
  match f.dst with
  | .s _ => .s | .v _ => .v | .p _ => .p | .q _ => .q | _ => .bad

/-- Placement by a position or an address (R190): SC is then named. -/
def spawnWhere (m : BitVec 8) : Kind :=
  if fld m 7 6 = 1 || fld m 7 6 = 2 then .sNZ else .unused

/-- The shape of an instruction's fields, from its entry. -/
def shapeOf : Instr → Fields → Shape
  -- class 0x0 (R93, R102, R103)
  | .nop _, _ => {}
  | .add _, f | .sub _, f | .mul _, f | .mulh _, f | .div _, f | .rem _, f | .and _, f | .or _, f | .xor _, f
  | .andn _, f | .shl _, f | .shr _, f | .sar _, f | .rot _, f | .min _, f | .max _, f | .bfx _, f | .chk _, f =>
      { dst := .s, a := .s, b := secondKind f.mod .s, imm := secondImm f.mod }
  | .abs _, _ | .clz _, _ | .ctz _, _ | .popc _, _ | .brev _, _ | .bswap _, _ => { dst := .s, a := .s }
  | .bfi _, f | .mad _, f => { dst := .s, a := .s, b := secondKind f.mod .s, c := .s, imm := secondImm f.mod }
  | .sel _, f => { dst := .s, a := .s, b := secondKind f.mod .s, c := .q, imm := secondImm f.mod }
  | .movi _, _ => { dst := .s }
  | .mov _, f => { dst := movDst f, a := movSource f, imm := secondImm f.mod }
  | .lea _, _ => { dst := .s, a := .s, b := .s, imm := allImm }
  | .cmp _, f | .tst _, f => { dst := .q, a := .s, b := secondKind f.mod .s, imm := secondImm f.mod }
  -- class 0x1 (R108)
  | .fadd _, _ | .fsub _, _ | .fmul _, _ | .fdiv _, _ | .fmin _, _ | .fmax _, _ | .fsgn _, _ =>
      { dst := .s, a := .s, b := .s }
  | .ffma _, _ => { dst := .s, a := .s, b := .s, c := .s }
  | .fsqrt _, _ | .fclass _, _ | .fcvt _, _ | .ftoi _, _ | .itof _, _ => { dst := .s, a := .s }
  | .fcmp _, _ => { dst := .q, a := .s, b := .s }
  -- class 0x2 (R116, R120, R121)
  | .br _, _ => { imm := allImm }
  | .jmp _, _ | .ret _, _ => { a := .s }
  | .call _, _ => { dst := .s, imm := allImm }
  | .callr _, _ => { dst := .s, a := .s }
  | .loop _, _ => { dst := .sNZ, imm := allImm }
  | .qset _, f => { imm := 0xFFFF#40, immOk := (fld f.imm 15 8 &&& (255 - fld f.imm 7 0)) == 0 }
  | .qlog _, _ => { dst := .q, a := .q, b := .q, imm := 0xF#40 }
  -- class 0x3 (R126, R129, R130, R131)
  | .ld _, _ => { dst := .s, a := .s, b := .s, imm := allImm }
  | .st _, _ => { a := .s, b := .s, c := .s, imm := allImm }
  | .ldv _, _ => { dst := .v, a := .s, b := .s, imm := allImm }
  | .stv _, _ => { dst := .mask, a := .s, b := .s, c := .v, imm := allImm }
  | .ldg _, _ => { dst := .v, a := .s, b := .v, c := .mask, imm := allImm }
  | .stg _, _ => { dst := .mask, a := .s, b := .v, c := .v, imm := allImm }
  | .ldt _, _ => { dst := .v, a := .s, b := .s, c := .s, imm := eImm true false false 0x3FF }
  | .pref _, _ | .clean _, _ | .inval _, _ => { a := .s, b := .s, imm := allImm }
  -- class 0x4 (R133, R137, R142)
  | .ldf _, _ | .ldff _, _ | .probe _, _ => { dst := .s, a := .s, b := .s, imm := allImm }
  | .ste _, _ | .stf _, _ => { a := .s, b := .s, c := .s, imm := allImm }
  | .sete _, _ => { a := .s, b := .s, imm := allImm }
  | .aadd _, _ | .aand _, _ | .aor _, _ | .axor _, _ | .amin _, _ | .amax _, _ | .aswp _, _ | .acas _, _
  | .aincw _, _ | .afaddb _, _ | .afadd _, _ => { dst := .s, a := .s, b := .s, c := .s, imm := allImm }
  | .fence _, _ | .phase _, _ | .rel _, _ | .acq _, _ => {}
  -- class 0x5 (R151 to R156)
  | .get _, _ | .put _, _ | .push _, _ => { dst := .s, a := .s, b := .s, c := .s, imm := eImm true true false 0 }
  | .layout _, f =>
      { dst := .s, a := if fld f.mod 1 0 = 2 then .unused else .s, b := .s, c := .s, imm := eImm true true false 0 }
  | .cfill _, _ => { dst := .s, a := .s, b := .s, c := .s, imm := eImm true false false 0 }
  | .cquery _, _ => { dst := .sNZ }
  | .permit _, f =>
      { dst := .s, a := .s, imm := eImm true false false 0xFFFF, immOk := fld f.imm 15 0 != 0 }
  -- class 0x6 (R160, R162)
  | .vadd _, f | .vsub _, f | .vmul _, f | .vmulh _, f | .vmad _, f | .vand _, f | .vor _, f | .vxor _, f
  | .vshl _, f | .vshr _, f | .vsar _, f | .vmin _, f | .vmax _, f =>
      { dst := .v, a := .v, b := secondKind f.mod .v, c := .mask, imm := secondImm f.mod }
  | .vabs _, _ => { dst := .v, a := .v, c := .mask }
  | .vcmp _, f => { dst := .vp, a := .v, b := secondKind f.mod .v, c := .mask, imm := secondImm f.mod }
  | .vsel _, f => { dst := .v, a := .v, b := secondKind f.mod .v, c := .p, imm := secondImm f.mod }
  | .vbcast _, f => { dst := .v, a := secondKind f.mod .s, imm := secondImm f.mod }
  | .vext _, f => { dst := .s, a := .v, b := secondKind f.mod .s, imm := secondImm f.mod }
  | .vins _, f => { dst := .v, a := .s, b := secondKind f.mod .s, imm := secondImm f.mod }
  | .vperm _, _ => { dst := .v, a := .v, b := .v, c := .mask }
  | .vslide _, f => { dst := .v, a := .v, b := secondKind f.mod .s, c := .mask, imm := secondImm f.mod }
  | .vred _, _ => { dst := .s, a := .v, c := .mask }
  | .vscan _, _ => { dst := .v, a := .v, c := .mask }
  | .vpopc _, _ => { dst := .s, a := .p, c := .mask }
  | .vfirst _, _ => { dst := .s, a := .p }
  | .viota _, _ => { dst := .v, a := .p }
  | .plog _, _ => { dst := .p, a := .p, b := .p, imm := 0xF#40 }
  | .vcompress _, _ => { dst := .v, a := .v, c := .p }
  | .vtopk _, f => { dst := .v, a := .v, b := secondKind f.mod .s, c := .mask, imm := secondImm f.mod }
  -- class 0x7 (R167 to R171)
  | .vfadd _, _ | .vfsub _, _ | .vfmul _, _ | .vffma _, _ | .vfdiv _, _ | .vfmin _, _ | .vfmax _, _ =>
      { dst := .v, a := .v, b := .v, c := .mask }
  | .vfcmp _, _ => { dst := .vp, a := .v, b := .v, c := .mask }
  | .vfsqrt _, _ | .vfexp2 _, _ | .vflog2 _, _ | .vfrcp _, _ | .vfrsq _, _ | .vfclass _, _ =>
      { dst := .v, a := .v, c := .mask }
  | .vfred _, _ => { dst := .s, a := .v, c := .mask }
  | .vfcvt _, f => { dst := .v, a := .v, imm := 7, immOk := partOk cvtWidths f }
  | .vftoi _, f | .vitof _, f => { dst := .v, a := .v, imm := 7, immOk := partOk intWidths f }
  | .vquant _, f => { dst := .v, a := .v, b := .s, c := .s, imm := 7, immOk := partOk quantWidths f }
  | .vdeq _, f =>
      { dst := .v, a := .v, b := .s, c := if fld f.mod 2 0 < 4 then .s else .unused, imm := 7,
        immOk := partOk deqWidths f }
  | .vscale _, _ => { dst := .v, a := .v, b := .sv, c := .mask }
  -- class 0x8 (R173 to R184)
  | .mgang _, _ => { dst := .s, imm := eImm false false false 0xFF }
  | .mldb _, _ => { dst := .s, a := .s, imm := eImm true false false 0 }
  | .mma _, f =>
      { dst := .s, a := .s, c := .z, imm := eImm true false false 0xFF,
        immOk := fld f.imm 7 0 != 0 && decide (fld f.imm 7 0 ≤ 128) }
  | .mzero _, _ => { dst := .s, c := .z }
  | .mrdz _, f =>
      { dst := .s, a := .s, c := .z, imm := eImm false true false 0xFF,
        immOk := fld f.imm 7 0 != 0 && decide (fld f.imm 7 0 ≤ 128) }
  | .mwrz _, f =>
      { dst := .s, a := .s, c := .z, imm := eImm true false false 0xFF,
        immOk := fld f.imm 7 0 != 0 && decide (fld f.imm 7 0 ≤ 128) }
  | .mscale _, _ => { dst := .s, a := .s, b := .s, c := .z }
  | .mrel _, _ => { dst := .s }
  | .tmv _, _ => { dst := .s, a := .s, imm := eImm true true true 1 }
  -- class 0x9 (R191, R197, R200, R204)
  | .spawn _, f => { dst := .s, a := .s, b := .s, c := spawnWhere f.mod, imm := 0xFFF#40 }
  | .spawng _, f => { dst := .s, a := .s, b := .s, c := spawnWhere f.mod, imm := eImm true false false 0xFFF }
  | .fnew _, _ => { dst := .s, imm := 0xFFF#40 }
  | .touch _, _ => { dst := .s, a := .s }
  | .touchs _, _ => { dst := .s, a := .s, c := .q }
  | .touchany _, f =>
      { dst := .s, a := .v, imm := 0x3F#40, immOk := fld f.imm 5 0 != 0 && decide (fld f.imm 5 0 ≤ 32) }
  | .resolve _, _ => { dst := .s, a := .s, b := .s }
  | .poison _, _ => { dst := .s, a := .s, b := .s, c := .s }
  | .cancel _, _ | .keep _, _ | .fdrop _, _ | .fstat _, _ => { dst := .s, a := .s }
  | .retire _, _ => { a := .s }
  | .yield _, _ => {}
  -- class 0xA (R206, R211, R216)
  | .needle _, f =>
      { dst := .s, imm := 0x7F#40, immOk := needleRegOk (fld f.mod 1 0) (f.imm.setWidth 7) }
  | .send _, _ => { dst := .s, a := .s, b := .s }
  | .sendv _, _ => { dst := .s, a := .s, b := .v }
  | .clr _, _ => { dst := .any }
  | .msg _, _ => { dst := .s, a := .s, b := .vOpt, c := .s, imm := 0x3F#40 }
  | .mbind _, _ => { a := .s, imm := 0x3F#40 }
  | .mpost _, _ => { dst := .s, a := .s, b := .s, c := .s }
  | .mtake _, f =>
      { dst := .v, imm := 0x1F03#40, immOk := fld f.imm 12 8 != 0 && decide (fld f.imm 12 8 ≤ 16) }
  | .binit _, f => if f.mod.getLsbD 0 then { a := .s } else { a := .s, b := .s, c := .s }
  | .barr _, _ | .barw _, _ => { dst := .s, a := .s }
  | .bwait _, _ | .blink _, _ => { dst := .s, a := .s, b := .s }
  -- class 0xB (R221, R224)
  | .getsr _, f => { dst := .s, imm := 0x1FF#40, immOk := srListed (fld f.imm 8 0) }
  | .setsr _, f => { a := .s, imm := 0x1FF#40, immOk := srListed (fld f.imm 8 0) }
  | .trap _, _ | .brk _, _ => { imm := allImm }
  | .eret _, _ => {}
  | .trace _, _ => { a := .s, imm := 0xFFFF#40 }
  | .tstamp _, _ => { dst := .s }
  | .lpatch _, _ => { a := .s, b := .s, imm := 0xFF#40 }
  | .larm _, _ => { dst := .s, a := .s }
  | .patset _, _ => { a := .v, imm := 0xFF#40 }
  | .patget _, _ => { dst := .v, imm := 0xFF#40 }
  | .baste _, _ => { dst := .s, a := .s, b := .s }
  | _, _ => {}

/-- RM is a rounding mode or the dynamic mode (R47). -/
def rmOk (m : BitVec 8) : Bool := fld m 7 5 != 5 && fld m 7 5 != 6

/-- The MOD fields I, S and W of class 0x0 with CC zero (R91). -/
def isw (m : BitVec 8) : Bool := fld m 6 3 == 0

/-- ORD of the copy unit is none or `.after` (R145). -/
def copyOrd (m : BitVec 8) : Bool := decide (fld m 7 6 ≤ 1)

/-- A class 0x7 MOD with a legal format and rounding, and X within `n` (R166). -/
def fmodOk (m : BitVec 8) (n : Nat) : Bool := rmOk m && fld m 4 3 != 3 && decide (fld m 2 0 ≤ n)

/-- Whether MOD is defined for the instruction (R47 and the entries). -/
def modOk : Instr → Bool
  | .nop f => f.mod == 0
  | .add f | .sub f | .mul f | .mulh f | .div f | .rem f | .and f | .or f | .xor f | .andn f
  | .shl f | .shr f | .sar f | .rot f | .min f | .max f | .mad f | .chk f => isw f.mod
  | .abs f | .clz f | .ctz f | .popc f | .brev f | .bswap f => isw f.mod && !immForm f.mod
  | .bfx f => fld f.mod 6 3 == 0 && fld f.mod 1 0 == 0
  | .bfi f | .sel f => fld f.mod 6 0 == 0
  | .movi f => f.mod == 0
  | .mov f =>
      fld f.mod 6 3 == 0 &&
        (fld f.mod 2 0 == 0 ||
          (match f.dst, f.a.reg with
           | .s _, .s _ => true
           | _, _ => false))
  | .lea f => fld f.mod 7 6 == 0 && fld f.mod 3 0 == 0
  | .cmp f => decide (fld f.mod 6 3 ≤ 5)
  | .tst f => decide (fld f.mod 6 3 ≤ 1) && !f.mod.getLsbD 2
  | .fadd f | .fsub f | .fmul f | .ffma f | .fdiv f | .fsqrt f =>
      rmOk f.mod && fld f.mod 4 2 == 0 && decide (fld f.mod 1 0 < 2)
  | .fmin f | .fmax f | .fclass f => fld f.mod 7 2 == 0 && decide (fld f.mod 1 0 < 2)
  | .fcmp f => fld f.mod 7 5 == 0 && decide (fld f.mod 4 2 ≤ 6) && decide (fld f.mod 1 0 < 2)
  | .fcvt f => rmOk f.mod && !f.mod.getLsbD 4
  | .ftoi f | .itof f => rmOk f.mod
  | .fsgn f => fld f.mod 7 4 == 0 && fld f.mod 3 2 != 3 && decide (fld f.mod 1 0 < 2)
  | .br f | .jmp f | .call f | .callr f | .ret f | .loop f | .qset f | .qlog f => f.mod == 0
  | .ld f => decide (fld f.mod 2 0 ≤ 3)
  | .st f => decide (fld f.mod 2 0 ≤ 3) && !f.mod.getLsbD 3
  | .ldv f | .stv f => fld f.mod 3 0 == 4
  | .ldg f => decide (fld f.mod 2 0 ≤ 2)
  | .stg f => decide (fld f.mod 2 0 ≤ 2) && !f.mod.getLsbD 3
  | .ldt f => fld f.mod 5 0 == 0
  | .pref f | .clean f | .inval f =>
      fld f.mod 7 6 == 0 && !f.mod.getLsbD 3 && decide (fld f.mod 2 0 ≤ 1)
  | .ldf f | .ldff f | .ste f | .stf f | .sete f | .probe f => fld f.mod 3 0 == 3
  | .aadd f | .aand f | .aor f | .axor f | .aswp f | .aincw f | .afadd f =>
      (fld f.mod 2 0 == 2 || fld f.mod 2 0 == 3) && !f.mod.getLsbD 3
  | .amin f | .amax f => fld f.mod 2 0 == 2 || fld f.mod 2 0 == 3
  | .acas f => (fld f.mod 2 0 == 2 || fld f.mod 2 0 == 3) && !f.mod.getLsbD 3 && fld f.mod 5 4 == 0
  | .afaddb f => (fld f.mod 2 0 == 2 || fld f.mod 2 0 == 3) && fld f.mod 5 4 == 0
  | .fence f => decide (f.mod.toNat ≤ 5)
  | .phase f | .rel f | .acq f => f.mod == 0
  | .get f | .put f | .push f | .cfill f | .permit f => copyOrd f.mod && fld f.mod 5 0 == 0
  | .layout f => copyOrd f.mod && fld f.mod 5 3 != 5 && fld f.mod 5 3 != 6 && fld f.mod 1 0 != 3
  | .cquery f => f.mod == 0
  | .vadd f | .vsub f | .vmul f | .vmad f => fld f.mod 4 3 != 3 && fld f.mod 2 0 == 0
  | .vmulh f | .vmin f | .vmax f => fld f.mod 4 3 != 3 && fld f.mod 2 0 == 0 && !f.mod.getLsbD 6
  | .vand f | .vor f | .vxor f | .vshl f | .vshr f | .vsar f | .vsel f | .vbcast f | .vins f | .vslide f =>
      fld f.mod 4 3 != 3 && fld f.mod 2 0 == 0 && fld f.mod 6 5 == 0
  | .vabs f => fld f.mod 4 3 != 3 && fld f.mod 2 0 == 0 && !f.mod.getLsbD 7 && !f.mod.getLsbD 5
  | .vcmp f => fld f.mod 4 3 != 3 && decide (fld f.mod 2 0 ≤ 5) && !f.mod.getLsbD 6
  | .vext f => fld f.mod 4 3 != 3 && fld f.mod 2 0 == 0 && !f.mod.getLsbD 6
  | .vperm f => fld f.mod 4 3 != 3 && fld f.mod 2 0 == 0 && fld f.mod 7 5 == 0
  | .vred f | .vscan f =>
      fld f.mod 4 3 != 3 && decide (fld f.mod 2 0 ≤ 5) && !f.mod.getLsbD 7 &&
        (!f.mod.getLsbD 6 || fld f.mod 2 0 == 0)
  | .vpopc f | .vfirst f | .viota f | .plog f | .vcompress f => f.mod == 0
  | .vtopk f =>
      fld f.mod 4 3 != 3 && decide (fld f.mod 2 0 ≤ 1) && !f.mod.getLsbD 6 &&
        (fld f.mod 2 0 == 0 || (!f.mod.getLsbD 5 && fld f.mod 4 3 != 2))
  | .vfadd f | .vfsub f | .vfmul f | .vffma f | .vfdiv f | .vfsqrt f | .vfexp2 f | .vflog2 f | .vfrcp f
  | .vfrsq f | .vscale f => fmodOk f.mod 0
  | .vfmin f | .vfmax f | .vfclass f => fmodOk f.mod 0 && fld f.mod 7 5 == 0
  | .vfcmp f => fmodOk f.mod 6 && fld f.mod 7 5 == 0
  | .vfred f => fmodOk f.mod 2 && (fld f.mod 2 0 == 0 || fld f.mod 7 5 == 0)
  | .vfcvt f | .vftoi f | .vitof f => fmodOk f.mod 5
  | .vquant f => fmodOk f.mod 3
  | .vdeq f => fmodOk f.mod 7
  | .mgang f | .mzero f | .mwrz f | .mscale f | .mrel f => f.mod == 0
  | .mldb f => fld f.mod 7 1 == 0
  | .mma f => fld f.mod 7 5 == 0 && fld f.mod 3 1 == 0
  | .mrdz f => rmOk f.mod && fld f.mod 3 0 == 0
  | .tmv f => fld f.mod 7 5 == 0 && fld f.mod 3 0 == 0
  | .spawn f | .spawng f => fld f.mod 1 0 == 0
  | .fnew f | .touchany f | .resolve f | .poison f | .cancel f | .keep f | .fdrop f | .fstat f | .retire f
  | .yield f => f.mod == 0
  | .touch f | .touchs f => decide (f.mod.toNat ≤ 1)
  | .needle f => decide (f.mod.toNat ≤ 3)
  | .send f | .sendv f => decide (f.mod.toNat ≤ 7)
  | .clr f => f.mod == 0
  | .msg f => decide (f.mod.toNat ≤ 3)
  | .mbind f | .binit f => decide (f.mod.toNat ≤ 1)
  | .mpost f | .barr f | .bwait f | .barw f | .blink f => f.mod == 0
  | .mtake f => decide (f.mod.toNat ≤ 2)
  | .getsr f | .setsr f | .trap f | .eret f | .brk f | .trace f | .tstamp f | .lpatch f | .larm f | .patset f
  | .patget f | .baste f => f.mod == 0
  | _ => true

/-- The guard field is zero when the guard is not enabled (R41). -/
def guardOk (g : Guard) : Bool := g.en || (!g.neg && g.q == 0)

/-- The lowest-numbered field that offends (R268): 1 DST, 2 SA, 3 SB, 4 SC, 5 IMM, 6 GN or GQ. -/
def fieldError (i : Instr) : Option Nat :=
  match partsOf i with
  | none => none
  | some (_, _, .l f) =>
      if !Kind.s.accepts f.dst then some 1 else if !guardOk f.guard then some 6 else none
  | some (_, _, .x f) =>
      let sh := shapeOf i f
      if !sh.dst.accepts f.dst then some 1
      else if !sh.a.acceptsSrc f.a then some 2
      else if !sh.b.acceptsSrc f.b then some 3
      else if !sh.c.acceptsSrc f.c then some 4
      else if (f.imm &&& ~~~ sh.imm) != 0 || !sh.immOk then some 5
      else if !guardOk f.guard then some 6
      else none

end Sys2Proof.Machine
end

