-- ==== Sys2Proof/WellFormed.lean ====
section
/-! DEFINITION. Well-formed instructions: those whose fields and modifier the opcode map admits (R41, R47, R52). -/
namespace Sys2Proof

/-- Every field holds what the instruction's entry accepts (R41) and MOD is defined for it (R52). An event of the
device has no encoding and is well formed. -/
def Instr.wf (i : Instr) : Bool :=
  (Machine.fieldError i).isNone && Machine.modOk i

/-- The instruction has a 96-bit encoding: it is no event of the device. -/
def Instr.coded (i : Instr) : Bool := (Machine.partsOf i).isSome

end Sys2Proof
end

