-- ==== Sys2Proof/Decode.lean ====
section
/-! DEFINITION. Decoding a 96-bit word in the order of R51, refusing by name (R52), and the encoder written from the
same tables. -/
namespace Sys2Proof

open Sys2Proof.Machine (fld partsOf ofParts fieldError modOk Body)

/-- Why a word does not decode (R51, R52, R268). -/
inductive DecodeError where
  | void
  | opcode (cls op : Nat)
  | field (n : Nat)
  | modifier (m : Nat)
  deriving DecidableEq, Repr

/-- A source field from its trap bit and specifier (R40). -/
def srcOfBits (b : BitVec 8) : Src := ⟨Reg.ofSpec (b.setWidth 7), b.getLsbD 7⟩

/-- The trap bit and specifier of a source field (R40). -/
def srcBits (x : Src) : BitVec 8 := (BitVec.ofBool x.trap) ++ Reg.spec x.reg

/-- The guard from GE, GN and GQ (R40). -/
def guardOfBits (b : BitVec 5) : Guard := ⟨b.getLsbD 4, b.getLsbD 3, Fin.ofNat 8 (b.toNat % 8)⟩

/-- GE, GN and GQ of a guard (R40). -/
def guardBits (g : Guard) : BitVec 5 := BitVec.ofBool g.en ++ (BitVec.ofBool g.neg ++ BitVec.ofNat 3 g.q.val)

/-- The fields of a word in formats X, M, B and E (R40). -/
def fieldsOfWord (w : IWord) : Fields where
  guard := guardOfBits (w.extractLsb' 79 5)
  dst := Reg.ofSpec (w.extractLsb' 72 7)
  mod := w.extractLsb' 64 8
  a := srcOfBits (w.extractLsb' 56 8)
  b := srcOfBits (w.extractLsb' 48 8)
  c := srcOfBits (w.extractLsb' 40 8)
  imm := w.extractLsb' 0 40

/-- The fields of a word in format L (R42, R43). -/
def lfieldsOfWord (w : IWord) : LFields where
  guard := guardOfBits (w.extractLsb' 79 5)
  dst := Reg.ofSpec (w.extractLsb' 72 7)
  mod := w.extractLsb' 64 8
  imm := w.extractLsb' 0 64

/-- Decodes one word. `lineBad` says that the line word has a reserved bit set, which offends as field 7 when no
field of the instruction does (R37, R51). -/
def decodeIn (lineBad : Bool) (w : IWord) : Except DecodeError Instr :=
  if w = BitVec.allOnes 96 then .error .void
  else
    let cls := fld w 95 92
    let op := fld w 91 84
    match ofParts cls op (fieldsOfWord w) (lfieldsOfWord w) with
    | none => .error (.opcode cls op)
    | some i =>
      match fieldError i with
      | some n => .error (.field n)
      | none =>
        if lineBad then .error (.field 7)
        else if modOk i then .ok i
        else .error (.modifier (fld w 71 64))

/-- Decodes one word of a line whose reserved bits are zero. -/
def decode (w : IWord) : Except DecodeError Instr := decodeIn false w

/-- The header bits [95:64] (R40). -/
def headerBits (cls op : Nat) (g : Guard) (dst : Reg) (mod : BitVec 8) : BitVec 32 :=
  BitVec.ofNat 4 cls ++ (BitVec.ofNat 8 op ++ (guardBits g ++ (Reg.spec dst ++ mod)))

/-- The word of an instruction (R40, R42, R54); an event of the device has none and gives VOID. -/
def encode (i : Instr) : IWord :=
  match partsOf i with
  | none => BitVec.allOnes 96
  | some (cls, op, .x f) =>
      headerBits cls op f.guard f.dst f.mod ++ (srcBits f.a ++ (srcBits f.b ++ (srcBits f.c ++ f.imm)))
  | some (cls, op, .l f) => headerBits cls op f.guard f.dst f.mod ++ f.imm

/-- The instruction the decoder reads from a word given as a number, bit 0 the least significant bit of the
first byte (R34); none where it refuses. -/
def decodeTableWord (_nbits w : Nat) : Option Instr := (decode (BitVec.ofNat 96 w)).toOption

end Sys2Proof
end

