-- ==== Sys2Proof/Config.lean ====
section
/-! DEFINITION. What the spec leaves open: the free values. None has a body, so no proof can tell what it is. -/
namespace Sys2Proof.Config

/-- The word at row and column `k` of an accumulator whose contents R19 and R176 leave undefined; `e` is the epoch in
which the gang formed. Assumption log 3. -/
opaque undefinedAcc : Nat → Nat → BitVec 32

/-- The bytes of a tile buffer after a copy that did not end OK (R193): epoch and byte. Assumption log 3. -/
opaque undefinedTile : Nat → Nat → BitVec 8

/-- Where the Loom's search for a free task index starts (R11 says only that it is unique among the live tasks).
Assumption log 7. -/
opaque taskIndexHint : Nat → BitVec 16

/-- Which of the lease's clusters `.any` placement takes (R190 leaves the choice to the Loom and the Gleaner).
Assumption log 7. -/
opaque anyPlacement : Nat → BitVec 2

/-- The ML-DSA-65 signature of an attestation report (R412), from the report's number. Assumption log 8. -/
opaque attestationSignature : Nat → BitVec 26472

/-- The public identity key of the device and its ML-KEM-768 encapsulation key (R410, R412), which come from its SRAM.
Assumption log 8. -/
opaque identityKey : BitVec 15616
opaque encapsulationKey : BitVec 9472

/-- The bytes of the boot ROM, of Polroth's image at a boot, and of the configuration blob and the lease table as what they say
(R412): the spec gives none of these a form. Assumption log 8. -/
opaque bootRom : List (BitVec 8)
opaque polrothImage : Nat → List (BitVec 8)
opaque blobBytes : List Nat → List (BitVec 8)
opaque leaseTableBytes : List Nat → List (BitVec 8)

/-- The stack that holds a 64 KiB page of a device's memory, from the job-virtual device and the page number (R429: the
physical address fixes it, and the spec gives no map): stack `n` mod 3 of die `n` / 3. Assumption log 11. -/
opaque homeStack : Nat → Nat → Fin 24

/-- Where the search for a free block of the frame area starts, for child lists and waiter lists (R232, R242: the spec does
not place them). Assumption log 24. -/
opaque frameBlockHint : Nat → BitVec 16

/-- A latency in cycles that a monitor samples (R424): the model keeps no cycle counts. Assumption log 9. -/
opaque latencyCycles : Nat → BitVec 64

/-- Which of the 16 lines of a full L1 set leaves it (R289, R291 give no replacement rule). Assumption log 19. -/
opaque l1Victim : Nat → Fin 16

/-- The bytes of a part of a context image whose contents the spec lists without a map (R335 to R337): the part's number and
its contents. Assumption log 29. -/
opaque imageField : Nat → List Nat → List (BitVec 8)

/-- The length in words of a capability entry after its header, and its version (R413 gives neither), by id. Assumption log 54. -/
opaque capabilityLength : Nat → BitVec 5
opaque capabilityVersion : Nat → BitVec 8

/-- A word of a capability entry whose map R413 does not give: id, number and what the entry is about. Assumption log 54. -/
opaque capabilityWord : Nat → Nat → List Nat → BitVec 64

/-- The kind among 0x20 to 0x2F of a memory access or its answer, its flits less one, and its payload: R369 names them and gives
none of these. By `accessClass`. Assumption log 58. -/
opaque accessKind : Nat → Fin 16
opaque accessFlits : Nat → Fin 5
opaque accessPayload : Nat → List (BitVec 8)

/-- The number of a Spool operation or a control message in a payload (R369 gives none), by kind and operation. Assumption log 58. -/
opaque flitCode : Nat → Nat → BitVec 64

end Sys2Proof.Config
end

