-- ==== Sys2Proof/Machine/State.lean ====
section
/-! DEFINITION. The state of the machine as plain data, and the state after device reset. Positions are the 16-bit
numbers of R11[31:16]; a core is 8 times its position plus its number; a die is its position without the cluster. -/
namespace Sys2Proof.Machine

open Sys2Proof

/-- Data by a natural key, listed with rising keys. -/
abbrev Store (α : Type) := List (Nat × α)

/-- Bytes by address, in one canonical form: addresses strictly rising and no byte equal to what an unlisted
address reads as (assumption log 5). -/
abbrev Memory := List Host.Cell

/-- The register files of a slot with their presence bits (R12, R23). -/
structure Regs where
  s : Vector Word 64
  v : Vector VWord 16
  p : Vector Word 8
  q : BitVec 8
  sf : BitVec 64
  vf : BitVec 16
  pf : BitVec 8
  qf : BitVec 8
  deriving DecidableEq, Repr

/-- The Loom's state of a task (R241). -/
inductive Loom where
  | queued | prefetching | ready | running | waiting | parked | faulted | retiring
  deriving DecidableEq, Repr

/-- What a task in a slot waits for before it issues again (R16, R135, R198, R279, R359, R174). -/
inductive Wait where
  /-- nothing -/
  | no
  /-- a producer, a queue place, an access or a version: examined again at the next issue -/
  | place
  /-- an empty register or guard: examined again at the next issue -/
  | reg (r : Reg)
  /-- the answer to the flight with this number; no later instruction issues until it arrives -/
  | answer (id : Nat)
  /-- a table walk of this page (R278) -/
  | walk (page : Nat)
  /-- firmware's work on a fault, in place (R280) -/
  | fault
  /-- an entry of the arm table (R359) -/
  | arm
  /-- a deferred trap is to be taken at the next issue (R283, R280): cause, address and information -/
  | trap (cause : BitVec 8) (addr info : Word)
  deriving DecidableEq, Repr

/-- A memory space an address resolves to (R275, R276): a scratchpad word of the job, device memory under an
attribute, or host memory. -/
inductive Space where
  | spad
  | mem (attr : BitVec 3)
  | host (attr : BitVec 3)
  deriving DecidableEq, Repr

/-- Which memory a space is, whatever the attribute of the page that names it. -/
def Space.kind : Space → Nat
  | .spad => 0
  | .mem _ => 1
  | .host _ => 2

/-- The row table through which an access was resolved (R389): the window's number, the table's address and version. -/
structure RowVia where
  win : Nat
  table : Word
  ver : BitVec 16
  deriving DecidableEq, Repr

/-- A resolved location: where its first byte lies, the job-virtual address that named it, and the row table that led there. -/
structure Place where
  space : Space
  addr : Nat
  va : Word
  via : Option RowVia
  deriving DecidableEq, Repr

/-- One single-copy-atomic part of an access (R122): place, size in bytes, and offset of its bytes in the value. -/
structure Part where
  loc : Place
  size : Nat
  off : Nat
  deriving DecidableEq, Repr

/-- The atomics of R137. -/
inductive AtomicOp where
  | add | and | or | xor | min | max | swp | cas | incw | faddb | fadd
  deriving DecidableEq, Repr

/-- What an access does at its location. -/
inductive AccessKind where
  | load
  | store
  | atomic (op : AtomicOp)
  /-- lines of the L1 cleaned, and removed where it is so asked (R131) -/
  | clean (drop : Bool)
  deriving DecidableEq, Repr

/-- An access on its way from the issuing core (R127, R138): the parts still to perform, the value assembled so
far, the operands, the destination and how its reply is extended. -/
structure Access where
  kind : AccessKind
  parts : List Part
  value : VWord
  data : VWord
  operand : Word
  dst : Option Reg
  bytes : Nat
  signed : Bool
  lanes : Nat
  ord : BitVec 2
  deriving DecidableEq, Repr

/-- The tagged operations of R133 that wait at a bank. -/
inductive TaggedOp where
  | ldf | ldff | ste
  deriving DecidableEq, Repr

/-- The requests to a Spool (R200, R236): the last three are the waiting instructions. -/
inductive SpoolOp where
  | resolve (x : Word)
  | poison (cause : BitVec 8) (record : Word)
  | cancel
  | keep
  | fdrop
  | fstat
  | touch (nc : Bool)
  | touchs (nc : Bool) (q : Fin 8)
  | touchany (n : Nat) (handles : VWord)
  /-- the settlement a retiring task makes of its own entry (R204, R249, R267) -/
  | retire (x : Word)
  | retireCancelled
  | retirePoisoned (cause : BitVec 8) (record : Word)
  deriving DecidableEq, Repr

/-- A message (R212, R360): handler id, sender, version, send time, data address and payload; acceptance time is
set when the inbox takes it, and `bound` is the handler entry bound at acceptance (R213). -/
structure Msg where
  id : Fin 64
  sender : BitVec 32
  ver : BitVec 16
  sent : Word
  addr : Word
  payload : BitVec 320
  accepted : Word
  bound : Word
  deriving DecidableEq, Repr

/-- A mailbox entry (R214, R215). -/
structure Post where
  value : Word
  prio : BitVec 16
  tag : BitVec 16
  deriving DecidableEq, Repr

/-- Who waits for a barrier status or token: a task's register, or a child node (R218, R366). -/
inductive NodeClient where
  | task (id : Nat) (dst : Reg) (wait : Option Nat)
  | child (node : Nat)
  deriving DecidableEq, Repr

/-- An arrival held at a complete node for the next phase (R218, R366). -/
inductive HeldArrival where
  | barr (c : NodeClient)
  | barw (c : NodeClient)
  | blink (c : NodeClient) (delta : BitVec 16)
  | child (node : Nat)
  deriving DecidableEq, Repr

/-- What barrier request arrives at a node (R218, R219). -/
inductive ArriveOp where
  | barr | barw
  | blink (delta : BitVec 16)
  | child (node : Nat)
  deriving DecidableEq, Repr

/-- A permit entry (R363): grantee's task identity, granting core, region within that core's scratchpad, count. -/
structure Permit where
  idx : Nat
  granter : Nat
  first : Nat
  last : Nat
  count : Nat
  deriving DecidableEq, Repr

/-- The control messages of R323. -/
inductive Ctrl where
  | prepare (ver round : Nat) (die : Nat)
  | prepared (ver round : Nat) (die sent accepted : Nat)
  | retract (ver : Nat) (die : Nat)
  | commit (ver : Nat) (die : Nat)
  | abort (ver : Nat) (die : Nat) (cause : BitVec 8)
  | abortq (ver : Nat) (die : Nat) (cause : BitVec 8)
  | done (ver : Nat) (die : Nat)
  deriving DecidableEq, Repr

/-- What travels (R367, R369), or is on its way inside a die. A value says whether an uncorrectable error spoiled it, whether it
counts as an operation, and the address of its data. -/
inductive Body' where
  | access (a : Access)
  | value (dst : Reg) (x : VWord) (bad : Bool) (counted : Bool) (va : Word)
  | ack
  | release
  | tagged (op : TaggedOp) (loc : Place) (dst : Reg) (x : Word) (acquire : Bool)
  | resend (op : TaggedOp) (loc : Place) (dst : Reg) (x : Word)
  | withdraw (task : Nat) (request : Nat)
  | send (needle : Word) (x : VWord) (vec fp rel : Bool) (dst : Reg) (trap : Bool)
  | sendStatus (status : BitVec 8) (needle : Word) (dst : Reg) (trap : Bool)
  | message (core : Nat) (m : Msg) (pos : Word) (dst : Reg) (trap : Bool)
  | messageStatus (status : BitVec 8) (pos : Word) (dst : Reg) (trap : Bool)
  | post (core : Nat) (box : Fin 4) (p : Post) (dst : Reg)
  | postStatus (status : BitVec 8) (dst : Reg)
  | grant (cmd : Nat) (p : Permit)
  | grantStatus (cmd : Nat) (word : Word)
  | permitReturn (core : Nat) (count : Nat)
  | spool (op : SpoolOp) (handle : Word) (dst : Reg)
  | answer (op : SpoolOp) (handle : Word) (dst : Reg) (word : Word) (trap : Option (BitVec 8 × Word × Word)) (settled park : Bool)
  | wake (pos : Nat) (tasks : List Nat) (handle : Word)
  | cancel (task : Nat)
  | arrive (node : Nat) (op : ArriveOp) (c : NodeClient)
  | flip (child : Nat) (phase : BitVec 32)
  | nodeWait (node : Nat) (token : BitVec 32) (c : NodeClient)
  | nodeAnswer (c : NodeClient) (word : Word)
  | ctrl (m : Ctrl)
  deriving DecidableEq, Repr

/-- Something on its way: its number, the task that caused it, its end points and channel, and its contents. -/
structure Flight where
  id : Nat
  task : Nat
  src : Nat
  dst : Nat
  vc : BitVec 2
  body : Body'
  deriving DecidableEq, Repr

/-- A clipped tile of a pattern (R87): its pattern entry copy (R89) and its origin. -/
structure TileRef where
  pat : PatWord
  i0 : Nat
  i1 : Nat
  i2 : Nat
  i3 : Nat
  deriving DecidableEq, Repr

/-- A tile argument of a task (R193, R243): what to copy, where its buffer lies, and its token word when full. -/
structure TileArg where
  tile : TileRef
  buffer : Option Nat
  blocks : Nat
  /-- its copy has entered the job queue (R384) -/
  entered : Bool
  token : Option Word
  deriving DecidableEq, Repr

/-- What a handler activation carries besides its registers (R212, R417). -/
structure Activation where
  core : Nat
  msg : Msg
  start : Word
  deriving DecidableEq, Repr

/-- A task: the registers and control state of its slot or frame (R12, R22 to R25), and the Loom's state of it. -/
structure Task where
  live : Bool
  regs : Regs
  pc : Word
  loom : Loom
  wait : Wait
  inh : Bool
  spec : Bool
  stay : Bool
  canp : Bool
  poisoned : Bool
  prio : BitVec 2
  ver : BitVec 16
  subv : BitVec 12
  recIx : BitVec 12
  trapCause : Word
  trapPc : Word
  trapAddr : Word
  trapInfo : Word
  self : Word
  arg : Word
  parent : Word
  children : List Word
  /-- the addresses of its child-list blocks (R242) -/
  childBlocks : List Nat
  org : Vector Word 4
  ext : Vector Word 4
  fpMode : BitVec 3
  fpSeed : Word
  waitObj : Word
  /-- the handles on which the task is registered while it waits for a future (R198, R199) -/
  waitOn : List Word
  /-- the full register that the waiting request emptied (R198 to R200), and whether the request reads it -/
  emptied : Option (Reg × Bool)
  /-- KEEP has marked the task's sub-version (R202) -/
  kept : Bool
  wpx : Bool
  /-- the PC of the WATCHPOINT trap whose handler runs (R273) -/
  wpPc : Option Word
  wdr : Bool
  /-- the numbers of its acquire points, newest first, as far back as accesses on their way are older: later accesses follow
  the earlier ones (R300, R304) -/
  acquired : List Nat
  gen : BitVec 7
  lease : Nat
  pos : Nat
  core : Nat
  slot : Option Nat
  entry : Word
  act : Option Activation
  tiles : List TileArg
  record : Nat
  /-- the frame record holds the task's registers: it is in no slot (R242, R244) -/
  inRecord : Bool
  stamp : Nat
  /-- when its slot issued last (R32, R247), and the issues of its core since it could issue (R32) -/
  issued : Nat
  passed : Nat
  agedAt : Word
  fixed : List (Reg × VWord)
  /-- the transfer's index while a target check is still to be made at the next fetch (R39, R280) -/
  tgt : Option Word
  /-- registers whose contents an uncorrectable error has spoiled, until they are written (R283) -/
  spoiled : List Reg
  /-- registers that a soft error leaves empty, each a trap to take at the next boundary (R283) -/
  deferred : List (Reg × Word)
  held : List Flight
  touched : List Reg
  chunk : Nat
  /-- why the recorded chunk is about to end (R345, R346), and the register a GETSR that ends it has written -/
  due : Option (BitVec 4)
  lastSr : Option Reg
  /-- engine commands issued so far, and the numbers of those whose tokens are written but not yet logged (R345) -/
  enqueued : Nat
  ended : List Nat
  member : Option Nat
  deriving DecidableEq, Repr

/-- The kind of an accumulator (R180). -/
inductive AccKind where
  | either | fp32 | int32
  deriving DecidableEq, Repr

/-- An accumulator (R19, R176, R179): the words written since its contents were last undefined (`epoch`) or
zeroed, its kind and its exact scale product, a number times a power of two. -/
structure Acc where
  epoch : Option Nat
  cells : Store (BitVec 32)
  kind : AccKind
  productMant : Nat
  productExp : Int
  deriving DecidableEq, Repr

/-- A B buffer (R178): the block's codes by k*96+n, the scales and zero points by segment and column, the columns
present, k0, the end of K, and the format. -/
structure BBuf where
  fmt : BitVec 8
  grp : BitVec 2
  bsc : Bool
  k0 : Nat
  kend : Nat
  codes : List (Nat × Nat)
  scales : List (Nat × Nat)
  zeros : List (Nat × Nat)
  columns : Nat
  deriving DecidableEq, Repr

/-- The operations that engines queue. -/
inductive EngineOp where
  | get | put | push | layout | cfill | cquery | permit | tileCopy (j : Nat)
  | mgang | mldb | mma | mzero | mrdz | mwrz | mscale | mrel
  /-- MREL issued while its task's MGANG is pending (R177) -/
  | mrelPending
  | tmv
  deriving DecidableEq, Repr

/-- A queued engine command (R49, R89, R145, R174, R184): its task, operation, modifier and fields, the operands read at
issue, the pattern copies, its guard while held, the seed and mode read when it was enqueued, and its progress. -/
structure Command where
  id : Nat
  task : Nat
  op : EngineOp
  mod : BitVec 8
  dst : Reg
  ex : Nat
  acc : Fin 2
  a : Word
  b : Word
  c : Word
  px : PatWord
  py : PatWord
  pz : PatWord
  seed : Word
  mode : BitVec 3
  held : Option (Bool × Fin 8)
  heldValue : Option Bool
  started : Bool
  progress : Nat
  /-- the elements of its present granule, last first, with the places that they go to (R150, R183) -/
  gathered : List (Place × Nat)
  status : Option (BitVec 8 × Nat)
  granules : Nat
  permit : Option Permit
  /-- rows computed and their values (R381) -/
  rows : List (Nat × BitVec 32)
  /-- rows whose results have reached Y (R381) -/
  written : List Nat
  /-- granule reads of rows that have completed, one entry a read (R379) -/
  reads : List Nat
  /-- X and the initial values as the port read them (R381) -/
  xcodes : List Nat
  inits : List (Nat × Nat)
  /-- the number PX of the pattern entry (R181) -/
  pxn : Nat
  /-- the command's number among those of its task (R346) -/
  ordinal : Nat
  member : Nat
  deriving DecidableEq, Repr

/-- A line of an L1 data cache (R289, R291): the physical line, its bytes, which are valid and which are dirty, the
version tag of the dirty bytes and the page's attribute. The directory entry of a COHERENT line is what the lines say
(`State.holders`). -/
structure L1Line where
  host : Bool
  line : Nat
  data : BitVec 512
  valid : BitVec 64
  dirty : BitVec 64
  ver : BitVec 16
  subv : BitVec 12
  attr : BitVec 3
  pinned : Bool
  /-- a COHERENT line held exclusive (R296) -/
  excl : Bool
  /-- its data holds an uncorrectable error (R282) -/
  bad : Bool
  deriving DecidableEq, Repr

/-- A translation held in a translation cache (R278): lease, first address, size and leaf entry (R276). -/
structure Tlb where
  lease : Nat
  base : Nat
  size : Nat
  entry : Word
  deriving DecidableEq, Repr

/-- A table entry of level 0, 1 or 2 held by a die's walk cache (R278): lease, level, the part of the address that the
entry covers, and the entry. -/
structure WalkEntry where
  lease : Nat
  lvl : Nat
  index : Nat
  entry : Word
  deriving DecidableEq, Repr

/-- A remap row held by a core (R281): lease, window, row and entry, and whether it was read from the new table. -/
structure RowEntry where
  lease : Nat
  win : Nat
  row : Nat
  entry : Word
  table : Word
  ver : BitVec 16
  /-- where the entry lies -/
  src : Nat
  deriving DecidableEq, Repr

/-- A delay account (R422), in ns. -/
structure Account where
  sender : BitVec 32
  /-- the activation that updated it last (R416): identity, routing tag, `task.launch` and entry -/
  last : Nat
  route : Nat
  launch : Word
  entry : Word
  count : Nat
  transit : Nat
  queue : Nat
  run : Nat
  stamp : Nat
  deriving DecidableEq, Repr

/-- A core (R8, R337). -/
structure Core where
  holder : Option Nat
  acc : Vector Acc 2
  buf : Vector (Option BBuf) 2
  gang : BitVec 8
  gangStep : Nat
  broken : Bool
  pending : Option (Nat × BitVec 8 × Reg)
  /-- the pending MGANG's number among its task's commands (R346) -/
  pendingOrdinal : Nat
  release : Bool
  queue : List Command
  handlers : Vector Word 64
  inbox : List Msg
  activation : Option Nat
  boxes : Vector (List Post) 4
  depths : Vector Nat 4
  retp : Nat
  l1 : List L1Line
  tlb : List Tlb
  rows : List RowEntry
  accounts : List Account
  /-- the task whose next instruction may issue in the same cycle as the one just issued (R32, R56) -/
  pair : Option Nat
  stopped : Bool
  deriving DecidableEq, Repr

/-- A cluster: its Loom, copy unit and Thresher port (R336). -/
structure Cluster where
  lease : Nat
  gens : Store (BitVec 7)
  forward : Store Nat
  arms : List (Nat × Reg)
  armWaiters : List Nat
  permits : List Permit
  jobs : List Command
  channels : Vector (Option Nat) 4
  served : Store Nat
  thresher : List Command
  tiles : List (Nat × Nat × Nat × Nat)
  tlb : List Tlb
  deriving DecidableEq, Repr

/-- The state of a Spool entry (R203, R235). -/
inductive FutureState where
  | free | pending | waited | resolved | poisoned | cancelled
  deriving DecidableEq, Repr

/-- A Spool entry (R232), with the orders of R231 and R238. -/
structure Entry where
  state : FutureState
  gen : BitVec 8
  value : Word
  record : Word
  bound : Nat
  live : Bool
  notask : Bool
  grid : Bool
  fos : Bool
  members : Nat
  total : Nat
  left : BitVec 12
  cnt : BitVec 12
  cause : BitVec 8
  settler : BitVec 12
  settlerTask : Option Nat
  leftAtSettle : BitVec 12
  ver : BitVec 16
  /-- the bound task's sub-version until it is folded or discarded (R202) -/
  bsub : BitVec 12
  folded : Bool
  dropped : Bool
  waiters : List Nat
  /-- the addresses of its waiter-list blocks (R232) -/
  waitBlocks : List Nat
  observers : List Nat
  spilled : Bool
  memberIndex : Bool
  freed : Nat
  made : Nat
  settled : Nat
  deriving DecidableEq, Repr

/-- One way of a set of an SRAM slice (R292 to R295). -/
structure SliceWay where
  die : Nat
  slice : Nat
  set : Nat
  way : Nat
  /-- `sliceKey` of the granule held -/
  granule : Nat
  /-- the version tag of a shadow granule (R289), by `tagNum`; 0 for committed memory -/
  tag : Nat
  present : BitVec 32
  dirty : BitVec 32
  lease : Nat
  used : Nat
  deriving DecidableEq, Repr

/-- A remap window (R281). -/
structure RemapWindow where
  valid : Bool
  base : Word
  rows : Nat
  k : Nat
  table : Word
  version : BitVec 16
  deriving DecidableEq, Repr

/-- A pinned window (R295). -/
structure PinnedWindow where
  win : Nat
  vdev : Nat
  die : Nat
  pa : Nat
  size : Nat
  slices : List Nat
  ways : BitVec 16
  deriving DecidableEq, Repr

/-- A monitor (R423). -/
structure Monitor where
  cfg : Word
  min : Word
  max : Word
  cnt : Word
  hist : Vector Word 4
  deriving DecidableEq, Repr

/-- The registers of a host queue (R396, R398). -/
structure HostQueue where
  ring : Word
  qctl : Word
  cidxa : Word
  wakea : Word
  compl : Word
  pidx : BitVec 32
  cidx : BitVec 32
  done : Word
  err : Bool
  busy : List Nat
  deriving DecidableEq, Repr

/-- The trace ring of a lease (R420, R421). -/
structure TraceRing where
  tring : Word
  tctl : Word
  twpa : Word
  trp : BitVec 32
  tdrop : Word
  windex : BitVec 32
  pending : Nat
  deriving DecidableEq, Repr

/-- The state of a launch record (R260). -/
inductive RecordState where
  | idle | armed | running
  deriving DecidableEq, Repr

/-- A launch record: its 256 bytes and the device-owned state and version. -/
structure LaunchRecord where
  bits : BitVec 2048
  state : RecordState
  ver : BitVec 16
  armer : Option Nat
  deriving DecidableEq, Repr

/-- A lease (R9, R407). -/
structure Lease where
  live : Bool
  phys : Nat
  group : Nat
  positions : List Nat
  trapVec : Word
  spoolFirst : Nat
  spoolCount : Nat
  quota : Nat
  borrowed : Nat
  spillArea : Nat
  frameArea : Nat
  /-- the places beyond the frame records that child-list and waiter-list blocks take (R232, R242) -/
  blocks : List Nat
  holdArea : Nat
  dumpArea : Nat
  dumpSlots : Nat
  dumpUsed : List Nat
  dumpMissed : Nat
  bastingArea : Nat
  chunkLog : Nat
  chunkLogSize : Nat
  chunkCount : Nat
  fillMask : BitVec 16
  pinned : List PinnedWindow
  remap : Vector RemapWindow 16
  routes : Vector (BitVec 256) 8
  drainMisses : Nat
  age : Nat
  glean : Nat
  inbox : Nat
  chunk : Nat
  rollback : Nat
  rollbacks : Nat
  recorded : Bool
  replay : Bool
  shadow : Nat
  retry : Nat
  directFlags : Word
  pats : Store PatWord
  records : Store LaunchRecord
  /-- the record queue (R261): the records armed, and started and not ended, in arming order -/
  armed : List Nat
  lastRecordPhase : BitVec 16
  lastPhase : Vector (BitVec 16) 16
  queues : Vector HostQueue 16
  trace : TraceRing
  monitors : Vector Monitor 8
  watch : Vector (BitVec 128) 16
  debugger : Bool
  rootVdev : Nat
  rootPa : Nat
  /-- where the lease's queue area begins in its device's memory (R395) -/
  queueArea : Nat
  /-- the MSI-X table of the lease's virtual function, 8 entries of two words (R393, R395) -/
  msixTable : Vector Word 16
  deriving DecidableEq, Repr

/-- What has become of a sub-version (R202, R322). -/
inductive SubvState where
  | live | kept | folded | discarded
  deriving DecidableEq, Repr

/-- A launch's REDUCE record for one location, width, kind and sign (R321). An exact sum of an AFADD record is
`mant` times two to the `exp`; the flags are +infinity, −infinity, NaN, and whether every update was −0. -/
structure ReduceRec where
  host : Bool
  addr : Nat
  bytes : Nat
  op : AtomicOp
  signed : Bool
  subv : BitVec 12
  mant : Int
  exp : Int
  posInf : Bool
  negInf : Bool
  nan : Bool
  negZero : Bool
  deriving DecidableEq, Repr

/-- A Granary directory entry (R313), with the bytes of its shadow slot that are written: DIRTY is theirs by pieces
(`Shadow.dirty`). -/
structure Shadow where
  host : Bool
  granule : Nat
  subv : BitVec 12
  rd : Bool
  wr : Bool
  be : Bool
  /-- it has REDUCE records (KIND = 01) -/
  reduce : Bool
  /-- SLOT: the shadow slot of its die, once one is taken -/
  slot : Option Nat
  bytes : Store Byte
  saved : Option (Store Byte)
  deriving DecidableEq, Repr

/-- How far a launch is (R311, R316 to R320). -/
inductive LaunchState where
  | starting | running | aborting | committed | ended
  deriving DecidableEq, Repr

/-- A launch (R311 to R325). -/
structure Launch where
  ver : Nat
  lease : Nat
  recIx : Option Nat
  queue : Option Nat
  slotIx : Nat
  root : Word
  rootTask : Nat
  entry : Word
  data : Word
  payload : BitVec 320
  quota : Nat
  charge : Nat
  retries : Nat
  flags : Word
  phase : BitVec 16
  completion : Word
  trapVec : Word
  state : LaunchState
  cause : Option (BitVec 8)
  killed : Bool
  subvs : Store SubvState
  base : Memory
  hostBase : Memory
  shadow : List Shadow
  reduce : List ReduceRec
  stale : List (Bool × Nat)
  laterCommits : List (Bool × Nat)
  /-- settling sub-versions and the tasks that observed a settlement whose entry they freed (R240) -/
  observed : List (BitVec 12 × Nat)
  /-- the present round of R323 and the dies that answered it, each with its counts; 0 before the first -/
  round : Nat
  answered : List (Nat × Nat × Nat)
  retracted : Bool
  /-- COMMIT has been sent, and the dies that have applied it or an ABORT -/
  decided : Bool
  applied : List Nat
  /-- dies whose DONE has arrived -/
  copied : List Nat
  /-- operations sent from a die to another, by `diePair` -/
  sent : Store Nat
  toCopy : List Shadow
  /-- the root's value and the time of the commit, for the completion record (R262), and whether DONE has been sent -/
  result : Word
  endedAt : Word
  doneSent : Bool
  /-- the start waits for its root's entry (R258) or a version (R311) -/
  waits : Bool
  /-- the start is a relaunch (R286, R320) -/
  again : Bool
  /-- a commit aborted it (R317) -/
  conflict : Bool
  deriving DecidableEq, Repr

/-- A wait at a node (R218): its token, who waits, and whether an arrival of the same instruction stands (R366). -/
structure NodeWaiter where
  token : BitVec 32
  client : NodeClient
  arrived : Bool
  deriving DecidableEq, Repr

/-- A node of a barrier tree beside its two words (R218): whether it is complete, who waits, what is held. -/
structure Node where
  complete : Bool
  waiters : List NodeWaiter
  children : List Nat
  held : List HeldArrival
  deriving DecidableEq, Repr

/-- A tagged request waiting at a bank, oldest first (R135). -/
structure BankWait where
  id : Nat
  task : Nat
  op : TaggedOp
  loc : Place
  dst : Reg
  x : Word
  deriving DecidableEq, Repr

/-- Who waits for a walk or for firmware: a task, or an engine command (R278, R280). -/
inductive Requester where
  | task (id : Nat) (addr info : Word)
  | fetch (id : Nat) (pc : Word) (tgt : Option Word)
  | command (u : EngineUnit) (id : Nat) (addr : Word)
  deriving DecidableEq, Repr

/-- A walk in progress, or a fault record in firmware's queue (R278, R280). -/
structure Walk where
  lease : Nat
  page : Nat
  access : BitVec 2
  level : Nat
  malformed : Bool
  who : List Requester
  deriving DecidableEq, Repr

/-- A dump waiting to be written (R284, R285). -/
structure Dump where
  task : Nat
  cause : BitVec 8
  secondary : List (Word × Word × Word × Word)
  overflow : Bool
  slot : Option Nat
  /-- `time.now` at Fatal -/
  time : Word
  deriving DecidableEq, Repr

/-- Fabric state of the device (R401 to R404). -/
structure Fabric where
  links : BitVec 24
  /-- links marked down (R404): 24 times the physical device plus the link's number -/
  dead : List Nat
  /-- the plane tables (R403): 24 entries a physical device -/
  plane : List Nat
  replays : Store Nat
  /-- flits not yet acknowledged end to end (R404), the oldest first -/
  kept : List WireFlit
  /-- flits that their sources send again after a change of their planes, before any new one (R404) -/
  resend : List WireFlit
  /-- the SEQ that a port expects next of a source, destination and channel -/
  expected : List (Nat × Nat × Nat × Nat)
  /-- the SEQ of a source's next flit to a destination on a channel -/
  nextSeq : List (Nat × Nat × Nat × Nat)
  delivered : List WireFlit
  discarded : Nat
  /-- the devices of the domain (R411) -/
  domain : List Nat
  /-- senders that a lease accepts (R403): lease, sending device, sending lease -/
  deviceMap : List (Nat × Nat × Nat)
  deriving DecidableEq, Repr

/-- Boot, power and clock state of the device (R410 to R415). -/
structure Device where
  booted : Bool
  bootFailed : Bool
  configured : Bool
  powerLimit : Nat
  clockMHz : Nat
  /-- lowerings of the clock requested while it is held (R414) -/
  pendingLower : Nat
  /-- the operator keys and the lease policies of the configuration blob (R411) -/
  operatorKeys : List (List Byte)
  policies : List Byte
  /-- which of Polroth's images runs: one at each boot (R410) -/
  image : Nat
  /-- the attestation reports that the PF has returned (R412) -/
  reports : List (List Byte)
  deriving DecidableEq, Repr

/-- Where the job stands with respect to a gang-stop (R326, R331, R341, R427). -/
inductive StopPhase where
  | no | stopping | draining | cut | quiescent | debug
  deriving DecidableEq, Repr

/-- One turn: who moves next. `tick` lets domain time pass; `evict` is an L1 replacement (R291); `dropTlb` a drop of
a cached translation (R278); `unlist` the eviction of a line's directory entry from its slice (R296). -/
inductive Turn where
  | event (i : Instr)
  /-- the host writes its own memory, which the device reads over the host port (R394) -/
  | hostFill (a : Nat) (bytes : List Byte)
  | issue (task : Nat)
  | tick (ns : Nat)
  | evict (core : Nat) (line : Nat)
  | dropTlb (core : Nat)
  | unlist (host : Bool) (line : Nat)
  | idle
  deriving DecidableEq, Repr

/-- A basting point (R348): the state of the job's tasks, cores, clusters and scratchpads kept in the basting area. -/
structure Basted where
  /-- the launch that asked for it (R349), and the leases whose images it holds (R348) -/
  ver : Nat
  covered : List Nat
  tasks : Store Task
  cores : Store Core
  clusters : Store Cluster
  spool : Store Entry
  spad : Memory
  tags : Store (BitVec 2)
  nodes : Store Node
  bank : List BankWait
  /-- the spans of device memory that are copied (frame areas, spill areas, pinned windows), and their bytes -/
  spans : List (Nat × Nat)
  saved : Memory
  flight : List Flight
  leases : Store Lease
  launches : Store Launch
  order : Word
  walks : List Walk
  faults : List Walk
  dumps : List Dump
  deriving DecidableEq, Repr

/-- What firmware is told (R330, R343, R347, R283, R285). -/
inductive Report where
  | watchdog (vdev : Nat)
  | restoreFailed
  | divergence (task : Nat)
  | uncorrectable (at' : SoftError)
  | dumpFailed (lease : Nat)
  | linkDown (link : Nat)
  deriving DecidableEq, Repr

/-- The whole machine. -/
structure State where
  agenda : List Turn
  eventsTurn : Bool
  cur : Nat
  fresh : Nat
  seq : Nat
  now : Word
  tasks : Store Task
  cores : Store Core
  clusters : Store Cluster
  spad : Memory
  tags : Store (BitVec 2)
  bank : List BankWait
  nodes : Store Node
  spool : Store Entry
  ways : List SliceWay
  leases : Store Lease
  launches : Store Launch
  /-- starts that wait for a version or an entry, by a number of their own (R258, R311) -/
  starts : Store Launch
  nextVer : BitVec 16
  /-- the job's identity (R407) -/
  job : Nat
  secret : List Byte
  leaseKey : List Byte
  order : Word
  replayLog : List (BitVec 128)
  /-- the node, the phase and the launch of a BASTE not yet met (R227) -/
  basteReq : Option (Nat × BitVec 32 × Nat)
  basted : Option Basted
  mem : Memory
  host : Memory
  msix : List (Nat × Nat)
  marked : List Nat
  /-- scratchpad words with an uncorrectable error in their bytes or tag bits (R282) -/
  spoilt : List Nat
  /-- the walk cache of each die, newest first (R278) -/
  walkCache : Store (List WalkEntry)
  walks : List Walk
  faults : List Walk
  dumps : List Dump
  flight : List Flight
  stop : StopPhase
  markers : List Channel
  chunkStop : Option Nat
  /-- the task of a debug stop and its cause (R427, R428) -/
  stoppedAt : Option (Nat × Nat)
  /-- domain time at the cut (R335) -/
  cutAt : Word
  /-- the number of the latest gang-stop, which its markers carry (R331, R369) -/
  cut : Nat
  /-- the context images that are written, by lease (R334) -/
  images : Store (List Byte)
  /-- the save areas that are written with them, by lease (R337, R339): the directory's, then one of each core's matrix slice -/
  saveAreas : Store (List (List Byte))
  /-- an uncorrectable error that waits for its rollback (R333, R350) -/
  pendingError : Option SoftError
  reports : List Report
  fabric : Fabric
  device : Device
  deriving DecidableEq, Repr

/-- Why the machine stops. Neither is a behaviour of the device. -/
inductive Fault where
  /-- Raised by the meaning of every instruction when no live task stands at the issue port (`State.cur`): no
  instruction issues without a task (R8, R32). Safe: the device never does this. -/
  | noTask
  deriving DecidableEq, Repr

/-- Why an instruction has no meaning. -/
inductive Refusal where
  /-- Raised by an arm of `exec` whose instruction has no meaning yet. Safe: nothing is claimed of it. -/
  | notModelled (mnemonic : String)
  deriving DecidableEq, Repr

/-- The registers of a slot that no task has used, and of a task at dispatch: full and zero (R15). -/
def Regs.zero : Regs where
  s := Vector.replicate 64 0
  v := Vector.replicate 16 0
  p := Vector.replicate 8 0
  q := 0
  sf := BitVec.allOnes 64
  vf := BitVec.allOnes 16
  pf := BitVec.allOnes 8
  qf := BitVec.allOnes 8

/-- No task: what an unlisted identity stands for. -/
def Task.none : Task where
  live := false
  regs := Regs.zero
  pc := 0
  loom := .queued
  wait := .no
  inh := false
  spec := false
  stay := false
  canp := false
  poisoned := false
  prio := 0
  ver := 0
  subv := 0
  recIx := 0xFFF
  trapCause := 0
  trapPc := 0
  trapAddr := 0
  trapInfo := 0
  self := 0
  arg := 0
  parent := 0
  children := []
  childBlocks := []
  org := Vector.replicate 4 0
  ext := Vector.replicate 4 0
  fpMode := 0
  fpSeed := 0
  waitObj := 0
  waitOn := []
  emptied := .none
  kept := false
  wpx := false
  wpPc := .none
  wdr := false
  acquired := []
  gen := 0
  lease := 0
  pos := 0
  core := 0
  slot := .none
  entry := 0
  act := .none
  tiles := []
  record := 0
  inRecord := false
  stamp := 0
  issued := 0
  passed := 0
  agedAt := 0
  fixed := []
  tgt := .none
  spoiled := []
  deferred := []
  held := []
  touched := []
  chunk := 0
  due := .none
  lastSr := .none
  enqueued := 0
  ended := []
  member := .none

/-- An accumulator that nothing has written (R19): contents undefined, kind either, product 1.0. -/
def Acc.fresh (epoch : Nat) : Acc := ⟨some epoch, [], .either, 1, 0⟩

/-- A core with nothing on it (R407, R215). -/
def Core.idle : Core where
  holder := .none
  acc := Vector.replicate 2 (Acc.fresh 0)
  buf := Vector.replicate 2 .none
  gang := 0
  gangStep := 0
  broken := false
  pending := .none
  pendingOrdinal := 0
  release := false
  queue := []
  handlers := Vector.replicate 64 0
  inbox := []
  activation := .none
  boxes := Vector.replicate 4 []
  depths := Vector.replicate 4 16
  retp := 0
  l1 := []
  tlb := []
  rows := []
  accounts := []
  pair := .none
  stopped := false

/-- A cluster that no lease holds yet. -/
def Cluster.idle : Cluster where
  lease := 0
  gens := []
  forward := []
  arms := []
  armWaiters := []
  permits := []
  jobs := []
  channels := Vector.replicate 4 .none
  served := []
  thresher := []
  tiles := []
  tlb := []

/-- A FREE Spool entry at generation 0 (R231). -/
def Entry.free : Entry where
  state := .free
  gen := 0
  value := 0
  record := 0
  bound := 0
  live := false
  notask := false
  grid := false
  fos := false
  members := 0
  total := 0
  left := 0
  cnt := 0
  cause := 0
  settler := 0
  settlerTask := .none
  leftAtSettle := 0
  ver := 0
  bsub := 0
  folded := false
  dropped := false
  waiters := []
  waitBlocks := []
  observers := []
  spilled := false
  memberIndex := false
  freed := 0
  made := 0
  settled := 0

/-- A monitor at reset (R423). -/
def Monitor.reset : Monitor := ⟨0, BitVec.allOnes 64, 0, 0, Vector.replicate 4 0⟩

/-- A host queue at reset (R396). -/
def HostQueue.reset : HostQueue := ⟨0, 0, 0, 0, 0, 0, 0, 0, false, []⟩

/-- No lease: what an unlisted lease index stands for; the values are the defaults of R407. -/
def Lease.none : Lease where
  live := false
  phys := 0
  group := 0
  positions := []
  trapVec := 0
  spoolFirst := 0
  spoolCount := 16384
  quota := 15000
  borrowed := 0
  spillArea := 0
  frameArea := 0
  blocks := []
  holdArea := 0
  dumpArea := 0
  dumpSlots := 0
  dumpUsed := []
  dumpMissed := 0
  bastingArea := 0
  chunkLog := 0
  chunkLogSize := 0
  chunkCount := 0
  fillMask := 0x000F
  pinned := []
  remap := Vector.replicate 16 ⟨false, 0, 0, 0, 0, 0⟩
  routes := Vector.replicate 8 0
  drainMisses := 0
  age := 16
  glean := 8192
  inbox := 256
  chunk := 4096
  rollback := 3
  rollbacks := 0
  recorded := false
  replay := false
  shadow := 65536
  retry := 0
  directFlags := 0
  pats := []
  records := []
  armed := []
  lastRecordPhase := 0
  lastPhase := Vector.replicate 16 0
  queues := Vector.replicate 16 HostQueue.reset
  trace := ⟨0, 0, 0, 0, 0, 0, 0⟩
  monitors := Vector.replicate 8 Monitor.reset
  watch := Vector.replicate 16 0
  debugger := false
  rootVdev := 0
  rootPa := 0
  queueArea := 0
  msixTable := Vector.replicate 16 0

/-- An idle launch record of zeros (R260). -/
def LaunchRecord.idle : LaunchRecord := ⟨0, .idle, 0, .none⟩

/-- No launch. -/
def Launch.none : Launch where
  ver := 0
  lease := 0
  recIx := .none
  queue := .none
  slotIx := 0
  root := 0
  rootTask := 0
  entry := 0
  data := 0
  payload := 0
  quota := 0
  charge := 0
  retries := 0
  flags := 0
  phase := 0
  completion := 0
  trapVec := 0
  state := .ended
  cause := .none
  killed := false
  subvs := []
  base := []
  hostBase := []
  shadow := []
  reduce := []
  stale := []
  laterCommits := []
  observed := []
  round := 0
  answered := []
  retracted := false
  decided := false
  applied := []
  copied := []
  sent := []
  toCopy := []
  result := 0
  endedAt := 0
  doneSent := false
  waits := false
  again := false
  conflict := false

/-- A node that no BINIT has set up. -/
def Node.idle : Node := ⟨false, [], [], []⟩

/-- The machine right after device reset: no lease, no task and no launch exists (R407, R410); every register of the
device holds its reset value. -/
def State.reset : State where
  agenda := []
  eventsTurn := true
  cur := 0
  fresh := 0
  seq := 0
  now := 0
  tasks := []
  cores := []
  clusters := []
  spad := []
  tags := []
  bank := []
  nodes := []
  spool := []
  ways := []
  leases := []
  launches := []
  starts := []
  nextVer := 0
  job := 0
  secret := []
  leaseKey := []
  order := 0
  replayLog := []
  basteReq := .none
  basted := .none
  mem := []
  host := []
  msix := []
  marked := []
  spoilt := []
  walkCache := []
  walks := []
  faults := []
  dumps := []
  flight := []
  stop := .no
  markers := []
  chunkStop := .none
  stoppedAt := .none
  cutAt := 0
  cut := 0
  images := []
  saveAreas := []
  pendingError := .none
  reports := []
  fabric := ⟨0, [], [], [], [], [], [], [], [], 0, [], []⟩
  device := ⟨false, false, false, 0, 1300, 0, [], [], 0, []⟩

end Sys2Proof.Machine
end

