-- ==== Sys2Proof/Machine/Bits.lean ====
section
/-! DEFINITION. Bit fields, sign extension, byte order and keyed data: the plain helpers of every other file. -/
namespace Sys2Proof.Machine

open Sys2Proof

/-- Bits [hi:lo] of a 64-bit word as a number. -/
def bits (x : Word) (hi lo : Nat) : Nat := (x.toNat >>> lo) % 2 ^ (hi + 1 - lo)

/-- A number as a 64-bit word. -/
def w64 (n : Nat) : Word := BitVec.ofNat 64 n

/-- 1 for true and 0 for false. -/
def bit (b : Bool) : Nat := if b then 1 else 0

/-- The 40-bit immediate sign-extended to 64 bits (R40). -/
def simm (i : BitVec 40) : Word := i.signExtend 64

/-- The low `w` bits of `n` read as a signed number. -/
def sgn (w n : Nat) : Int :=
  let m := n % 2 ^ w
  if 2 * m < 2 ^ w then (m : Int) else (m : Int) - (2 ^ w : Nat)

/-- An integer wrapped to `w` bits. -/
def wrap (w : Nat) (z : Int) : Nat := (z % (2 ^ w : Nat)).toNat

/-- The `w`-bit pattern `n` extended to 64 bits, with its sign when `s`. -/
def extend (s : Bool) (w n : Nat) : Word :=
  if s then BitVec.ofInt 64 (sgn w n) else w64 (n % 2 ^ w)

/-- Byte `i` of a bit vector, the least significant first (R4). -/
def byteAt {n : Nat} (x : BitVec n) (i : Nat) : Byte := x.extractLsb' (8 * i) 8

/-- Element `i` of `w` bits (R12). -/
def lane {n : Nat} (x : BitVec n) (w i : Nat) : Nat := (x.toNat >>> (w * i)) % 2 ^ w

/-- `x` with its element `i` of `w` bits replaced (R12). -/
def setLane {n : Nat} (x : BitVec n) (w i v : Nat) : BitVec n :=
  let old := lane x w i
  BitVec.ofNat n (x.toNat - (old <<< (w * i)) + ((v % 2 ^ w) <<< (w * i)))

/-- The number whose digits of `w` bits are given, the first lowest. -/
def packLanes (w : Nat) : List Nat → Nat
  | [] => 0
  | d :: ds => d % 2 ^ w + (packLanes w ds <<< w)

/-- A vector register from its elements of `w` bits (R12). -/
def vecOf (w : Nat) (ds : List Nat) : VWord := BitVec.ofNat 2048 (packLanes w ds)

/-- The number whose bytes are given, the lowest address first (R4). -/
def leNat (bs : List Byte) : Nat := packLanes 8 (bs.map BitVec.toNat)

/-- The `n` bytes of a number, the lowest address first (R4). -/
def leBytes : Nat → Nat → List Byte
  | 0, _ => []
  | n + 1, x => BitVec.ofNat 8 x :: leBytes n (x >>> 8)

/-- How many of the low `n` bits of `x` are one. -/
def popCount : Nat → Nat → Nat
  | 0, _ => 0
  | n + 1, x => x % 2 + popCount n (x / 2)

/-- The parity of the low `n` bits: 1 when an odd number of them are one (R38). -/
def parityOf (n x : Nat) : Nat := popCount n x % 2

/-- The numbers below `n` at which a mask has a one, rising. -/
def maskList (n m : Nat) : List Nat := (List.range n).filter fun i => m.testBit i

/-- The entry of a key, if listed. -/
def Store.find {α : Type} : Store α → Nat → Option α
  | [], _ => none
  | (k, v) :: m, a => if k = a then some v else Store.find m a

/-- The data with one key given a value; the keys stay in rising order. -/
def Store.put {α : Type} : Store α → Nat → α → Store α
  | [], a, v => [(a, v)]
  | (k, w) :: m, a, v =>
      if a < k then (a, v) :: (k, w) :: m else if a = k then (a, v) :: m else (k, w) :: Store.put m a v

/-- The data without a key. -/
def Store.drop {α : Type} (m : Store α) (a : Nat) : Store α := m.filter fun e => e.1 != a

/-- What an address that memory does not list reads as (assumption log 5). -/
def Memory.unlisted : Byte := 0

/-- The byte at an address. -/
def Memory.get : Memory → Nat → Byte
  | [], _ => Memory.unlisted
  | (k, b) :: m, a => if k = a then b else Memory.get m a

/-- The memory with one byte written; it keeps the canonical form. -/
def Memory.put : Memory → Nat → Byte → Memory
  | [], a, b => if b = Memory.unlisted then [] else [(a, b)]
  | (k, c) :: m, a, b =>
      if a < k then (if b = Memory.unlisted then (k, c) :: m else (a, b) :: (k, c) :: m)
      else if a = k then (if b = Memory.unlisted then m else (a, b) :: m)
      else (k, c) :: Memory.put m a b

/-- The canonical form: addresses strictly rising, and no byte equal to what an unlisted address reads as. -/
def Memory.wf : Memory → Bool
  | [] => true
  | [(_, b)] => b != Memory.unlisted
  | (k, b) :: (j, c) :: m => b != Memory.unlisted && decide (k < j) && Memory.wf ((j, c) :: m)

/-- `n` bytes from an address. -/
def Memory.bytes (m : Memory) (a n : Nat) : List Byte := (List.range n).map fun i => m.get (a + i)

/-- The little-endian number in `n` bytes at an address (R4). -/
def Memory.num (m : Memory) (a n : Nat) : Nat := leNat (m.bytes a n)

/-- Bytes written from an address up. -/
def Memory.write : Memory → Nat → List Byte → Memory
  | m, _, [] => m
  | m, a, b :: bs => Memory.write (m.put a b) (a + 1) bs

/-- The `n` low bytes of a number written little-endian (R4). -/
def Memory.putNum (m : Memory) (a n x : Nat) : Memory := m.write a (leBytes n x)

/-- A range of zeros: every listed byte of it removed. -/
def Memory.clear (m : Memory) (a n : Nat) : Memory := m.filter fun c => decide (c.1 < a) || decide (a + n ≤ c.1)

/-- The part of a memory from `a` for `n` bytes. -/
def Memory.slice (m : Memory) (a n : Nat) : Memory := m.filter fun c => decide (a ≤ c.1) && decide (c.1 < a + n)

/-- The list with its element `i` changed. -/
def listSet {α : Type} : List α → Nat → α → List α
  | [], _, _ => []
  | _ :: l, 0, b => b :: l
  | a :: l, i + 1, b => a :: listSet l i b

/-- The first element that a test accepts, changed by a function. -/
def listUpdate {α : Type} (p : α → Bool) (f : α → α) : List α → List α
  | [] => []
  | a :: l => if p a then f a :: l else a :: listUpdate p f l

end Sys2Proof.Machine
end

