-- ==== Sys2Proof/Machine/Flit.lean ====
section
/-! DEFINITION. How what travels is laid out in flits (R368, R369): kinds, payloads and headers. -/
namespace Sys2Proof.Machine

open Sys2Proof

/-- Fields of a flit's header (R368). -/
def flitKind (f : WireFlit) : Nat := fld f.header 107 100
def flitVc (f : WireFlit) : Nat := fld f.header 99 98
def flitLeft (f : WireFlit) : Nat := fld f.header 97 95
def flitSeq (f : WireFlit) : Nat := fld f.header 79 64
def flitSrc (f : WireFlit) : Nat := fld f.header 63 32
def flitVer (f : WireFlit) : Nat := fld f.header 31 16
def flitSubv (f : WireFlit) : Nat := fld f.header 15 4
/-- The destination unit as one number. -/
def flitDst (f : WireFlit) : Nat := fld f.header 127 108

/-- Which of the memory accesses and their answers a body is, for the kinds 0x20 to 0x2F, whose list R369 leaves out. -/
def accessClass : Body' → Nat
  | .access a => match a.kind with
    | .load => 0
    | .store => 1
    | .atomic _ => 2
    | .clean _ => 3
  | .value .. => 4
  | .ack => 5
  | .tagged .. => 6
  | .resend .. => 7
  | .withdraw .. => 8
  | _ => 9

/-- The kind of a flit of a body (R369). A cancel on its way has none in the table; it goes as a Spool request (assumption log 58). -/
def Body'.kind : Body' → Nat
  | .send _ _ vec .. => if vec then 0x02 else 0x01
  | .sendStatus .. => 0x03
  | .message .. => 0x04
  | .messageStatus .. => 0x05
  | .post .. => 0x06
  | .postStatus .. => 0x07
  | .grant .. => 0x08
  | .grantStatus .. => 0x09
  | .permitReturn .. => 0x0A
  | .spool .. => 0x10
  | .cancel _ => 0x10
  | .answer .. => 0x11
  | .wake .. => 0x12
  | .arrive .. => 0x18
  | .flip .. => 0x19
  | .nodeWait .. => 0x1A
  | .nodeAnswer .. => 0x1B
  | .ctrl _ => 0x30
  | b => 0x20 + (Config.accessKind (accessClass b)).val

/-- Words as bytes, one after the other. -/
def wordBytes (l : List Nat) : List Byte := l.flatMap (leBytes 8)

/-- The two words of a permit entry (R363), its IDX left out. -/
def Permit.words (p : Permit) : List Nat := [p.count <<< 16 + p.granter <<< 32, p.first + p.last <<< 20]

/-- The number of a Spool operation and what goes with it: value or cause, and record address (R369). -/
def SpoolOp.words : SpoolOp → Nat × Nat × Nat
  | .resolve x => (0, x.toNat, 0)
  | .poison c r => (1, c.toNat, r.toNat)
  | .cancel => (2, 0, 0)
  | .keep => (3, 0, 0)
  | .fdrop => (4, 0, 0)
  | .fstat => (5, 0, 0)
  | .touch _ => (6, 0, 0)
  | .touchs _ q => (7, q.val, 0)
  | .touchany n _ => (8, n, 0)
  | .retire x => (9, x.toNat, 0)
  | .retireCancelled => (10, 0, 0)
  | .retirePoisoned c r => (11, c.toNat, r.toNat)

/-- The number of a control message and what it holds (R323). -/
def Ctrl.words : Ctrl → Nat × List Nat
  | .prepare v n _ => (0, [v, n])
  | .prepared v n _ s a => (1, [v, n, s, a])
  | .retract v _ => (2, [v])
  | .commit v _ => (3, [v])
  | .abort v _ c => (4, [v, c.toNat])
  | .abortq v _ c => (5, [v, c.toNat])
  | .done v _ => (6, [v])

/-- A barrier's client as a number: a task's identity, or a child node. -/
def NodeClient.word : NodeClient → Nat
  | .task id _ _ => id % 2 ^ 32
  | .child n => n

/-- The payload of a transfer (R369): its items as 8-byte words in the order of the table, a status as one byte, identities of 4
bytes. The numbers of operations and messages are free, and so is what carries a memory access (assumption log 58). -/
def Body'.payload : Body' → List Byte
  | .send n x vec fp rel _ _ =>
    if vec then leBytes 8 n.toNat ++ leBytes 256 x.toNat else wordBytes [n.toNat, (x.setWidth 64).toNat, bit fp + 2 * bit rel]
  | .sendStatus st .. => [st]
  | .message _ m .. => wordBytes [m.id.val + m.sender.toNat <<< 32, m.sent.toNat, m.addr.toNat] ++ leBytes 40 m.payload.toNat
  | .messageStatus st .. => [st]
  | .post _ b p _ => wordBytes [p.value.toNat, p.prio.toNat + p.tag.toNat <<< 16 + b.val <<< 32]
  | .postStatus st _ => [st]
  | .grant _ p => wordBytes (p.words ++ [p.idx])
  | .grantStatus _ w => wordBytes [w.toNat]
  | .permitReturn core n => wordBytes [core, n]
  | .spool op h _ => wordBytes [(Config.flitCode 0x10 op.words.1).toNat, h.toNat, op.words.2.1, op.words.2.2]
  | .cancel id => wordBytes [(Config.flitCode 0x10 12).toNat, id]
  | .answer _ _ _ w trap _ _ => wordBytes [w.toNat, match trap with
    | some (_, _, i) => i.toNat
    | none => 0]
  | .wake _ ids _ => ids.flatMap fun i => leBytes 4 (i % 2 ^ 32)
  | .arrive n op c => wordBytes [n, match op with
    | .child m => m
    | _ => c.word]
  | .flip n ph => wordBytes [n, ph.toNat]
  | .nodeWait n t c => wordBytes [n, t.toNat, c.word]
  | .nodeAnswer _ w => wordBytes [w.toNat]
  | .ctrl m => wordBytes ((Config.flitCode 0x30 m.words.1).toNat :: m.words.2)
  | b => Config.accessPayload (accessClass b)

/-- The flits of a transfer (R369): 6 for SENDV, 2 for MESSAGE, 1 to 5 for a memory access, else 1. -/
def Body'.flits (b : Body') : Nat :=
  if b.kind = 0x02 then 6
  else if b.kind = 0x04 then 2
  else if 0x20 ≤ b.kind && b.kind < 0x30 then 1 + (Config.accessFlits (accessClass b)).val
  else 1

/-- The header of a flit (R368). -/
def flitHeader (dst kind vc left seq src ver subv : Nat) : BitVec 128 :=
  BitVec.ofNat 128 ((dst % 2 ^ 20) <<< 108 + (kind % 256) <<< 100 + (vc % 4) <<< 98 + (left % 8) <<< 95 + (seq % 65536) <<< 64 +
    (src % 2 ^ 32) <<< 32 + (ver % 65536) <<< 16 + (subv % 4096) <<< 4)

/-- 48 bytes of a payload, zeros after its end, from a flit's place in the transfer. -/
def flitPayload (p : List Byte) (i : Nat) : BitVec 384 := BitVec.ofNat 384 (leNat ((p.drop (48 * i)).take 48))

end Sys2Proof.Machine
end

