-- ==== Sys2Proof/Machine/Base.lean ====
section
/-! DEFINITION. Accessors: the parts of the state by key, registers with their presence bits, positions, and things
in flight. Every register read and write goes through `Task.value` and `Task.write`. -/
namespace Sys2Proof.Machine

open Sys2Proof

/-- The task with an identity; `Task.none` where there is none. -/
def State.task (s : State) (id : Nat) : Task := (s.tasks.find id).getD Task.none

/-- The state with a task replaced. -/
def State.setTask (s : State) (id : Nat) (t : Task) : State := { s with tasks := s.tasks.put id t }

/-- The state with a task changed by a function. -/
def State.onTask (s : State) (id : Nat) (f : Task → Task) : State := s.setTask id (f (s.task id))

/-- The task whose turn it is. -/
def State.me (s : State) : Task := s.task s.cur

/-- The state with the issuing task changed by a function. -/
def State.onMe (s : State) (f : Task → Task) : State := s.onTask s.cur f

/-- The core with a key. -/
def State.core (s : State) (k : Nat) : Core := (s.cores.find k).getD Core.idle

/-- The state with a core changed by a function. -/
def State.onCore (s : State) (k : Nat) (f : Core → Core) : State := { s with cores := s.cores.put k (f (s.core k)) }

/-- The cluster at a position. -/
def State.cluster (s : State) (pos : Nat) : Cluster := (s.clusters.find pos).getD Cluster.idle

/-- The state with a cluster changed by a function. -/
def State.onCluster (s : State) (pos : Nat) (f : Cluster → Cluster) : State :=
  { s with clusters := s.clusters.put pos (f (s.cluster pos)) }

/-- The lease with an index. -/
def State.lease (s : State) (ix : Nat) : Lease := (s.leases.find ix).getD Lease.none

/-- The state with a lease changed by a function. -/
def State.onLease (s : State) (ix : Nat) (f : Lease → Lease) : State :=
  { s with leases := s.leases.put ix (f (s.lease ix)) }

/-- The launch with a version, if one is in progress. -/
def State.launch? (s : State) (ver : Nat) : Option Launch := s.launches.find ver

/-- The state with a launch changed by a function; nothing where there is none. -/
def State.onLaunch (s : State) (ver : Nat) (f : Launch → Launch) : State :=
  match s.launches.find ver with
  | none => s
  | some l => { s with launches := s.launches.put ver (f l) }

/-- The Spool entry with a die and index (R231). -/
def State.entry (s : State) (k : Nat) : Entry := (s.spool.find k).getD Entry.free

/-- The state with a Spool entry replaced. -/
def State.setEntry (s : State) (k : Nat) (e : Entry) : State := { s with spool := s.spool.put k e }

/-- The node in the scratchpad word with a key (R216). -/
def State.node (s : State) (k : Nat) : Node := (s.nodes.find k).getD Node.idle

/-- The state with a node changed by a function. -/
def State.onNode (s : State) (k : Nat) (f : Node → Node) : State := { s with nodes := s.nodes.put k (f (s.node k)) }

/-- A fresh number for a free value, and the state after it. -/
def State.freshen (s : State) : State := { s with fresh := s.fresh + 1 }

/-- The position holds a cluster of the job (R10). -/
def State.populated (s : State) (pos : Nat) : Bool := (s.clusters.find pos).isSome

/-- The populated positions in ascending order (R257). -/
def State.positions (s : State) : List Nat := s.clusters.map (·.1)

/-- The cluster at a position is stopped (R326, R327): its device's gang-stop has arrived, or the job's cut is being
taken or held, or its lease is left unstarted by a restore (R343). -/
def State.halted (s : State) (pos : Nat) : Bool :=
  match s.stop with
  | .no => (s.images.find (s.cluster pos).lease).isSome
  | .stopping => (s.core (pos * 8)).stopped
  | _ => true

/-- vdev, die and cluster of a position as the number of R11[31:16]. -/
def posOf (vdev die clu : Nat) : Nat := vdev * 128 + die * 16 + clu

/-- The die of a position: vdev and die. -/
def dieOf (pos : Nat) : Nat := pos / 16

/-- The task identity as a word (R11). -/
def identWord (id : Nat) : Word := w64 (id % 2 ^ 32)

/-- The offset from the window base of a scratchpad byte (R28). -/
def spadKey (pos off : Nat) : Nat :=
  ((pos / 128) <<< 32) + (((pos / 16) % 8) <<< 28) + ((pos % 16) <<< 24) + off

/-- The position of a window offset (R28). -/
def posOfKey (a : Nat) : Nat := posOf (a >>> 32) ((a >>> 28) % 8) ((a >>> 24) % 16)

/-- The core that holds a scratchpad byte: its key (R28). -/
def coreOfKey (a : Nat) : Nat := posOfKey a * 8 + (a % 2 ^ 24) / 0xC0000

/-- The base of the job-wide scratchpad windows (R28). -/
def windowBase : Nat := 0x00F0000000000000

/-- The base of the own-cluster window (R28). -/
def ownBase : Nat := 0x00E0000000000000

/-- Two spans of addresses meet. -/
def spansMeet (a n b m : Nat) : Bool := decide (a < b + m) && decide (b < a + n)

/-- The address lies in a scratchpad window (R28): the 16 MiB of the own-cluster window, or the job-wide window. -/
def inWindow (a : Nat) : Bool :=
  (decide (ownBase ≤ a) && decide (a < ownBase + 2 ^ 24)) || (decide (windowBase ≤ a) && decide (a < 2 ^ 56))

/-- The job-wide window address of a scratchpad byte of a core. -/
def windowAddr (coreKey off : Nat) : Nat := windowBase + spadKey (coreKey / 8) ((coreKey % 8) * 0xC0000 + off)

/-- An address of the own-cluster window in its job-wide form (R28). -/
def wideAddr (pos a : Nat) : Nat := if ownBase ≤ a && a < windowBase then windowBase + spadKey pos (a - ownBase) else a

/-- The F bit of a scratchpad word, by the key of its first byte (R30). -/
def State.tagF (s : State) (a : Nat) : Bool := ((s.tags.find a).getD 0).getLsbD 0

/-- The K bit of a scratchpad word (R125). -/
def State.tagK (s : State) (a : Nat) : Bool := ((s.tags.find a).getD 0).getLsbD 1

/-- The state with both tag bits of a scratchpad word set. -/
def State.setTag (s : State) (a : Nat) (f k : Bool) : State :=
  { s with tags := s.tags.put a (BitVec.ofNat 2 (bit f + 2 * bit k)) }

/-- The value of a register; s0 reads zero (R12). -/
def Task.value (t : Task) : Reg → VWord
  | .s n => if n = 0 then 0 else (t.regs.s.get n).setWidth 2048
  | .v n => t.regs.v.get n
  | .p n => (t.regs.p.get n).setWidth 2048
  | .q n => if t.regs.q.getLsbD n.val then 1 else 0
  | .z _ => 0
  | .rsv _ => 0

/-- The 64-bit value of a scalar, mask or guard register. -/
def Task.get64 (t : Task) (r : Reg) : Word := (t.value r).setWidth 64

/-- The register is full (R12): s0 always is. -/
def Task.full (t : Task) : Reg → Bool
  | .s n => n == 0 || t.regs.sf.getLsbD n.val
  | .v n => t.regs.vf.getLsbD n.val
  | .p n => t.regs.pf.getLsbD n.val
  | .q n => t.regs.qf.getLsbD n.val
  | .z _ => true
  | .rsv _ => true

/-- One bit of a bit vector replaced. -/
def setBit {w : Nat} (x : BitVec w) (i : Nat) (b : Bool) : BitVec w :=
  if b then x ||| BitVec.ofNat w (2 ^ i) else x &&& ~~~ (BitVec.ofNat w (2 ^ i))

/-- The register files with one presence bit changed; s0 keeps its own (R12). -/
def Regs.setFull (r : Regs) (g : Reg) (b : Bool) : Regs :=
  match g with
  | .s n => if n = 0 then r else { r with sf := setBit r.sf n.val b }
  | .v n => { r with vf := setBit r.vf n.val b }
  | .p n => { r with pf := setBit r.pf n.val b }
  | .q n => { r with qf := setBit r.qf n.val b }
  | .z _ => r
  | .rsv _ => r

/-- The register files with one value changed; a write of s0 is discarded (R12). -/
def Regs.setValue (r : Regs) (g : Reg) (x : VWord) : Regs :=
  match g with
  | .s n => if n = 0 then r else { r with s := r.s.set n (x.setWidth 64) }
  | .v n => { r with v := r.v.set n x }
  | .p n => { r with p := r.p.set n (x.setWidth 64) }
  | .q n => { r with q := setBit r.q n.val (x.getLsbD 0) }
  | .z _ => r
  | .rsv _ => r

/-- A register written and full (R15); what an error had spoiled in it is gone (R283). -/
def Task.write (t : Task) (r : Reg) (x : VWord) : Task :=
  { t with regs := (t.regs.setValue r x).setFull r true, spoiled := t.spoiled.filter fun g => g != r }

/-- A register written with a 64-bit value and full. -/
def Task.writeW (t : Task) (r : Reg) (x : Word) : Task := t.write r (x.setWidth 2048)

/-- A register empty, its value kept (R15). -/
def Task.clear (t : Task) (r : Reg) : Task := { t with regs := t.regs.setFull r false }

/-- The register that a body in flight fills, if any (R15). -/
def bodyDst : Body' → Option Reg
  | .access a => a.dst
  | .value dst _ _ _ _ => some dst
  | .tagged op _ dst _ _ => if op = .ste then none else some dst
  | .resend op _ dst _ => if op = .ste then none else some dst
  | .send _ _ _ _ _ dst _ => some dst
  | .sendStatus _ _ dst _ => some dst
  | .message _ _ _ dst _ => some dst
  | .messageStatus _ _ dst _ => some dst
  | .post _ _ _ dst => some dst
  | .postStatus _ dst => some dst
  | .spool _ _ dst => some dst
  | .answer _ _ dst _ _ _ _ => some dst
  | .arrive _ _ c => clientDst c
  | .nodeWait _ _ c => clientDst c
  | .nodeAnswer c _ => clientDst c
  | _ => none
where
  /-- The register of a barrier client. -/
  clientDst : NodeClient → Option Reg
    | .task _ dst _ => some dst
    | .child _ => none

/-- Every queued engine command of the job. -/
def State.commands (s : State) : List Command :=
  (s.clusters.flatMap fun e => e.2.jobs ++ e.2.thresher) ++ (s.cores.flatMap fun e => e.2.queue)

/-- A barrier answer that the task still awaits, at a node or held there, names a register that a test accepts. -/
def State.nodeOwes (s : State) (id : Nat) (p : Reg → Bool) : Bool :=
  let mine : NodeClient → Bool
    | .task i d _ => i == id && p d
    | .child _ => false
  s.nodes.any fun e =>
    (e.2.waiters.any fun w => mine w.client) ||
    (e.2.held.any fun h => match h with
      | .barr c | .barw c | .blink c _ => mine c
      | .child _ => false)

/-- The sends that wait at their targets (R17). -/
def State.heldSends (s : State) : List Flight := s.tasks.flatMap fun e => e.2.held

/-- A producer of the task still owes a register that a test accepts its value (R17): something in flight, a send held
at its target, a fixed-latency result, an engine command, a pending MGANG, a tagged request or a barrier. -/
def State.owesTo (s : State) (id : Nat) (p : Reg → Bool) : Bool :=
  (s.flight.any fun f => f.task == id && (bodyDst f.body).any p) ||
    (s.heldSends.any fun f => f.task == id && (bodyDst f.body).any p) ||
    ((s.task id).fixed.any fun e => p e.1) ||
    (s.commands.any fun c => c.task == id && p c.dst) ||
    (s.cores.any fun e => match e.2.pending with
      | some (i, _, d) => i == id && p d
      | none => false) ||
    (s.bank.any fun w => w.task == id && w.op != .ste && p w.dst) ||
    s.nodeOwes id p

/-- A producer of the task still owes the register its value (R17). -/
def State.pendingOn (s : State) (id : Nat) (r : Reg) : Bool := r != .s 0 && s.owesTo id fun d => d == r

/-- An endpoint as a number (R368): 16 times its position plus its unit: 0 to 7 a core, 8 the Loom, 9 the Spool,
10 the Granary, 11 the copy unit, 12 home slices, 13 control, which is the fabric port here. -/
def endOf (pos unit : Nat) : Nat := pos * 16 + unit
/-- The endpoint of a core. -/
def coreEnd (k : Nat) : Nat := endOf (k / 8) (k % 8)
/-- The endpoint of a Loom. -/
def loomEnd (pos : Nat) : Nat := endOf pos 8
/-- The endpoint of a die's Spool, reached through its cluster 0. -/
def spoolEnd (die : Nat) : Nat := endOf (die * 16) 9
/-- The endpoint of a die's Granary. -/
def granaryEnd (die : Nat) : Nat := endOf (die * 16) 10
/-- The endpoint of a copy unit. -/
def copyEnd (pos : Nat) : Nat := endOf pos 11
/-- The Thresher port of a cluster, its matrix slices, and the fabric port of a device (R331): the first two stand under the unit
numbers that R368 reserves. -/
def thresherEnd (pos : Nat) : Nat := endOf pos 14
def matrixEnd (pos : Nat) : Nat := endOf pos 15
def portEnd (vdev : Nat) : Nat := endOf (vdev * 128) 13
/-- The home slices of a die: four of its 64 go with each of the 16 cluster numbers that a header has (assumption log 58). -/
def sliceEnd (die slice : Nat) : Nat := endOf (die * 16 + slice / 4 % 16) 12
def slicesEnd (die : Nat) : Nat := sliceEnd die 0
/-- An endpoint as the channels of a drain count it (R331): the home slices of a die together. -/
def drainEnd (e : Nat) : Nat := if e % 16 = 12 then slicesEnd (dieOf (e / 16)) else e
/-- The position of an endpoint. -/
def endPos (e : Nat) : Nat := e / 16
/-- The core of an endpoint that is one. -/
def endCore (e : Nat) : Nat := e / 16 * 8 + e % 8

/-- An operation that R323 counts between participants: a request, not its answer. -/
def isOperation : Body' → Bool
  | .access _ | .tagged .. | .resend .. | .send .. | .message .. | .post .. | .grant .. | .spool .. | .arrive .. | .nodeWait .. => true
  | _ => false

/-- The key under which a launch counts operations from one die to another (R323). -/
def diePair (src dst : Nat) : Nat := dieOf (endPos src) * 65536 + dieOf (endPos dst)

/-- A launch's count of operations from a die to another goes up (R323). -/
def State.countOperation (s : State) (task src dst : Nat) (b : Body') : State :=
  let counted := s.onLaunch (s.task task).ver.toNat fun l =>
    { l with sent := l.sent.put (diePair src dst) ((l.sent.find (diePair src dst)).getD 0 + 1) }
  { s with launches :=
      if isOperation b && dieOf (endPos src) != dieOf (endPos dst) then counted.launches else s.launches }

/-- The number kept for a source, destination and channel; 0 where none is. -/
def seqOf (l : List (Nat × Nat × Nat × Nat)) (src dst vc : Nat) : Nat :=
  match l.find? fun e => e.1 == src && e.2.1 == dst && e.2.2.1 == vc with
  | some e => e.2.2.2
  | none => 0

/-- The number of a source, destination and channel set. -/
def setSeq (l : List (Nat × Nat × Nat × Nat)) (src dst vc n : Nat) : List (Nat × Nat × Nat × Nat) :=
  (src, dst, vc, n) :: l.filter fun e => !(e.1 == src && e.2.1 == dst && e.2.2.1 == vc)

/-- The physical device that a lease's device map names for a job-virtual device (R403): one entry for each device of the job. -/
def State.mapped (s : State) (vdev : Nat) : Nat :=
  match s.leases.find? fun e => e.2.live && e.2.positions.any fun p => p / 128 == vdev with
  | some e => e.2.phys / 8
  | none => 0

/-- The flits of a transfer of some bytes from one endpoint to another (R368, R403): header, payload and route prefix. `src` is the SRC
field: a task's identity, or the sending unit's position. -/
def State.wireFlits (s : State) (start dst src kind vc n ver subv : Nat) (p : List Byte) : List WireFlit :=
  let seq := seqOf s.fabric.nextSeq src (dst % 2 ^ 20) vc
  (List.range n).map fun i =>
    { header := flitHeader dst kind vc (n - 1 - i) (seq + i) src ver subv
      payload := flitPayload p i
      toDevice := s.mapped (endPos dst / 128)
      toLease := (s.cluster (endPos dst)).lease
      fromDevice := s.mapped (endPos start / 128)
      fromLease := (s.cluster (endPos start)).lease
      trunk := false }

/-- Flits of a transfer kept by their source until they are acknowledged end to end (R404); each takes a SEQ. -/
def State.keepFlits (s : State) (src dst vc : Nat) (l : List WireFlit) : State :=
  { s with fabric := { s.fabric with
      kept := s.fabric.kept ++ l
      nextSeq := setSeq s.fabric.nextSeq src (dst % 2 ^ 20) vc
        ((seqOf s.fabric.nextSeq src (dst % 2 ^ 20) vc + l.length) % 65536) } }

/-- What crosses the fabric goes in flits, which its source keeps (R368, R404). A request names its task in SRC, with the task's launch
version and sub-version; a unit names its position, and no version. -/
def State.keepFlit (s : State) (task start dst : Nat) (vc : BitVec 2) (b : Body') : State :=
  let own := isOperation b && task != 0
  let src := if own then task % 2 ^ 32 else (endPos start % 65536) * 65536
  let ver := if own then (s.task task).ver.toNat else 0
  let subv := if own then (s.task task).subv.toNat else 0
  let kept := s.keepFlits src dst vc.toNat (s.wireFlits start dst src b.kind vc.toNat b.flits ver subv b.payload)
  { s with fabric := if endPos start / 128 = endPos dst / 128 then s.fabric else kept.fabric }

/-- An answer, or something sent again, on its way under the number of its request. -/
def State.sendBody (s : State) (f : Flight) : State :=
  { s.keepFlit f.task f.src f.dst f.vc f.body with flight := s.flight ++ [f] }

/-- Something sent on its way; its number is the event stamp (R367). -/
def State.fly (s : State) (task src dst : Nat) (vc : BitVec 2) (b : Body') : State :=
  let s := (s.countOperation task src dst b).keepFlit task src dst vc b
  { s with seq := s.seq + 1, flight := s.flight ++ [⟨s.seq, task, src, dst, vc, b⟩] }

/-- The flight with a number. -/
def State.flight? (s : State) (k : Nat) : Option Flight := s.flight.find? fun f => f.id == k

/-- A participant that has answered PREPARED and accepts an operation of the launch from another die tells the
coordinator (R323). -/
def State.retract (s : State) (f : Flight) : State :=
  let v := (s.task f.task).ver.toNat
  let die := dieOf (endPos f.dst)
  match s.launch? v with
  | none => s
  | some l =>
    if isOperation f.body && dieOf (endPos f.src) != die && l.answered.any fun a => a.1 == die then
      { s with
        seq := s.seq + 1
        flight := s.flight ++ [⟨s.seq, 0, granaryEnd die, granaryEnd (bits l.root 63 52), 3, .ctrl (.retract v die)⟩] }
    else s

/-- The state without a flight, which has arrived. -/
def State.land (s : State) (k : Nat) : State :=
  let s' := match s.flight? k with
    | some f => s.retract f
    | none => s
  { s' with flight := s'.flight.filter fun f => f.id != k }

/-- The unacknowledged-operation count of a task (R24, R127): its flights that count, its engine commands, and the
count that was kept with it. -/
def counts : Body' → Bool
  | .access a => match a.kind with
    | .store | .atomic _ => true
    | .load | .clean _ => false
  | .value _ _ _ counted _ => counted
  | .ack | .release | .send .. | .sendStatus .. | .message .. | .messageStatus .. | .post .. | .postStatus ..
  | .spool .. => true
  | .answer .. => true
  | .arrive .. => true
  | .nodeAnswer .. => true
  | _ => false

/-- The number of operations that a task has not had acknowledged (R24). -/
def State.unacked (s : State) (id : Nat) : Nat :=
  (s.flight.filter fun f => f.task == id && counts f.body).length + (s.heldSends.filter fun f => f.task == id).length +
    (s.commands.filter fun c => c.task == id).length +
    (s.cores.filter fun e => match e.2.pending with
      | some (i, _, _) => i == id
      | none => false).length

/-- The task holds accumulators (R19): it never parks (R20). -/
def State.holdsAny (s : State) (id : Nat) : Bool := s.cores.any fun e => e.2.holder == some id

/-- The task holds the accumulators of the core that it is on (R19). -/
def State.holds (s : State) (id : Nat) : Bool := (s.core (s.task id).core).holder == some id

/-- A launch runs recorded (R345): its record's flag, or the lease's for a direct command. -/
def State.recordedLaunch (s : State) (l : Launch) : Bool :=
  match l.recIx with
  | some _ => l.flags.getLsbD 1
  | none => l.flags.getLsbD 1 || (s.lease l.lease).recorded

/-- A task of a recorded launch (R345). -/
def State.recorded (s : State) (id : Nat) : Bool :=
  match s.launch? (s.task id).ver.toNat with
  | some l => s.recordedLaunch l
  | none => false

/-- The lease replays a log (R347). -/
def State.replays (s : State) (id : Nat) : Bool := (s.lease (s.task id).lease).replay && !s.replayLog.isEmpty

/-- A chunk of the task has ended and is still to be logged (R345, R346): not while its instruction awaits an answer. -/
def Task.chunkDue (t : Task) : Bool :=
  !t.ended.isEmpty || (t.due.isSome && !(match t.wait with | .answer _ => true | _ => false))

/-- The live tasks of the job. -/
def State.liveTasks (s : State) : List (Nat × Task) := s.tasks.filter fun e => e.2.live

/-- The slots that tasks occupy on a core (R8). -/
def State.slotsUsed (s : State) (k : Nat) : List Nat :=
  s.tasks.filterMap fun e => if e.2.live && e.2.core == k then e.2.slot else none

/-- The lowest free slot of a core (R244). -/
def State.freeSlot (s : State) (k : Nat) : Option Nat :=
  (List.range 16).find? fun i => !(s.slotsUsed k).contains i

end Sys2Proof.Machine
end

