-- ==== Sys2Proof/Machine/Mem.lean ====
section
/-! DEFINITION. Memory as an agent of a launch sees it: shadow and snapshot (R307, R313 to R315), the L1 lines (R291,
R296), publication and acquisition (R298), translation (R275 to R281) and the checks of ranks 6 to 9 (R270). -/
namespace Sys2Proof.Machine

open Sys2Proof

/-- Device memory of a job-virtual device at a physical address as one key (R276). -/
def memKey (vdev pa : Nat) : Nat := vdev * 2 ^ 54 + pa

/-- The HBM of a device: 24 stacks of 96 GB (R2, R3). -/
def hbmBytes : Nat := 24 * 96 * 10 ^ 9

/-- The 2 KiB granule of an address (R4). -/
def granuleOf (a : Nat) : Nat := a / 2048

/-- The address lies in a pinned window (R295): never versioned. -/
def State.pinnedAt (s : State) (a : Nat) : Bool :=
  s.leases.any fun e => e.2.pinned.any fun w =>
    decide (memKey w.vdev w.pa ≤ a) && decide (a < memKey w.vdev w.pa + w.size)

/-- The directory entry of a granule and tag (R313). -/
def Launch.slot (l : Launch) (host : Bool) (g : Nat) (sub : BitVec 12) : Option Shadow :=
  l.shadow.find? fun e => e.host == host && e.granule == g && e.subv == sub

/-- The byte that a sub-version's own shadow holds, if it wrote it. -/
def Launch.ownByte (l : Launch) (host : Bool) (a : Nat) (sub : BitVec 12) : Option Byte :=
  (l.slot host (granuleOf a) sub).bind fun e => e.bytes.find a

/-- Bytes laid over a memory. -/
def overlay (m : Memory) (bs : Store Byte) : Memory := bs.foldl (fun m e => m.put e.1 e.2) m

/-- The launches from the oldest version to the newest (R311): the counter's wrap lies between them. -/
def State.byAge (s : State) : List (Nat × Launch) :=
  (s.launches.filter fun e => decide (s.nextVer.toNat ≤ e.1)) ++ s.launches.filter fun e => decide (e.1 < s.nextVer.toNat)

/-- Memory as committed: the slots still to be copied lie over it, oldest launch first (R318). -/
def State.committed (s : State) (host : Bool) : Memory :=
  s.byAge.foldl (fun m e => if e.2.state == .committed then
      e.2.toCopy.foldl (fun m sh => if sh.host == host then overlay m sh.bytes else m) m else m)
    (if host then s.host else s.mem)

/-- The byte at its home as a launch's agent reads it (R307, R306): its sub-version's, its launch's, or the snapshot at
the launch's start. Without a launch it is the committed byte. -/
def State.homeByte (s : State) (ver : Nat) (sub : BitVec 12) (host : Bool) (a : Nat) : Byte :=
  if !host && s.pinnedAt a then s.mem.get a
  else
    match s.launch? ver with
    | none => (if host then s.host else s.mem).get a
    | some l =>
      match l.ownByte host a sub with
      | some b => b
      | none =>
        match l.ownByte host a 0 with
        | some b => b
        | none => (if host then l.hostBase else l.base).get a

/-- The launch ends with a cause unless it has one already (R315, R323). -/
def State.failLaunch (s : State) (ver : Nat) (cause : BitVec 8) : State :=
  s.onLaunch ver fun l => if l.cause.isSome then l else { l with cause := some cause }

/-- The die that homes a byte of device memory (R290, R429; assumption log 11), or, for a host byte, die 0 of a
device. -/
def homeDie (vdev0 : Nat) (host : Bool) (a : Nat) : Nat :=
  if host then vdev0 * 8 else a / 2 ^ 54 * 8 + (Config.homeStack (a / 2 ^ 54) (a % 2 ^ 54 / 65536)).val / 3

/-- The job-virtual device of a lease's lowest cluster. -/
def State.leaseDev (s : State) (ix : Nat) : Nat := (s.lease ix).positions.headD 0 / 128

/-- The die of the root's entry: the coordinator of a launch (R323). -/
def Launch.coordinator (l : Launch) : Nat := bits l.root 63 52

/-- A write that meets the quota, the directory or the shadow area of its die is not performed: the launch ends
GRANARY_FULL, and the die tells the coordinator (R315, R323). -/
def State.overflow (s : State) (ver : Nat) (host : Bool) (a : Nat) : State :=
  match s.launch? ver with
  | none => s
  | some l =>
    let die := homeDie (s.leaseDev l.lease) host a
    let s := s.failLaunch ver 0x51
    if s.positions.all fun p => dieOf p == l.coordinator then s
    else s.fly 0 (granaryEnd die) (granaryEnd l.coordinator) 3 (.ctrl (.abortq ver die 0x51))

/-- The directory entries of the die that homes a byte (R313). -/
def State.directoryAt (s : State) (l : Launch) (host : Bool) (a : Nat) : List Shadow :=
  let dev := s.leaseDev l.lease
  (s.launches.flatMap fun e => e.2.shadow).filter fun e =>
    homeDie dev e.host (e.granule * 2048) == homeDie dev host a

/-- The lowest shadow slot of a die's 2 GiB area that is free (R313; which one is taken is the model's choice, log 37). -/
def freeShadow (used : List Nat) : Nat := ((List.range (used.length + 1)).find? fun n => !used.contains n).getD 0

/-- A directory entry, and a shadow slot where one is asked for, for a byte of a die (R313, R315): the slot's number, or none
when the directory or the shadow area is full, 1,048,576 entries each. `held` says that the entry stands already. -/
def State.shadowRoom (s : State) (l : Launch) (host : Bool) (a : Nat) (held : Bool) : Option Nat :=
  let es := s.directoryAt l host a
  let used := es.filterMap fun e => e.slot
  if (!held && decide (1048576 ≤ es.length)) || decide (1048576 ≤ used.length) then none else some (freeShadow used)

/-- A directory entry made or changed (R313). -/
def Launch.setSlot (l : Launch) (e : Shadow) : Launch :=
  if (l.slot e.host e.granule e.subv).isSome then
    let same (x : Shadow) : Bool := x.host == e.host && x.granule == e.granule && x.subv == e.subv
    { l with shadow := listUpdate same (fun _ => e) l.shadow }
  else { l with shadow := l.shadow ++ [e] }

/-- DIRTY of a directory entry (R313): the 64-byte pieces that hold data written by its tag. -/
def Shadow.dirty (e : Shadow) : BitVec 32 :=
  e.bytes.foldl (fun (x : BitVec 32) b => x ||| BitVec.ofNat 32 (2 ^ (b.1 % 2048 / 64))) 0

/-- KIND of a directory entry (R313). -/
def Shadow.kind (e : Shadow) : Nat := if e.host then 2 else if e.reduce then 1 else 0

/-- A directory entry's 128 bits (R313), for a launch's version. -/
def Shadow.word (e : Shadow) (ver : Nat) : BitVec 128 :=
  BitVec.ofNat 128 (e.dirty.toNat <<< 96 + (e.slot.getD 0) <<< 76 + bit e.be <<< 75 + bit e.wr <<< 74 + bit e.rd <<< 73 +
    (ver % 65536 * 4096 + e.subv.toNat) <<< 45 + e.kind <<< 43 + e.granule % 2 ^ 43)

/-- An empty directory entry (R313). -/
def Shadow.fresh (host : Bool) (g : Nat) (sub : BitVec 12) : Shadow := ⟨host, g, sub, false, false, false, false, none, [], none⟩

/-- Least and greatest, signed or not, as `w`-bit patterns. -/
def extremeOf (wantMax sg : Bool) (w a b : Nat) : Nat :=
  let less := if sg then decide (sgn w a < sgn w b) else decide (a < b)
  if less == wantMax then b else a

/-- The charge of a new REDUCE record (R315). -/
def reduceCharge (op : AtomicOp) (bytes : Nat) : Nat :=
  match op with
  | .fadd => if bytes = 4 then 64 else 512
  | _ => 8

/-- Two records of one location, width, kind and sign combined exactly (R321). -/
def ReduceRec.join (a b : ReduceRec) : ReduceRec :=
  let w := 8 * a.bytes
  match a.op with
  | .add => { a with mant := a.mant + b.mant }
  | .and => { a with mant := (a.mant.toNat &&& b.mant.toNat : Nat) }
  | .or => { a with mant := (a.mant.toNat ||| b.mant.toNat : Nat) }
  | .xor => { a with mant := (a.mant.toNat ^^^ b.mant.toNat : Nat) }
  | .min => { a with mant := (extremeOf false a.signed w a.mant.toNat b.mant.toNat : Nat) }
  | .max => { a with mant := (extremeOf true a.signed w a.mant.toNat b.mant.toNat : Nat) }
  | _ =>
    { a with mant := a.mant + b.mant, posInf := a.posInf || b.posInf, negInf := a.negInf || b.negInf, nan := a.nan || b.nan,
             negZero := a.negZero && b.negZero }

/-- One kind of record of one location. -/
def ReduceRec.same (a b : ReduceRec) : Bool :=
  a.addr == b.addr && a.bytes == b.bytes && a.op == b.op && a.signed == b.signed && a.host == b.host

/-- A read enters the read set (R314), also where the directory of its die is full, which stops writes and updates only
(R315; the model's choice, log 56); a granule that a later commit already wrote makes the launch stale (log 6). -/
def State.markRead (s : State) (ver : Nat) (sub : BitVec 12) (host : Bool) (attr : BitVec 3) (a : Nat) : State :=
  if attr == 1 || (!host && s.pinnedAt a) then s
  else s.onLaunch ver fun l =>
    let g := granuleOf a
    let e := (l.slot host g sub).getD (Shadow.fresh host g sub)
    let l := l.setSlot { e with rd := true }
    if l.laterCommits.contains (host, g) && !l.stale.contains (host, g) then { l with stale := (host, g) :: l.stale }
    else l

/-- The first write of a tag to a granule takes a shadow slot and is charged (R315); the first write to a slot kept by
a basting point copies it first, under the same quota (R348). None: the quota is exceeded, or there is no room. -/
def State.takeSlot (s : State) (ver : Nat) (sub : BitVec 12) (host : Bool) (a : Nat) : Option State :=
  if !host && s.pinnedAt a then some s
  else
    match s.launch? ver with
    | none => some s
    | some l =>
      let g := granuleOf a
      let e := (l.slot host g sub).getD (Shadow.fresh host g sub)
      let keep := e.be && e.saved.isNone
      if e.wr && !keep then some s
      else if l.quota < l.charge + 2048 then none
      else
        (s.shadowRoom l host a (l.slot host g sub).isSome).map fun n =>
          let saved := if keep then some e.bytes else e.saved
          let slot := if e.slot.isSome then e.slot else some n
          s.onLaunch ver fun l => { l.setSlot { e with wr := true, slot := slot, saved := saved } with charge := l.charge + 2048 }

/-- A byte written at its home under a tag (R291, R313). -/
def State.homePut (s : State) (ver : Nat) (sub : BitVec 12) (host : Bool) (a : Nat) (b : Byte) : State :=
  if !host && s.pinnedAt a then { s with mem := s.mem.put a b }
  else
    match s.launch? ver with
    | none => if host then { s with host := s.host.put a b } else { s with mem := s.mem.put a b }
    | some _ =>
      s.onLaunch ver fun l =>
        let g := granuleOf a
        let e := (l.slot host g sub).getD (Shadow.fresh host g sub)
        l.setSlot { e with bytes := e.bytes.put a b }

/-- Bytes written at their home from an address up. -/
def State.homePuts (s : State) (ver : Nat) (sub : BitVec 12) (host : Bool) : Nat → List Byte → State
  | _, [] => s
  | a, b :: bs => State.homePuts (s.homePut ver sub host a b) ver sub host (a + 1) bs

/-- The key of a granule in the slices. -/
def sliceKey (host : Bool) (a : Nat) : Nat := 2 * (a / 2048) + bit host

/-- The ways that a lease may fill in a slice (R293, R295). -/
def State.usableWays (s : State) (lease die slice : Nat) : List Nat :=
  (maskList 16 (s.lease lease).fillMask.toNat).filter fun w =>
    !s.leases.any fun e => e.2.pinned.any fun p => p.vdev * 8 + p.die == die && p.slices.contains slice && p.ways.getLsbD w

/-- The fill mask of a lease has no way that it may use in the slice of an address (R131, R293). -/
def State.maskEmpty (s : State) (lease : Nat) (host : Bool) (a : Nat) : Bool :=
  (s.usableWays lease (homeDie (s.leaseDev lease) host a) (a % 2 ^ 54 / 2048 % 64)).isEmpty

/-- The way used least recently. -/
def oldestWay (l : List SliceWay) : Option SliceWay :=
  l.foldl (fun b w => match b with
    | none => some w
    | some x => if w.used < x.used then some w else some x) none

/-- A version tag as the slices keep it (R289, R312); 0 is committed memory. -/
def tagNum (ver : Nat) (sub : BitVec 12) : Nat := 1 + ver * 4096 + sub.toNat

/-- Whose granule serves a byte of a launch's view (R306, R307): the sub-version's shadow, the launch's, or committed
memory. -/
def State.sliceTag (s : State) (ver : Nat) (sub : BitVec 12) (host : Bool) (a : Nat) : Nat :=
  let wrote (l : Launch) (x : BitVec 12) : Bool := match l.slot host (granuleOf a) x with
    | some e => e.wr
    | none => false
  match s.launch? ver with
  | none => 0
  | some l => if wrote l sub then tagNum ver sub else if wrote l 0 then tagNum ver 0 else 0

/-- A use of a home slice: the lease it is made for, the tag of the granule, its bytes' place, whether the whole granule is
wanted, and whether it writes. -/
structure SliceUse where
  lease : Nat
  tag : Nat
  host : Bool
  addr : Nat
  whole : Bool
  write : Bool

/-- SLICE_FILL (R290, R292 to R294): a read or write of one 64-byte piece, or of a whole granule, at its home slice. A hit
refreshes its way, whichever lease filled it; a miss fills the piece in a way of the lease's mask: that of the granule
when it is one of them, else an invalid one, else the least recently used, whose granule goes with its dirty pieces
written back (the model holds a byte once, whether in a slice or in HBM). -/
def State.sliceUse (s : State) (u : SliceUse) : State :=
  if !u.host && s.pinnedAt u.addr then s
  else
    let die := homeDie (s.leaseDev u.lease) u.host u.addr
    let g := u.addr % 2 ^ 54 / 2048
    let sl := g % 64
    let set := g / 64 % 256
    let piece : BitVec 32 := if u.whole then BitVec.allOnes 32 else BitVec.ofNat 32 (2 ^ (u.addr % 2048 / 64))
    let soiled : BitVec 32 := if u.write then piece else 0
    let here (w : SliceWay) : Bool := w.die == die && w.slice == sl && w.set == set
    let holds (w : SliceWay) : Bool := here w && w.granule == sliceKey u.host u.addr && w.tag == u.tag
    let usable := s.usableWays u.lease die sl
    let s' := { s with seq := s.seq + 1 }
    let on (p : SliceWay → Bool) (s' : State) : State :=
      { s' with ways := listUpdate p (fun w => { w with present := w.present ||| piece, dirty := w.dirty ||| soiled, used := s.seq }) s.ways }
    let hit (w : SliceWay) : Bool := holds w && w.present &&& piece == piece
    let own (w : SliceWay) : Bool := holds w && usable.contains w.way
    if s.ways.any hit then on hit s'
    else if s.ways.any own then on own s'
    else
      let mk (w : Nat) : SliceWay := ⟨die, sl, set, w, sliceKey u.host u.addr, u.tag, piece, soiled, u.lease, s.seq⟩
      match usable.find? fun w => !s.ways.any fun x => here x && x.way == w with
      | some w => { s' with ways := s.ways ++ [mk w] }
      | none =>
        match oldestWay (s.ways.filter fun x => here x && usable.contains x.way) with
        | some x => { s' with ways := listUpdate (fun y => here y && y.way == x.way) (fun _ => mk x.way) s.ways }
        | none => s

/-- A read of a byte's piece at its home slice, as a launch sees it. -/
def State.sliceRead (s : State) (lease ver : Nat) (sub : BitVec 12) (host : Bool) (a : Nat) : State :=
  s.sliceUse ⟨lease, s.sliceTag ver sub host a, host, a, false, false⟩

/-- A write of a byte's piece at its home slice, under its tag. -/
def State.sliceWrite (s : State) (lease ver : Nat) (sub : BitVec 12) (host : Bool) (a : Nat) : State :=
  s.sliceUse ⟨lease, s.sliceTag ver sub host a, host, a, false, true⟩

/-- Shadow granules of a tag leave the slices: their slots are free (R318, R319, R322). -/
def State.freeWays (s : State) (p : Nat → Bool) : State := { s with ways := s.ways.filter fun w => w.tag == 0 || !p (w.tag - 1) }

/-- The valid granules that a fill of a lease installed in a slice (R294): the slice's occupancy counter. -/
def State.sliceCount (s : State) (lease die slice : Nat) : Nat :=
  (s.ways.filter fun w => w.lease == lease && w.die == die && w.slice == slice).length

/-- The L1 line of a core. -/
def Core.line (c : Core) (host : Bool) (ln : Nat) : Option L1Line := c.l1.find? fun e => e.host == host && e.line == ln

/-- The core without a line. -/
def Core.dropLine (c : Core) (host : Bool) (ln : Nat) : Core :=
  { c with l1 := c.l1.filter fun e => !(e.host == host && e.line == ln) }

/-- The core with a line put in. -/
def Core.setLine (c : Core) (e : L1Line) : Core := { c.dropLine e.host e.line with l1 := (c.dropLine e.host e.line).l1 ++ [e] }

/-- The dirty bytes of a line of a core written to their home slice under their own tag (R291); bytes that an uncorrectable
error has spoiled mark the piece there (R283). -/
def State.writeBack (s : State) (k : Nat) (e : L1Line) : State :=
  if e.dirty = 0 then s
  else
    let s := (List.range 64).foldl (fun s i =>
      if e.dirty.getLsbD i then s.homePut e.ver.toNat e.subv e.host (e.line * 64 + i) (byteAt e.data i) else s) s
    let s := s.sliceWrite (s.cluster (k / 8)).lease e.ver.toNat e.subv e.host (e.line * 64)
    if e.bad && !e.host && !s.marked.contains e.line then { s with marked := e.line :: s.marked } else s

/-- A core's line cleaned: its dirty bytes written back, the line kept (R131). -/
def State.cleanLine (s : State) (k : Nat) (host : Bool) (ln : Nat) : State :=
  match (s.core k).line host ln with
  | none => s
  | some e => (s.writeBack k e).onCore k fun c => c.setLine { e with dirty := 0 }

/-- A core's line cleaned and removed (R131). -/
def State.invalLine (s : State) (k : Nat) (host : Bool) (ln : Nat) : State :=
  match (s.core k).line host ln with
  | none => s
  | some e => (s.writeBack k e).onCore k fun c => c.dropLine host ln

/-- Every line of a core that a test accepts, cleaned, and removed when `drop`. -/
def State.sweep (s : State) (k : Nat) (drop : Bool) (p : L1Line → Bool) : State :=
  ((s.core k).l1.filter p).foldl
    (fun s e => if drop then s.invalLine k e.host e.line else s.cleanLine k e.host e.line) s

/-- The PRIVATE lines of a core evicted, which may take place at any time (R291, R296). -/
def State.evictPrivate (s : State) (k : Nat) : State := s.sweep k true fun e => e.attr == 0

/-- Publication: every dirty PHASED byte in the core's L1 reaches its home slice (R298). -/
def State.publish (s : State) (k : Nat) : State := s.sweep k false fun e => e.attr == 2

/-- Lines of an attribute without their clean bytes: a line with no dirty byte is gone. -/
def dropClean (attr : BitVec 3) (l : List L1Line) : List L1Line :=
  (l.filter fun e => !(e.attr == attr && e.dirty == 0)).map fun e => if e.attr == attr then { e with valid := e.valid &&& e.dirty } else e

/-- Acquisition: PHASED lines with no unpublished byte are self-invalidated, other PHASED lines keep their unpublished bytes
only, and remap rows are read again (R144, R281, R302). -/
def State.acquire (s : State) (k : Nat) : State := s.onCore k fun c => { c with l1 := dropClean 2 c.l1, rows := [] }

/-- The clean PRIVATE bytes of a core leave its L1, which may take place at any time (R291, R296). -/
def State.dropPrivate (s : State) (k : Nat) : State := s.onCore k fun c => { c with l1 := dropClean 0 c.l1 }

/-- The acquire points of a task with a new one: those that still have an older flight of the task on its way (R300, R304). -/
def State.acquirePoints (s : State) (id : Nat) : List Nat :=
  s.seq :: (s.task id).acquired.filter fun a => s.flight.any fun f => f.task == id && decide (f.id < a)

/-- An acquire point of a task (R298): the acquisition at its core, and its later accesses follow its earlier ones (R300,
R304). -/
def State.acquireFor (s : State) (id : Nat) : State :=
  (s.acquire (s.task id).core).onTask id fun t => { t with acquired := s.acquirePoints id }

/-- A line of another tag leaves the L1 before the tag's own use of it (R291). -/
def State.claimLine (s : State) (k ver : Nat) (sub : BitVec 12) (host : Bool) (ln : Nat) : State :=
  match (s.core k).line host ln with
  | none => s
  | some e => if e.pinned || (e.ver.toNat == ver && e.subv == sub) then s else s.invalLine k host ln

/-- An L1 line with nothing valid; a line of a pinned window carries no tag (R291). -/
def L1Line.empty (host : Bool) (ln ver : Nat) (sub : BitVec 12) (attr : BitVec 3) (pinned : Bool) : L1Line :=
  ⟨host, ln, 0, 0, 0, if pinned then 0 else BitVec.ofNat 16 ver, if pinned then 0 else sub, attr, pinned, false, false⟩

/-- The set of an L1 that a line belongs to (R289): 2,048 sets of 16 ways (assumption log 19). -/
def l1Set (ln : Nat) : Nat := ln % 2048

/-- Room for a line in its set: of 16 lines one is evicted, written back as it goes (R289, R291). -/
def State.l1Room (s : State) (k : Nat) (host : Bool) (ln : Nat) : State :=
  let mates := (s.core k).l1.filter fun e => l1Set e.line == l1Set ln
  if ((s.core k).line host ln).isSome || mates.length < 16 then s
  else match mates[(Config.l1Victim s.fresh).val]? with
    | some e => s.freshen.invalLine k e.host e.line
    | none => s

/-- The cores whose L1 holds a COHERENT line of a launch's view: what its directory entry names (R296). A line of a pinned
window is in every launch's view (R295). -/
def State.holders (s : State) (ver : Nat) (host : Bool) (ln : Nat) : List Nat :=
  (s.cores.filter fun e => e.2.l1.any fun x =>
    x.host == host && x.line == ln && x.attr == 3 && (x.pinned || x.ver.toNat == ver)).map (·.1)

/-- Every holder of a COHERENT line but one gives it up, or keeps it shared: its dirty bytes reach their home (R296). -/
def State.recall (s : State) (ver : Nat) (host : Bool) (ln : Nat) (but : Option Nat) (drop : Bool) : State :=
  ((s.holders ver host ln).filter fun k => some k != but).foldl (fun s k =>
    if drop then s.invalLine k host ln
    else
      let s := s.cleanLine k host ln
      match (s.core k).line host ln with
      | some e => s.onCore k fun c => c.setLine { e with excl := false }
      | none => s) s

/-- The lines that `n` bytes at `a` touch. -/
def linesOf (a n : Nat) : List Nat := (List.range ((a + n + 63) / 64 - a / 64)).map (a / 64 + ·)

/-- COHERENT bytes recalled from every L1 before an access at their home (R296, R303). -/
def State.recallBytes (s : State) (ver : Nat) (host : Bool) (a n : Nat) (drop : Bool) : State :=
  (linesOf a n).foldl (fun s ln => s.recall ver host ln none drop) s

/-- The line holding `n` bytes at `a`, filled from home where it is not valid (R289). Bytes of the core's own stores are read
by this too, so their granule enters the read set (R314); for a line filled earlier it is there already. -/
def State.fillLine (s : State) (k ver : Nat) (sub : BitVec 12) (host : Bool) (attr : BitVec 3) (a n : Nat) : State :=
  let ln := a / 64
  let s := (s.claimLine k ver sub host ln).l1Room k host ln
  let e := ((s.core k).line host ln).getD (L1Line.empty host ln ver sub attr (!host && s.pinnedAt a))
  let s := s.markRead ver sub host attr a
  if (List.range n).all fun i => e.valid.getLsbD (a % 64 + i) then s
  else
    let s := if attr == 3 then s.recall ver host ln (some k) false else s
    let s := s.sliceRead (s.cluster (k / 8)).lease ver sub host a
    let bad := e.bad || (!host && s.marked.contains ln)
    let data := vecBytes (fun i => if e.valid.getLsbD i then byteAt e.data i else s.homeByte ver sub host (ln * 64 + i))
    s.onCore k fun c => c.setLine { e with data := data, valid := BitVec.allOnes 64, bad := bad }
where
  /-- 64 bytes as a line. -/
  vecBytes (f : Nat → Byte) : BitVec 512 := BitVec.ofNat 512 (leNat ((List.range 64).map f))

/-- `n` bytes at `a`, within one line, loaded through the L1 of a core. -/
def State.l1Load (s : State) (k ver : Nat) (sub : BitVec 12) (host : Bool) (attr : BitVec 3) (a n : Nat) :
    State × List Byte :=
  let s := s.fillLine k ver sub host attr a n
  let d := match (s.core k).line host (a / 64) with
    | some e => e.data
    | none => 0
  (s, (List.range n).map fun i => byteAt d (a % 64 + i))

/-- Bytes within one line stored in the L1 of a core (R291, R315); a write past the quota is not performed. A COHERENT line is
gained exclusive first (R296). -/
def State.l1Store (s : State) (k ver : Nat) (sub : BitVec 12) (host : Bool) (attr : BitVec 3) (a : Nat)
    (bs : List Byte) : State :=
  match s.takeSlot ver sub host a with
  | none => s.overflow ver host a
  | some s =>
    let ln := a / 64
    let s := (s.claimLine k ver sub host ln).l1Room k host ln
    let s := if attr == 3 then s.recall ver host ln (some k) true else s
    let e := { ((s.core k).line host ln).getD (L1Line.empty host ln ver sub attr (!host && s.pinnedAt a)) with excl := attr == 3 }
    let e := (List.range bs.length).foldl (fun (e : L1Line) i =>
      { e with
        data := setLane e.data 8 (a % 64 + i) (bs.getD i 0).toNat
        valid := setBit e.valid (a % 64 + i) true
        dirty := setBit e.dirty (a % 64 + i) true }) e
    s.onCore k fun c => c.setLine e

/-- `n` bytes read at their home by an agent of a lease and launch (R302, R303, R305). -/
def State.homeLoad (s : State) (lease ver : Nat) (sub : BitVec 12) (host : Bool) (attr : BitVec 3) (a n : Nat) :
    State × List Byte :=
  let s := if attr == 3 then s.recallBytes ver host a n false else s
  ((List.range n).foldl (fun s i =>
      let s := if i = 0 || (a + i) % 2048 = 0 then s.markRead ver sub host attr (a + i) else s
      if i = 0 || (a + i) % 64 = 0 then s.sliceRead lease ver sub host (a + i) else s) s,
    (List.range n).map fun i => s.homeByte ver sub host (a + i))

/-- Bytes written at their home by an agent of a lease and launch, within one granule. -/
def State.homeStore (s : State) (lease ver : Nat) (sub : BitVec 12) (host : Bool) (attr : BitVec 3) (a : Nat)
    (bs : List Byte) : State :=
  match s.takeSlot ver sub host a with
  | none => s.overflow ver host a
  | some s =>
    let s := if attr == 3 then s.recallBytes ver host a bs.length true else s
    (linesOf a bs.length).foldl (fun s ln => s.sliceWrite lease ver sub host (ln * 64)) (s.homePuts ver sub host a bs)

/-- The bytes of a REDUCE page, read at their home slice: as committed before the launch began (R123, R296). -/
def State.reduceLoad (s : State) (lease ver : Nat) (sub : BitVec 12) (a n : Nat) (byte : Nat → Byte) : State × List Byte :=
  ((linesOf a n).foldl (fun s ln => s.sliceUse ⟨lease, 0, false, ln * 64, false, false⟩) (s.markRead ver sub false 4 a),
    (List.range n).map fun i => byte (a + i))

/-- The byte of a REDUCE page: as committed before the launch began (R123). -/
def State.reduceByte (s : State) (ver a : Nat) : Byte :=
  match s.launch? ver with
  | some l => l.base.get a
  | none => s.mem.get a

/-- One part of an access read by a task on core `k` (R289, R296). -/
def State.loadPart (s : State) (k ver : Nat) (sub : BitVec 12) (p : Place) (n : Nat) : State × List Byte :=
  match p.space with
  | .spad => (s, s.spad.bytes p.addr n)
  | .host attr => s.l1Load k ver sub true attr p.addr n
  | .mem attr =>
    if attr == 4 then s.reduceLoad (s.cluster (k / 8)).lease ver sub p.addr n (s.reduceByte ver)
    else s.l1Load k ver sub false attr p.addr n

/-- One part of an access written by a task on core `k`. A remap row that the core holds is read again after a store to its
entry (R281). -/
def State.storePart (s : State) (k ver : Nat) (sub : BitVec 12) (p : Place) (bs : List Byte) : State :=
  match p.space with
  | .spad => { s with spad := s.spad.write p.addr bs }
  | .host attr => s.l1Store k ver sub true attr p.addr bs
  | .mem attr =>
    let s := s.l1Store k ver sub false attr p.addr bs
    if (s.core k).rows.isEmpty then s
    else s.onCore k fun c => { c with
      rows := c.rows.filter fun r => decide (r.src + 8 ≤ p.addr) || decide (p.addr + bs.length ≤ r.src) }

/-- Bytes read by an engine or a Loom copy (R305): never through an L1. -/
def State.engineLoad (s : State) (lease ver : Nat) (sub : BitVec 12) (p : Place) (n : Nat) : State × List Byte :=
  match p.space with
  | .spad => (s, s.spad.bytes p.addr n)
  | .host attr => s.homeLoad lease ver sub true attr p.addr n
  | .mem attr =>
    if attr == 4 then s.reduceLoad lease ver sub p.addr n (s.reduceByte ver)
    else s.homeLoad lease ver sub false attr p.addr n

/-- Bytes written by an engine of a lease. -/
def State.engineStore (s : State) (lease ver : Nat) (sub : BitVec 12) (p : Place) (bs : List Byte) : State :=
  match p.space with
  | .spad => { s with spad := s.spad.write p.addr bs }
  | .host attr => s.homeStore lease ver sub true attr p.addr bs
  | .mem attr => s.homeStore lease ver sub false attr p.addr bs

/-- A numbered unit of storage among some that hold an error meets a range of bytes. -/
def meetsUnit (units : List Nat) (size a n : Nat) : Bool :=
  units.any fun m => decide (m < (a + n + size - 1) / size) && decide (a / size ≤ m)

/-- The bytes hold an uncorrectable error where they lie (R282, R283): a scratchpad word with its tag bits, or a marked
64-byte piece. -/
def State.isMarked (s : State) (p : Place) (n : Nat) : Bool :=
  match p.space with
  | .spad => meetsUnit s.spoilt 8 p.addr n
  | .mem _ => meetsUnit s.marked 64 p.addr n
  | .host _ => false

/-- The bytes as a core reads them hold an uncorrectable error (R282, R283): in the line of its L1, else where they lie. -/
def State.isMarkedFor (s : State) (k : Nat) (p : Place) (n : Nat) : Bool :=
  let line (host : Bool) : Option L1Line := (linesOf p.addr n).findSome? fun ln => (s.core k).line host ln
  match p.space with
  | .spad => s.isMarked p n
  | .mem _ => match line false with
    | some e => e.bad
    | none => s.isMarked p n
  | .host _ => match line true with
    | some e => e.bad
    | none => false

/-- Fields of a table entry (R276). -/
def pteVdev (e : Word) : Nat := bits e 62 54
def ptePa (e : Word) : Nat := bits e 53 16 * 65536
def pteHost (e : Word) : Bool := e.getLsbD 6
def pteX (e : Word) : Bool := e.getLsbD 5
def pteAttr (e : Word) : BitVec 3 := BitVec.ofNat 3 (bits e 4 2)
def pteLeaf (e : Word) : Bool := e.getLsbD 1
def pteV (e : Word) : Bool := e.getLsbD 0

/-- Size of what a leaf at a level maps (R275). -/
def leafSize (lvl : Nat) : Nat := if lvl = 1 then 2 ^ 30 else if lvl = 2 then 2 ^ 21 else 2 ^ 16

/-- What an entry of a level covers (R275). -/
def entrySpan (lvl : Nat) : Nat := if lvl = 0 then 2 ^ 40 else leafSize lvl

/-- Size and alignment of the table of a level (R275). -/
def tableSize (lvl : Nat) : Nat := if lvl = 0 then 524288 else if lvl = 1 then 8192 else if lvl = 2 then 4096 else 256

/-- Index of an address in the table of a level (R275). -/
def levelIndex (lvl va : Nat) : Nat :=
  if lvl = 0 then va / 2 ^ 40 % 65536
  else if lvl = 1 then va / 2 ^ 30 % 1024
  else if lvl = 2 then va / 2 ^ 21 % 512
  else va / 2 ^ 16 % 32

/-- A table entry is malformed (R276). A pointer's address is the 64 KiB-aligned PA of its map. -/
def pteMalformed (lvl : Nat) (e : Word) : Bool :=
  e.getLsbD 63 || bits e 15 7 != 0 || decide (4 < bits e 4 2) ||
    (if pteLeaf e then
      lvl == 0 || ptePa e % leafSize lvl != 0 || (pteHost e && pteAttr e != 1 && pteAttr e != 2)
     else lvl == 3 || ptePa e % tableSize (lvl + 1) != 0 || pteHost e || pteX e || pteAttr e != 0)

/-- What a table walk finds: a leaf with the first address and size it maps, or the level at which it stops. -/
inductive WalkResult where
  | leaf (entry : Word) (base size : Nat)
  | stop (lvl : Nat) (malformed : Bool)
  deriving DecidableEq, Repr

/-- The walk from a level down (R275). -/
def State.walkFrom (s : State) (va : Nat) : Nat → Nat → Nat → WalkResult
  | 0, lvl, _ => .stop lvl true
  | n + 1, lvl, tbl =>
    let e := w64 (s.mem.num (tbl + 8 * levelIndex lvl va) 8)
    if !pteV e then .stop lvl false
    else if pteMalformed lvl e then .stop lvl true
    else if pteLeaf e then .leaf e (va / leafSize lvl * leafSize lvl) (leafSize lvl)
    else State.walkFrom s va n (lvl + 1) (memKey (pteVdev e) (ptePa e))

/-- The walk of a lease's page table for an address (R275). -/
def State.walk (s : State) (lease va : Nat) : WalkResult :=
  s.walkFrom va 4 0 (memKey (s.lease lease).rootVdev (s.lease lease).rootPa)

/-- The die of a lease, whose page-walk unit serves it (R9, R278). -/
def State.leaseDie (s : State) (lease : Nat) : Nat := dieOf ((s.lease lease).positions.headD 0)

/-- The walk with a die's walk cache (R278): an entry of level 0, 1 or 2 that the cache holds is not read again. With what it
found come the valid entries that it used. -/
def State.walkVia (s : State) (cache : List WalkEntry) (lease va : Nat) : Nat → Nat → Nat → WalkResult × List WalkEntry
  | 0, lvl, _ => (.stop lvl true, [])
  | n + 1, lvl, tbl =>
    let index := va / entrySpan lvl
    let e := match if lvl < 3 then cache.find? (fun w => w.lease == lease && w.lvl == lvl && w.index == index) else none with
      | some w => w.entry
      | none => w64 (s.mem.num (tbl + 8 * levelIndex lvl va) 8)
    let used : List WalkEntry := if lvl < 3 then [⟨lease, lvl, index, e⟩] else []
    if !pteV e then (.stop lvl false, [])
    else if pteMalformed lvl e then (.stop lvl true, [])
    else if pteLeaf e then (.leaf e (va / leafSize lvl * leafSize lvl) (leafSize lvl), used)
    else
      let r := State.walkVia s cache lease va n (lvl + 1) (memKey (pteVdev e) (ptePa e))
      (r.1, used ++ r.2)

/-- The walk that a die makes for a lease: its cache of 256 entries keeps the entries used, newest first (R278; assumption
log 19). -/
def State.walkOn (s : State) (lease va : Nat) : State × WalkResult :=
  let die := s.leaseDie lease
  let cache := (s.walkCache.find die).getD []
  let l := s.lease lease
  let r := s.walkVia cache lease va 4 0 (memKey l.rootVdev l.rootPa)
  ({ s with walkCache := s.walkCache.put die ((r.2 ++ cache.filter fun e => !r.2.contains e).take 256) }, r.1)

/-- The translation that a cache holds for an address (R278). -/
def tlbFind (l : List Tlb) (lease va : Nat) : Option Tlb :=
  l.find? fun t => t.lease == lease && decide (t.base ≤ va) && decide (va < t.base + t.size)

/-- How an address resolves (R275, R281). A miss names the address to walk. -/
inductive Xlate where
  | ok (p : Place) (x : Bool) (row : Option RowEntry)
  | fault (why : Nat)
  | miss (va : Nat)
  deriving DecidableEq, Repr

/-- An address below the windows through a translation cache. An entry may name a physical address at or above the HBM of a
device, or a device at or above 384: R276 does not call it malformed, and such addresses have bytes of their own (the model's
choice, log 56). -/
def throughTlb (tlb : List Tlb) (lease va : Nat) (orig : Word) (row : Option RowEntry) : Xlate :=
  match tlbFind tlb lease va with
  | none => .miss va
  | some t =>
    if pteHost t.entry then .ok ⟨.host (pteAttr t.entry), ptePa t.entry + (va - t.base), orig, none⟩ (pteX t.entry) row
    else .ok ⟨.mem (pteAttr t.entry), memKey (pteVdev t.entry) (ptePa t.entry) + (va - t.base), orig, none⟩ (pteX t.entry) row

/-- An address of a window (R28, R29). -/
def State.windowPlace (s : State) (pos va : Nat) (orig : Word) : Xlate :=
  if windowBase ≤ va then
    let x := va - windowBase
    if x.testBit 31 || decide (384 ≤ x >>> 32) || !s.populated (posOfKey x) || decide (0x600000 ≤ x % 2 ^ 24)
    then .fault 2 else .ok ⟨.spad, x, orig, none⟩ false none
  else
    let o := va - ownBase
    if 0x600000 ≤ o then .fault 2 else .ok ⟨.spad, spadKey pos o, orig, none⟩ false none

/-- The first byte, row size and span of a remap window (R281). -/
def RemapWindow.rowSize (w : RemapWindow) : Nat := 256 * 2 ^ w.k
def RemapWindow.span (w : RemapWindow) : Nat := (w.rows * w.rowSize + 2097151) / 2097152 * 2097152

/-- Fields of a node's word 0 (R216): target, arrived count and phase. -/
def State.nodeTarget (s : State) (n : Nat) : Nat := s.spad.num n 2
def State.nodeArrived (s : State) (n : Nat) : Nat := s.spad.num (n + 2) 2
def State.nodePhase (s : State) (n : Nat) : Nat := s.spad.num (n + 4) 4
/-- The parent node in word 1 (R216); 0 for a root. -/
def State.nodeParent (s : State) (n : Nat) : Nat := s.spad.num (n + 8) 6

/-- A token has passed at a phase (R218). -/
def tokenPassed (phase token : Nat) : Bool :=
  let d := (phase + 2 ^ 32 - token % 2 ^ 32) % 2 ^ 32
  decide (1 ≤ d) && decide (d < 2 ^ 31)

/-- ARM, SW, NEWV, NEWRT, NODE and WIN of a route slot (R388). -/
def slotArm (x : BitVec 256) : Bool := x.getLsbD 240
def slotSw (x : BitVec 256) : Nat := fld x 239 208
def slotNewv (x : BitVec 256) : Nat := fld x 207 192
def slotNewrt (x : BitVec 256) : Nat := fld x 183 128
def slotNode (x : BitVec 256) : Nat := fld x 111 64
def slotDrain (x : BitVec 256) : Nat := fld x 63 8
def slotWin (x : BitVec 256) : Nat := fld x 3 0

/-- SW of a slot has passed at its node (R218, R389). -/
def State.switched (s : State) (x : BitVec 256) : Bool := tokenPassed (s.nodePhase (slotNode x)) (slotSw x)

/-- A window as its rows are read now (R389): through the new table once an armed slot's switch token has passed. -/
def State.routed (s : State) (l : Lease) (wi : Nat) (w : RemapWindow) : RemapWindow :=
  match l.routes.toList.find? fun x => slotArm x && slotWin x == wi && s.switched x with
  | some x => { w with table := w64 (slotNewrt x), version := BitVec.ofNat 16 (slotNewv x) }
  | none => w

/-- The remap window an address lies in (R281), with the row table that its accesses read (R389). -/
def State.remapOf (s : State) (lease va : Nat) : Option (Nat × RemapWindow) :=
  let l := s.lease lease
  (((List.range 16).zip l.remap.toList).find? fun e =>
    e.2.valid && decide (e.2.base.toNat ≤ va) && decide (va < e.2.base.toNat + e.2.span)).map fun e => (e.1, s.routed l e.1 e.2)

/-- A resolution that a row led to (R389): the access carries the row's table and version, and the core may keep the entry. -/
def Xlate.byRow (r : RowEntry) : Xlate → Xlate
  | .ok p x _ => .ok { p with via := some ⟨r.win, r.table, r.ver⟩ } x (some r)
  | x => x

/-- Resolution of a job-virtual address (R275, R281) with a translation cache, the row entries a core holds, and a way
to read a row-table entry at its place. -/
def State.resolve (s : State) (tlb : List Tlb) (rows : List RowEntry) (readRow : Place → Word) (lease pos : Nat)
    (a : Word) : Xlate :=
  let va := a.toNat
  if 2 ^ 56 ≤ va then .fault 3
  else if ownBase ≤ va then s.windowPlace pos va a
  else
    match s.remapOf lease va with
    | none => throughTlb tlb lease va a none
    | some (wi, w) =>
      let o := va - w.base.toNat
      let row := o / w.rowSize
      if w.rows ≤ row then .fault 4
      else
        let held := rows.find? fun r => r.lease == lease && r.win == wi && r.row == row
        let found : Except Nat RowEntry :=
          match held with
          | some r => .ok r
          | none =>
            match throughTlb tlb lease (w.table.toNat + 8 * row) (w64 (w.table.toNat + 8 * row)) none with
            | .ok p _ _ => .ok ⟨lease, wi, row, readRow p, w.table, w.version, p.addr⟩
            | .miss v => .error v
            | .fault _ => .error (w.table.toNat + 8 * row)
        match found with
        | .error v => .miss v
        | .ok r =>
          if !r.entry.getLsbD 63 then .fault 4
          else
            let t := bits r.entry 55 0 + o % w.rowSize
            if (s.remapOf lease t).isSome then .fault 6
            else if 2 ^ 56 ≤ t then .fault 3
            else (if ownBase ≤ t then s.windowPlace pos t a else throughTlb tlb lease t a none).byRow r

/-- The bytes of a value at an offset. -/
def dataBytes (x : VWord) (off n : Nat) : List Byte := (List.range n).map fun i => byteAt x (off + i)

/-- The 8 bytes of a row-table entry as the core reads them: its own unpublished bytes first (R281). -/
def State.readRow (s : State) (k ver : Nat) (sub : BitVec 12) (p : Place) : Word :=
  let byte (i : Nat) : Byte :=
    let a := p.addr + i
    let host := match p.space with | .host _ => true | _ => false
    match (s.core k).line host (a / 64) with
    | some e => if e.valid.getLsbD (a % 64) && (e.pinned || (e.ver.toNat == ver && e.subv == sub)) then byteAt e.data (a % 64)
                else s.homeByte ver sub host a
    | none => match p.space with
      | .spad => s.spad.get a
      | _ => s.homeByte ver sub host a
  w64 (leNat ((List.range 8).map byte))

/-- The stores of a task on their way to device memory: first byte and bytes of each part, oldest first. -/
def State.ownStores (s : State) (id : Nat) : List (Nat × List Byte) :=
  s.flight.flatMap fun f => match f.body with
    | .access a => if f.task == id && a.kind == .store then a.parts.filterMap fun p => match p.loc.space with
        | .mem _ => some (p.loc.addr, dataBytes a.data p.off p.size)
        | _ => none
      else []
    | _ => []

/-- A word of memory under stores that are still on their way to it, oldest first. -/
def withStores (sts : List (Nat × List Byte)) (a : Nat) (x : Word) : Word :=
  w64 (leNat (sts.foldl (fun bs st => (List.range 8).map fun i =>
    if st.1 ≤ a + i then st.2.getD (a + i - st.1) (bs.getD i 0) else bs.getD i 0) (leBytes 8 x.toNat)))

/-- Resolution for a task on its core: the core's cache, and the cluster's behind it (R278). The task sees its own stores to a
row table, also those on their way (R281). -/
def State.resolveFor (s : State) (id : Nat) (t : Task) (a : Word) : Xlate :=
  let c := s.core t.core
  let mine := s.ownStores id
  let rows := c.rows.filter fun r => !mine.any fun st => decide (r.src < st.1 + st.2.length) && decide (st.1 < r.src + 8)
  s.resolve (c.tlb ++ (s.cluster t.pos).tlb) rows
    (fun p => withStores mine p.addr (s.readRow t.core t.ver.toNat t.subv p)) t.lease t.pos a

/-- A translation joins a core's cache of 64 entries (R278). -/
def State.fillTlb (s : State) (k : Nat) (e : Tlb) : State :=
  s.onCore k fun c => { c with tlb := (e :: c.tlb).take 64 }

/-- A translation joins a cluster's cache of 2,048 entries: 256 sets of 8 ways, a translation's set by its page number
(R278; assumption log 19). The oldest of a full set goes. -/
def State.fillClusterTlb (s : State) (pos : Nat) (e : Tlb) : State :=
  let set (t : Tlb) : Nat := t.base / t.size % 256
  s.onCluster pos fun c =>
    let mates := c.tlb.filter fun t => set t == set e
    { c with tlb := e :: (if mates.length < 8 then c.tlb else c.tlb.filter fun t => set t != set e) ++
                    (if mates.length < 8 then [] else mates.take 7) }

/-- A task's address resolved with its walks made on the way, and their translations kept (R131, R278). -/
def State.resolveWalking (s : State) (id : Nat) (t : Task) (a : Word) : Nat → State × Xlate
  | 0 => (s, .fault 1)
  | n + 1 =>
    match s.resolveFor id t a with
    | .miss v =>
      match s.walkOn t.lease v with
      | (s, .leaf e base size) =>
        State.resolveWalking ((s.fillTlb t.core ⟨t.lease, base, size, e⟩).fillClusterTlb t.pos ⟨t.lease, base, size, e⟩) id t a n
      | (s, .stop _ _) => (s, .fault 1)
    | x => (s, x)

/-- Resolution for an engine of a cluster (R278). -/
def State.resolveEngine (s : State) (t : Task) (pos : Nat) (a : Word) : Xlate :=
  s.resolve (s.cluster pos).tlb [] (fun p => w64 (leNat ((List.range 8).map fun i =>
    match p.space with
    | .spad => s.spad.get (p.addr + i)
    | .host _ => s.homeByte t.ver.toNat t.subv true (p.addr + i)
    | .mem _ => s.homeByte t.ver.toNat t.subv false (p.addr + i)))) t.lease pos a

/-- What an access does, for its checks (R123). -/
inductive Use where
  | read | write
  | atomic (op : AtomicOp) (noReply : Bool)
  | tagged (changes : Bool)
  /-- translation only: CLEAN and INVAL (R131) -/
  | none
  deriving DecidableEq, Repr

/-- The access code of R269. -/
def Use.acc : Use → Nat
  | .read => 0 | .write => 1 | .atomic _ _ => 2 | .tagged _ => 2 | .none => 0

/-- The atomics that a REDUCE page admits (R123). -/
def reduceOp : AtomicOp → Bool
  | .add | .and | .or | .xor | .min | .max | .fadd => true
  | .swp | .cas | .incw | .faddb => false

/-- The scratchpad words that `n` bytes at `a` touch. -/
def wordsOf (a n : Nat) : List Nat := (List.range ((a + n + 7) / 8 - a / 8)).map fun i => (a / 8 + i) * 8

/-- The protection or attribute cause of an access at a place (R123, R268). -/
def State.forbids (s : State) (u : Use) (p : Place) (n : Nat) : Option (BitVec 8) :=
  let kSet : Bool := (wordsOf p.addr n).any fun w => s.tagK w
  match p.space, u with
  | .spad, .write => if kSet then some 0x15 else none
  | .spad, .atomic _ _ => if kSet then some 0x15 else none
  | .spad, .tagged c => if c && kSet then some 0x15 else none
  | .spad, _ => none
  | .host a, .write => if a == 1 then some 0x11 else none
  | .host _, .atomic _ _ => some 0x14
  | .host _, _ => none
  | .mem a, .write => if a == 1 then some 0x11 else if a == 4 then some 0x14 else none
  | .mem a, .atomic op noReply =>
    if a == 0 || a == 3 then none
    else if a == 4 && reduceOp op && noReply then none
    else some 0x14
  | .mem _, _ => none

/-- The first scratchpad word with K = 1 among those that `n` bytes at `a` touch (R268). -/
def State.syncWord (s : State) (a n : Nat) : Nat := ((wordsOf a n).find? fun w => s.tagK w).getD (a / 8 * 8)

/-- ATTR and HOST as PROTECTION and ATOMIC_ATTR report them (R268). -/
def attrInfo (p : Place) : Nat :=
  match p.space with
  | .mem a => a.toNat * 16
  | .host a => a.toNat * 16 + 256
  | .spad => 0

/-- A request of an access for its checks: first byte, size and lane, and the parts it performs in: address, size and
place in the value (R122). -/
structure Req where
  va : Word
  size : Nat
  lane : Nat
  parts : List (Word × Nat × Nat)
  deriving DecidableEq, Repr

/-- The last enabled byte of a request, from its first (R128). -/
def Req.span (r : Req) : Nat := r.parts.foldl (fun n p => Nat.max n ((p.1 - r.va).toNat + p.2.1)) 0

/-- Why an access does not leave issue (R279): a trap, a walk to wait for, or a debug stop. -/
inductive Stop where
  | trap (cause : BitVec 8) (addr info : Word)
  | miss (va : Nat) (addr info : Word)
  | debug (ix : Nat)
  deriving DecidableEq, Repr

/-- An access of `n` bytes that performs as one part, or as two when it crosses a line (R122). -/
def Req.plain (va : Word) (n lane off : Nat) : Req :=
  let room := 64 - va.toNat % 64
  ⟨va, n, lane, if n ≤ room then [(va, n, off)] else [(va, room, off), (va + w64 room, n - room, off + room)]⟩

/-- A 256-byte access of the enabled 4-byte parts, in aligned 8-byte parts (R122, R128). -/
def Req.vector (va : Word) (mask : Nat) : Req :=
  ⟨va, 256, 0, (List.range 32).flatMap fun j =>
    let lo := mask.testBit (2 * j)
    let hi := mask.testBit (2 * j + 1)
    if lo && hi then [(va + w64 (8 * j), 8, 8 * j)]
    else if lo then [(va + w64 (8 * j), 4, 8 * j)]
    else if hi then [(va + w64 (8 * j + 4), 4, 8 * j + 4)]
    else []⟩

/-- The access leaves the 768 KiB of the core in which it starts (R29). -/
def leavesCore (va : Word) (n : Nat) : Bool :=
  let a := va.toNat
  decide (ownBase ≤ a) && decide (a < 2 ^ 56) &&
    (let off := if windowBase ≤ a then (a - windowBase) % 2 ^ 24 else a - ownBase
     decide (off < 0x600000) && decide (0xC0000 < off % 0xC0000 + n))

/-- A lane's number and access kind as PAGE_FAULT reports them (R269), with WHY and LVL. -/
def faultInfo (lane lvl why acc : Nat) : Word := w64 (lane * 65536 + lvl * 256 + why * 16 + acc)

/-- A watchpoint matches an access kind and a byte range of a task (R426): the first byte that matches. -/
def watchHit (w : BitVec 128) (id : Nat) (acc : Nat) (va : Word) (n : Nat) : Option Nat :=
  let on := w.getLsbD 81
  let tf := w.getLsbD 95
  let len := fld w 87 82
  let lo := fld w 55 0 / 2 ^ len * 2 ^ len
  let a := va.toNat
  if on && (!tf || fld w 127 96 == id) && w.getLsbD (88 + acc) && decide (a < lo + 2 ^ len) && decide (lo < a + n)
  then some (max a lo) else none

/-- The access kind of a watchpoint (R268). -/
def Use.watch : Use → Nat
  | .read => 0 | .write => 1 | .atomic _ _ => 2 | .tagged _ => 2 | .none => 0

/-- The first element for which a function gives something. -/
def firstSome {α β : Type} (f : α → Option β) : List α → Option β
  | [] => none
  | a :: l => match f a with
    | some b => some b
    | none => firstSome f l

/-- The checks of ranks 6 to 9 for every request of an instruction, in the order of R270 and R271: alignment, then
translation of every part, then protection, then watchpoints; within a rank the causes have the order of R270, and of the
lanes that meet a cause the lowest is reported. Of several watchpoints that any of its bytes meets, the lowest-numbered is (R426).
`align` is the instruction's own alignment rule. -/
def State.check (s : State) (t : Task) (id : Nat) (u : Use) (align : Req → Option (BitVec 8)) (reqs : List Req) :
    Except Stop (List Part × List RowEntry) :=
  let fails (c : BitVec 8) (r : Req) : Bool := align r == some c || (c == 0x12 && leavesCore r.va r.span)
  let mis := firstSome (fun c => (reqs.find? (fails c)).map fun r =>
    Stop.trap c r.va (w64 (r.lane * 65536 + r.size))) [0x12, 0x13]
  match mis with
  | some x => .error x
  | none =>
    let flat := reqs.flatMap fun r => r.parts.map fun p => (r.lane, p)
    let looked := flat.map fun e => (e, s.resolveFor id t e.2.1)
    let bad := firstSome (fun (e : (Nat × Word × Nat × Nat) × Xlate) =>
      match e.2 with
      | .ok _ _ _ => none
      | .fault why => some (Stop.trap 0x10 e.1.2.1 (faultInfo e.1.1 7 why u.acc))
      | .miss v => some (Stop.miss v e.1.2.1 (faultInfo e.1.1 0 0 u.acc))) looked
    match bad with
    | some x => .error x
    | none =>
      let prot := firstSome (fun c => firstSome (fun (e : (Nat × Word × Nat × Nat) × Xlate) =>
        match e.2 with
        | .ok p _ _ =>
          if s.forbids u p e.1.2.2.1 != some c then none
          else if c == 0x15 then
            some (Stop.trap c (w64 (e.1.2.1.toNat / 8 * 8 + (s.syncWord p.addr e.1.2.2.1 - p.addr / 8 * 8))) 0)
          else some (Stop.trap c e.1.2.1 (w64 (u.acc + attrInfo p)))
        | _ => none) looked) [0x11, 0x14, 0x15]
      match prot with
      | some x => .error x
      | none =>
        let ws := (List.range 16).zip (s.lease t.lease).watch.toList
        let hit := if t.wpx || u == .none then none else
          firstSome (fun (w : Nat × BitVec 128) =>
            firstSome (fun (e : Nat × Word × Nat × Nat) =>
              (watchHit w.2 id u.watch e.2.1 e.2.2.1).map fun b => (w.1, b)) flat) ws
        match hit with
        | some (ix, b) =>
          if (s.lease t.lease).debugger then .error (.debug ix)
          else .error (.trap 0x16 (w64 b) (w64 (ix + 16 * u.watch)))
        | none =>
          .ok (looked.filterMap fun e => match e.2 with
                | .ok p _ _ => some ⟨p, e.1.2.2.1, e.1.2.2.2⟩
                | _ => none,
               looked.filterMap fun e => match e.2 with
                | .ok _ _ (some r) => some r
                | _ => none)

/-- Row entries read at an access join the core's 32 (R281). -/
def State.keepRows (s : State) (k : Nat) (rs : List RowEntry) : State :=
  s.onCore k fun c => { c with rows := rs.foldl (fun l r => if l.contains r then l else (l ++ [r]).drop (l.length + 1 - 32)) c.rows }

/-- The task has an access on its way that has not performed (R124, R304). -/
def State.unperformed (s : State) (id : Nat) : Bool :=
  s.flight.any fun f => f.task == id && (match f.body with
    | .access _ => true
    | .tagged .. => true
    | .resend .. => true
    | _ => false)

/-- A REL of the task has not completed (R144). -/
def State.releasing (s : State) (id : Nat) : Bool :=
  s.flight.any fun f => f.task == id && f.body == .release

/-- A REL of the task that came before a number has not completed: what the task sends later waits for it (R144, R300). -/
def State.behindRelease (s : State) (id upto : Nat) : Bool :=
  s.flight.any fun f => f.task == id && decide (f.id < upto) && f.body == .release

/-- Two ranges of bytes of one space meet, whatever the attributes of the pages that name them (R124, R132). -/
def meets (p : Place) (n : Nat) (q : Place) (m : Nat) : Bool :=
  p.space.kind == q.space.kind && decide (p.addr < q.addr + m) && decide (q.addr < p.addr + n)

/-- An earlier access of the same task keeps this one from performing (R124, R44): it touches the same byte, orders all
later ones (`.before`), or this one follows all earlier ones (`.after`), or an acquire point lies between (R300, R304); or a
store, an atomic or a release follows a REL (R144). `upto` is the number before which accesses count as earlier. -/
def State.heldBack (s : State) (id upto : Nat) (ord : BitVec 2) (stores : Bool) (parts : List Part) : Bool :=
  let acquired := (s.task id).acquired
  s.flight.any fun f => f.task == id && decide (f.id < upto) && (match f.body with
    | .access a => ord.getLsbD 0 || a.ord.getLsbD 1 || (acquired.any fun x => decide (f.id < x) && decide (x ≤ upto)) ||
        parts.any fun p => a.parts.any fun q => meets p.loc p.size q.loc q.size
    | .tagged _ loc _ _ _ => ord.getLsbD 0 || parts.any fun p => meets p.loc p.size loc 8
    | .resend _ loc _ _ => ord.getLsbD 0 || parts.any fun p => meets p.loc p.size loc 8
    | .release => stores
    | _ => false)

/-- The access is a store or an atomic, which follow a REL (R144). -/
def Access.changes (a : Access) : Bool :=
  match a.kind with
  | .store | .atomic _ => true
  | .load | .clean _ => false

/-- The endpoint of an access to a place by a core (R28, R290, R296): a scratchpad word's core, the core itself where its L1 holds the
line, or the home slice. -/
def State.placeEnd (s : State) (lease core : Nat) (p : Place) : Nat :=
  let at' (host : Bool) (attr : BitVec 3) : Nat :=
    if attr != 4 && ((s.core core).line host (p.addr / 64)).isSome then coreEnd core
    else sliceEnd (homeDie (s.leaseDev lease) host p.addr) (p.addr % 2 ^ 54 / 2048 % 64)
  match p.space with
  | .spad => coreEnd (coreOfKey p.addr)
  | .mem a => at' false a
  | .host a => at' true a

/-- The endpoint of an access's next part; a clean or an invalidation stays in its core. -/
def State.accessEnd (s : State) (lease core : Nat) (a : Access) : Nat :=
  match a.kind, a.parts.head? with
  | .clean _, _ => coreEnd core
  | _, some p => s.placeEnd lease core p.loc
  | _, none => coreEnd core

/-- What a task sends to one place in its own order, wherever it stands when it sends (R200, R209, R212, R214). -/
def ordered : Body' → Bool
  | .send .. | .message .. | .post .. | .spool .. => true
  | _ => false

/-- Where something on its way arrives next: the parts of an access go each to its own place. -/
def State.endNow (s : State) (f : Flight) : Nat :=
  match f.body with
  | .access a => s.accessEnd (s.task f.task).lease (s.task f.task).core a
  | _ => f.dst

/-- Something that has still to leave its source (R44, R144): its task's order holds it back. -/
def State.atSource (s : State) (f : Flight) : Bool :=
  match f.body with
  | .access a => s.heldBack f.task f.id a.ord a.changes a.parts
  | .release | .resend .. => true
  | b => ordered b && s.behindRelease f.task f.id

/-- An access that its own core serves, and its answer, cross no network. -/
def State.stays (s : State) (f : Flight) : Bool :=
  match f.body with
  | .access _ => s.endNow f == f.src
  | .value .. | .ack => f.dst == f.src
  | _ => false

/-- Flits of one source endpoint, destination endpoint and channel arrive in the order in which they were sent (R367), and so
do the sends, messages, posts and requests of one task to one place. -/
def State.first (s : State) (f : Flight) : Bool :=
  let before := s.flight.takeWhile fun g => g.id != f.id
  !(before.any fun g => g.vc == f.vc && (g.src == f.src || (g.task == f.task && ordered g.body && ordered f.body)) &&
      !s.atSource g && s.endNow g == s.endNow f) || s.stays f

/-- The flight with a number, where nothing sent before it keeps it from arriving (R367). -/
def State.arriving (s : State) (k : Nat) : Option Flight :=
  (s.flight? k).bind fun f => if s.first f then some f else none

end Sys2Proof.Machine
end

