-- ==== Sys2Proof/Machine/Trace.lean ====
section
/-! DEFINITION. Trace records, the host ring, delay accounts and monitors (R416 to R425). -/
namespace Sys2Proof.Machine

open Sys2Proof

/-- The w64 that `task.launch` reads (R21). -/
def Task.launchWord (t : Task) : Word := w64 (t.ver.toNat + t.subv.toNat <<< 16 + t.recIx.toNat <<< 28)

/-- The routing tag of a record (R418). -/
def Task.route (t : Task) : Nat :=
  match t.act with
  | .some a => a.msg.id.val
  | .none => t.subv.toNat + t.prio.toNat <<< 12 + bit t.spec <<< 15

/-- The eight words of a trace record (R416). -/
def traceWords (kind route id : Nat) (entry now launch : Word) (org : List Word) (a b : Word) : List Word :=
  [w64 (kind + (route % 65536) <<< 16 + (id % 2 ^ 32) <<< 32), w64 (bits entry 55 0), now, launch,
   w64 (bits (org.getD 0 0) 31 0 + bits (org.getD 1 0) 31 0 <<< 32),
   w64 (bits (org.getD 2 0) 31 0 + bits (org.getD 3 0) 31 0 <<< 32), a, b]

/-- A ring slot is free (R421). -/
def TraceRing.free (t : TraceRing) : Bool := decide ((t.windex - t.trp).toNat < 2 ^ bits t.tctl 20 16)

/-- One record written to the host ring, or dropped and counted (R421). -/
def State.ringPut (s : State) (lease : Nat) (ws : List Word) : State :=
  let t := (s.lease lease).trace
  if t.free then
    let a := t.tring.toNat + t.windex.toNat % 2 ^ bits t.tctl 20 16 * 64
    let s := { s with host := s.host.write a (ws.flatMap fun (w : Word) => leBytes 8 w.toNat) }
    s.onLease lease fun l => { l with trace := { l.trace with windex := l.trace.windex + 1 } }
  else
    s.onLease lease fun l => { l with trace := { l.trace with
      tdrop := if l.trace.tdrop = BitVec.allOnes 64 then l.trace.tdrop else l.trace.tdrop + 1
      pending := l.trace.pending + 1 } }

/-- A record of a lease: nothing with EN = 0 (R420); a DROPS record goes first when drops are pending (R421). -/
def State.emit (s : State) (lease : Nat) (mk : Nat → Word → Word → List Word) (kind : Nat) (a b : Word) : State :=
  let t := (s.lease lease).trace
  if !t.tctl.getLsbD 0 then s
  else
    let s :=
      if t.pending ≠ 0 && t.free then
        (s.ringPut lease (mk 4 (w64 t.pending) 0)).onLease lease fun l => { l with trace := { l.trace with pending := 0 } }
      else s
    s.ringPut lease (mk kind a b)

/-- A trace record about a task (R416). -/
def State.traceTask (s : State) (id kind : Nat) (a b : Word) : State :=
  let t := s.task id
  s.emit t.lease (fun k a b => traceWords k t.route id t.entry s.now t.launchWord t.org.toList a b) kind a b

/-- A sample saturating at the largest word. -/
def satAdd (x : Word) (n : Nat) : Word := w64 (min (x.toNat + n) (2 ^ 64 - 1))

/-- One sample taken by a monitor (R425). -/
def Monitor.take (m : Monitor) (x : Word) : Monitor :=
  let base := bits m.cfg 55 32
  let j := if x.toNat < base then 0 else Nat.min 15 ((x.toNat - base) >>> bits m.cfg 28 24)
  let h := m.hist.toList.getD (j / 4) 0
  let b := lane h 16 (j % 4)
  { m with
    min := if x.toNat < m.min.toNat then x else m.min
    max := if m.max.toNat < x.toNat then x else m.max
    cnt := satAdd m.cnt 1
    hist := Vector.ofFn fun i => if i.val = j / 4 then setLane h 16 (j % 4) (Nat.min (b + 1) 65535) else m.hist.get i }

/-- A monitor is enabled for a source, and its SCOPE passes what a core samples (R423); a unit that is no core passes no filter. -/
def Monitor.passes (m : Monitor) (src : Nat) (unit : Option Nat) : Bool :=
  m.cfg.getLsbD 63 && bits m.cfg 7 0 == src &&
    (!m.cfg.getLsbD 19 || unit.any fun k => bits m.cfg 18 16 == k % 8 && bits m.cfg 15 12 == k / 8 % 16)

/-- A sample of a source on a unit, given to each enabled monitor of the lease whose scope it passes (R423, R425). -/
def State.sampleUnit (s : State) (lease src : Nat) (unit : Option Nat) (x : Word) : State :=
  if !(s.lease lease).live then s
  else s.onLease lease fun l => { l with monitors := l.monitors.map fun m => if m.passes src unit then m.take x else m }

/-- A sample of a source on a core. -/
def State.sample (s : State) (lease src coreKey : Nat) (x : Word) : State := s.sampleUnit lease src (some coreKey) x

/-- A sample of a latency in cycles: a free value (assumption log 9). -/
def State.sampleCycles (s : State) (lease src coreKey : Nat) : State :=
  (s.freshen).sample lease src coreKey (Config.latencyCycles s.fresh)

/-- An ACCOUNT record (R417, R422). The activation that it names (R416) is the one that updated the account last (assumption log 59). -/
def State.flushAccount (s : State) (lease : Nat) (a : Account) : State :=
  let us (n : Nat) : Nat := min (n / 1000) (2 ^ 32 - 1)
  s.emit lease (fun k x y => traceWords k a.route a.last a.entry s.now a.launch [] x y) 5
    (w64 (a.sender.toNat + (a.count % 2 ^ 32) <<< 32)) (w64 (us a.transit + us a.queue <<< 32))

/-- Every delay account of a core flushed (R422). -/
def State.flushAccounts (s : State) (k : Nat) : State :=
  match (s.core k).accounts with
  | [] => s
  | l => (l.foldl (fun s a => s.flushAccount (s.cluster (k / 8)).lease a) s).onCore k fun c => { c with accounts := [] }

/-- The end of a handler activation: its delays join the sender's account, the monitors and the trace (R417, R422). -/
def State.delays (s : State) (id : Nat) : State :=
  let t := s.task id
  match t.act with
  | .none => s
  | .some a =>
    let tr := (a.msg.accepted - a.msg.sent).toNat
    let qu := (a.start - a.msg.accepted).toNat
    let ru := (s.now - a.start).toNat
    let s := s.sample t.lease 4 a.core (w64 ru)
    let s :=
      if (s.lease t.lease).trace.tctl.getLsbD 1 then
        s.traceTask id 2 (w64 (a.msg.sender.toNat + (tr % 2 ^ 32) <<< 32)) (w64 (qu % 2 ^ 32 + (ru % 2 ^ 32) <<< 32))
      else s
    let c := s.core a.core
    match c.accounts.find? fun x => x.sender == a.msg.sender with
    | some x =>
      let y : Account := ⟨x.sender, id, t.route, t.launchWord, t.entry, x.count + 1, x.transit + tr, x.queue + qu, x.run + ru, s.seq⟩
      s.onCore a.core fun c => { c with accounts := y :: c.accounts.filter fun z => z.sender != x.sender }
    | none =>
      let s :=
        if c.accounts.length < 64 then s
        else
          match c.accounts.getLast? with
          | none => s
          | some old => (s.flushAccount t.lease old).onCore a.core fun c => { c with accounts := c.accounts.dropLast }
      s.onCore a.core fun c => { c with accounts := ⟨a.msg.sender, id, t.route, t.launchWord, t.entry, 1, tr, qu, ru, s.seq⟩ :: c.accounts }

end Sys2Proof.Machine
end

