-- ==== Sys2Proof/Machine/Frame.lean ====
section
/-! DEFINITION. Areas that the device reads and writes for itself (R191, R211, R242, R257), and the frame image (R22 to
R26, R338). -/
namespace Sys2Proof.Machine

open Sys2Proof

/-- An address resolved at once, table walks included: for uses that are no translation fault (R191, R211, R257). -/
def State.resolveWith (s : State) (lease pos : Nat) (a : Word) : Nat → List Tlb → Xlate
  | 0, _ => .fault 1
  | n + 1, tlb =>
    match s.resolve tlb [] (fun p => w64 (leNat ((List.range 8).map fun i => match p.space with
        | .spad => s.spad.get (p.addr + i)
        | .host _ => s.host.get (p.addr + i)
        | .mem _ => s.mem.get (p.addr + i)))) lease pos a with
    | .miss v =>
      match s.walk lease v with
      | .leaf e base size => State.resolveWith s lease pos a n (⟨lease, base, size, e⟩ :: tlb)
      | .stop lvl bad => .fault (lvl * 16 + (if bad then 5 else 1))
    | x => x

/-- An address resolved at once for a lease, as seen from a cluster. -/
def State.resolveNow (s : State) (lease pos : Nat) (a : Word) : Xlate := s.resolveWith lease pos a 4 []

/-- The address translates. -/
def State.translates (s : State) (lease pos : Nat) (a : Word) : Bool :=
  match s.resolveNow lease pos a with
  | .ok .. => true
  | _ => false

/-- The bytes from an address of an area to the end of its page, or of its row in a remap window (R276, R281). -/
def State.pieceLen (s : State) (lease va : Nat) : Nat :=
  let n := if (s.remapOf lease va).isSome then 256 else 65536
  n - va % n

/-- The device writes bytes within one page or row of an area: into memory and every launch's snapshot, past every L1; or into host
memory or a scratchpad, where the area lies there. -/
def State.putPiece (s : State) (lease : Nat) (va : Nat) (bs : List Byte) : State :=
  let away (host : Bool) (a : Nat) (e : L1Line) : Bool :=
    e.host != host || decide (e.line * 64 + 64 ≤ a) || decide (a + bs.length ≤ e.line * 64)
  match s.resolveNow lease 0 (w64 va) with
  | .ok ⟨.spad, a, _, _⟩ _ _ => { s with spad := s.spad.write a bs }
  | .ok ⟨.host _, a, _, _⟩ _ _ =>
    { s with
      host := s.host.write a bs
      launches := s.launches.map fun (e : Nat × Launch) => (e.1, { e.2 with hostBase := e.2.hostBase.write a bs })
      cores := s.cores.map fun e => (e.1, { e.2 with l1 := e.2.l1.filter (away true a) }) }
  | .ok ⟨.mem _, a, _, _⟩ _ _ =>
    { s with
      mem := s.mem.write a bs
      launches := s.launches.map fun (e : Nat × Launch) => (e.1, { e.2 with base := e.2.base.write a bs })
      cores := s.cores.map fun e => (e.1, { e.2 with l1 := e.2.l1.filter (away false a) }) }
  | _ => s

/-- Bytes put piece by piece. -/
def State.putPieces (lease : Nat) : Nat → Nat → List Byte → State → State
  | 0, _, _, s => s
  | n + 1, va, bs, s =>
    if bs.isEmpty then s
    else
      let k := s.pieceLen lease va
      State.putPieces lease n (va + k) (bs.drop k) (s.putPiece lease va (bs.take k))

/-- The device writes bytes of a job-virtual area that firmware mapped (R242, R284), each page and row where it lies. -/
def State.devicePut (s : State) (lease : Nat) (va : Nat) (bs : List Byte) : State :=
  State.putPieces lease (bs.length / 256 + 2) va bs s

/-- Bytes of an area read piece by piece. -/
def State.getPieces (s : State) (lease : Nat) : Nat → Nat → Nat → Option (List Byte)
  | 0, _, _ => some []
  | n + 1, va, len =>
    if len = 0 then some []
    else
      let k := Nat.min len (s.pieceLen lease va)
      match s.resolveNow lease 0 (w64 va) with
      | .ok ⟨.mem _, a, _, _⟩ _ _ => (s.getPieces lease n (va + k) (len - k)).map ((s.mem.slice a k).bytes a k ++ ·)
      | _ => none

/-- Bytes of a job-virtual area as device memory holds them; none where a part is not mapped there. -/
def State.deviceGet (s : State) (lease va n : Nat) : Option (List Byte) := s.getPieces lease (n / 256 + 2) va n

/-- The spans of device memory in which an area lies, page by page: first byte and size. -/
def State.areaSpans (s : State) (lease a n : Nat) : List (Nat × Nat) :=
  (List.range ((a + n + 65535) / 65536 - a / 65536)).filterMap fun i =>
    let lo := Nat.max a ((a / 65536 + i) * 65536)
    let hi := Nat.min (a + n) ((a / 65536 + i + 1) * 65536)
    match s.resolveNow lease 0 (w64 lo) with
    | .ok ⟨.mem _, p, _, _⟩ _ _ => if lo < hi then some (p, hi - lo) else none
    | _ => none

/-- The number of frame records of a lease (R242): one for each index of its Spool range, one for each core. -/
def Lease.frameCount (l : Lease) : Nat := l.spoolCount + 32

/-- The address of a 64-byte block of the frame area, beyond the frame records (assumption log 24). -/
def Lease.blockAddr (l : Lease) (n : Nat) : Nat := l.frameArea + l.frameCount * 6144 + n * 64

/-- A free block of a lease's frame area taken: the state, and its address. -/
def State.takeBlock (s : State) (ix : Nat) : State × Nat :=
  let l := s.lease ix
  let h := (Config.frameBlockHint s.fresh).toNat
  let n := (((List.range (l.blocks.length + 1)).map (h + ·)).find? fun i => !l.blocks.contains i).getD h
  (s.freshen.onLease ix fun l => { l with blocks := n :: l.blocks }, l.blockAddr n)

/-- Blocks added to a list until it has `n` more. -/
def State.takeBlocks (s : State) (ix : Nat) : Nat → List Nat → State × List Nat
  | 0, bs => (s, bs)
  | n + 1, bs =>
    let r := s.takeBlock ix
    State.takeBlocks r.1 ix n (bs ++ [r.2])

/-- Blocks given back. -/
def State.dropBlocks (s : State) (ix : Nat) (bs : List Nat) : State :=
  if bs.isEmpty then s
  else s.onLease ix fun l => { l with blocks := l.blocks.filter fun n => !bs.contains (l.blockAddr n) }

/-- A list written to its blocks (R232, R242): 56 bytes of items of `size` bytes, then the address of the next block. -/
def State.putList (s : State) (lease size : Nat) : List Nat → List Nat → State
  | [], _ => s
  | b :: bs, xs =>
    let items := (xs.take (56 / size)).flatMap (leBytes size)
    let s := s.devicePut lease b (items ++ List.replicate (56 - items.length) 0 ++ leBytes 8 (bs.headD 0))
    State.putList s lease size bs (xs.drop (56 / size))

/-- A list of items of `size` bytes kept in blocks, with blocks added or given back as its length asks. -/
def State.keepList (s : State) (lease size : Nat) (xs blocks : List Nat) : State × List Nat :=
  let n := (xs.length + 56 / size - 1) / (56 / size)
  let r := s.takeBlocks lease (n - blocks.length) (blocks.take n)
  ((r.1.dropBlocks lease (blocks.drop n)).putList lease size r.2 xs, r.2)

/-- The lease whose range holds an index of a die (R230). -/
def State.leaseOfEntry (s : State) (key : Nat) : Option Nat :=
  (s.leases.find? fun e => e.2.live && e.2.positions.any (fun p => dieOf p == key / 65536) &&
    decide (e.2.spoolFirst ≤ key % 65536) && decide (key % 65536 < e.2.spoolFirst + e.2.spoolCount)).map (·.1)

/-- The waiters of an entry changed, and with them its waiter-list blocks (R232). -/
def State.setWaiters (s : State) (key : Nat) (ws : List Nat) : State :=
  match s.leaseOfEntry key with
  | none => s.setEntry key { s.entry key with waiters := ws }
  | some ix =>
    let r := s.keepList ix 4 (ws.map (· % 2 ^ 32)) (s.entry key).waitBlocks
    r.1.setEntry key { r.1.entry key with waiters := ws, waitBlocks := r.2 }

/-- A Spool state as FSTAT codes it (R203). -/
def FutureState.code : FutureState → Nat
  | .free => 0 | .pending => 1 | .waited => 2 | .resolved => 3 | .poisoned => 4 | .cancelled => 5

/-- The body of an entry (R232). -/
def Entry.body (e : Entry) : List Byte :=
  let w0 := match e.state with
    | .resolved => e.value.toNat
    | .poisoned => e.cause.toNat
    | .waited => e.waitBlocks.headD 0
    | _ => 0
  let w2 := e.bound % 2 ^ 32 + bit e.live <<< 32 + bit e.notask <<< 33 + bit e.grid <<< 34 + bit e.fos <<< 35 + e.members <<< 36
  let w3 := e.state.code + e.left.toNat <<< 4 + e.cause.toNat <<< 16 + e.settler.toNat <<< 24 +
    e.leftAtSettle.toNat <<< 36 + e.ver.toNat <<< 48
  leBytes 8 w0 ++ leBytes 8 (bits e.record 55 0) ++ leBytes 8 w2 ++ leBytes 8 w3

/-- The place of an entry's body in its lease's spill area (R233). -/
def Lease.spillPlace (l : Lease) (key : Nat) : Nat := l.spillArea + (key % 65536 - l.spoolFirst) * 32

/-- A change of a SPILLED entry is made in the spill area (R235). -/
def State.syncSpill (s : State) (key : Nat) : State :=
  if !(s.entry key).spilled then s
  else match s.leaseOfEntry key with
    | some ix => { s with mem := s.mem.write ((s.lease ix).spillPlace key) (s.entry key).body }
    | none => s

/-- The lease in whose frame area a task's record lies (R242): that of its Spool entry or member index; of a handler
activation, its own. -/
def State.recordLease (s : State) (id : Nat) : Nat :=
  let t := s.task id
  let key : Option Nat := if t.act.isSome then none else match t.member with
    | some k => some k
    | none => some (bits t.self 63 52 * 65536 + bits t.self 51 36)
  (key.bind s.leaseOfEntry).getD t.lease

/-- A register's value as a frame image holds it (R26): zero where the register is empty. -/
def Task.framed (t : Task) (r : Reg) : Nat := if t.full r then (t.value r).toNat else 0

/-- The code of a Loom state in a state word (R25). -/
def Loom.code : Loom → Nat
  | .queued | .prefetching | .ready => 1
  | .running => 2
  | .waiting => 3
  | .parked => 4
  | .faulted => 5
  | .retiring => 6

/-- The state word (R25). -/
def State.stateWord (s : State) (id : Nat) : Nat :=
  let t := s.task id
  t.loom.code + bit t.inh * 2 ^ 4 + bit t.spec * 2 ^ 5 + bit t.stay * 2 ^ 6 + bit (s.holds id && t.slot.isSome) * 2 ^ 7 +
    t.prio.toNat * 2 ^ 8 + bit t.canp * 2 ^ 10 + t.subv.toNat * 2 ^ 12

/-- The resume word (R338). -/
def State.resumeWord (s : State) (id : Nat) : Nat :=
  let t := s.task id
  bit t.wdr + 2 * bit t.wpx + (s.commands.filter fun c => c.task == id).length % 2 ^ 16 * 2 ^ 48

/-- The child-list word (R24, R242): the address of the first block, or 0. -/
def State.childList (s : State) (id : Nat) : Word := w64 ((s.task id).childBlocks.headD 0)

/-- The guard and presence block (R23). -/
def Task.guardBlock (t : Task) : List Byte :=
  leBytes 8 (t.regs.sf.toNat ||| 1) ++ leBytes 2 t.regs.vf.toNat ++ leBytes 1 t.regs.pf.toNat ++ leBytes 1 t.regs.qf.toNat ++
    leBytes 1 (t.regs.q &&& t.regs.qf).toNat ++ List.replicate 51 0

/-- The control block (R24). -/
def State.controlBlock (s : State) (id : Nat) : List Byte :=
  let t := s.task id
  let words : List Nat :=
    [t.pc.toNat, s.stateWord id, t.trapCause.toNat, t.trapPc.toNat, t.trapAddr.toNat, t.trapInfo.toNat, t.arg.toNat, t.self.toNat,
      t.launchWord.toNat, (identWord id).toNat] ++
    t.org.toList.map BitVec.toNat ++ t.ext.toList.map BitVec.toNat ++
    [t.fpMode.toNat, t.fpSeed.toNat, s.resumeWord id, s.unacked id, t.waitObj.toNat, t.parent.toNat, (s.childList id).toNat]
  words.flatMap (leBytes 8) ++ List.replicate 88 0

/-- The frame image of a task (R22, R26): 5,120 bytes. -/
def State.frameImage (s : State) (id : Nat) : List Byte :=
  let t := s.task id
  ((List.finRange 64).flatMap fun n => leBytes 8 (t.framed (.s n))) ++
    ((List.finRange 16).flatMap fun n => leBytes 256 (t.framed (.v n))) ++
    ((List.finRange 8).flatMap fun n => leBytes 8 (t.framed (.p n))) ++
    t.guardBlock ++ s.controlBlock id ++ List.replicate 96 0

/-- A core-local producer of the task still owes a register its value (R26): a fixed-latency result, or a load or an atomic
with a reply. No frame is written meanwhile. -/
def State.localPending (s : State) (id : Nat) : Bool :=
  !(s.task id).fixed.isEmpty || s.flight.any fun f => f.task == id && (match f.body with
    | .access a => a.kind != .store && a.dst.any (· != .s 0)
    | .value .. => true
    | _ => false)

/-- A task's frame written to its frame record (R242), with the child-list word. -/
def State.saveFrame (s : State) (id : Nat) : State :=
  let s := s.onTask id fun t => { t with inRecord := true }
  let t := s.task id
  let ix := s.recordLease id
  (s.devicePut ix t.record (s.frameImage id)).devicePut ix (t.record + 0x1488) (leBytes 8 (s.childList id).toNat)

/-- What follows the frame image in a task's record is zero: no arguments, no child (R242). -/
def State.clearRecord (s : State) (id : Nat) : State :=
  s.devicePut (s.recordLease id) ((s.task id).record + 0x1400) (List.replicate 1024 0)

/-- The record of a task outside a slot follows a change of the task (R252). -/
def State.refreshFrame (s : State) (id : Nat) : State := if (s.task id).inRecord && (s.task id).live then s.saveFrame id else s

/-- The children of a task, and with them its child-list blocks (R242). -/
def State.setChildren (s : State) (id : Nat) (hs : List Word) : State :=
  let t := s.task id
  let r := s.keepList t.lease 8 (hs.map BitVec.toNat) t.childBlocks
  (r.1.onTask id fun t => { t with children := hs, childBlocks := r.2 }).devicePut (s.recordLease id) (t.record + 0x1488)
    (leBytes 8 (r.2.headD 0))

/-- The bytes of a task's frame record (R242); none where they are not in device memory. -/
def State.frameBytes (s : State) (id : Nat) : Option (List Byte) := s.deviceGet (s.recordLease id) (s.task id).record 5120

/-- The number in `n` bytes of a frame image. -/
def frameNum (bs : List Byte) (off n : Nat) : Nat := leNat ((bs.drop off).take n)

/-- A frame image is well formed (R27): reserved bytes zero, SF bit 0 set, a STATE that is written, and outside a core
context ACC = 0. -/
def frameOk (bs : List Byte) (inCore : Bool) : Bool :=
  let st := frameNum bs 0x1288 8
  frameNum bs 0x124D 51 == 0 && frameNum bs 0x1348 88 == 0 && frameNum bs 0x13A0 96 == 0 && frameNum bs 0x1240 8 % 2 == 1 &&
    st / 2 ^ 24 == 0 && !st.testBit 11 && decide (1 ≤ st % 16) && decide (st % 16 ≤ 6) &&
    (inCore || !st.testBit 7) && frameNum bs 0x1320 8 / 4 % 2 ^ 46 == 0

/-- The register files of a frame image (R22, R23). -/
def Regs.ofFrame (bs : List Byte) : Regs where
  s := Vector.ofFn fun n : Fin 64 => w64 (frameNum bs (8 * n.val) 8)
  v := Vector.ofFn fun n : Fin 16 => BitVec.ofNat 2048 (frameNum bs (0x200 + 256 * n.val) 256)
  p := Vector.ofFn fun n : Fin 8 => w64 (frameNum bs (0x1200 + 8 * n.val) 8)
  q := BitVec.ofNat 8 (frameNum bs 0x124C 1)
  sf := w64 (frameNum bs 0x1240 8)
  vf := BitVec.ofNat 16 (frameNum bs 0x1248 2)
  pf := BitVec.ofNat 8 (frameNum bs 0x124A 1)
  qf := BitVec.ofNat 8 (frameNum bs 0x124B 1)

/-- A task as its frame image gives it (R22 to R25, R338). -/
def Task.ofFrame (t : Task) (bs : List Byte) : Task :=
  let word (off : Nat) : Word := w64 (frameNum bs off 8)
  let st := frameNum bs 0x1288 8
  { t with
    regs := Regs.ofFrame bs, pc := word 0x1280, inh := st.testBit 4, spec := st.testBit 5, stay := st.testBit 6
    prio := BitVec.ofNat 2 (st / 2 ^ 8), canp := st.testBit 10, trapCause := word 0x1290, trapPc := word 0x1298
    trapAddr := word 0x12A0, trapInfo := word 0x12A8, arg := word 0x12B0, self := word 0x12B8
    org := Vector.ofFn fun i : Fin 4 => word (0x12D0 + 8 * i.val)
    ext := Vector.ofFn fun i : Fin 4 => word (0x12F0 + 8 * i.val)
    fpMode := BitVec.ofNat 3 (frameNum bs 0x1310 8), fpSeed := word 0x1318, wdr := (word 0x1320).getLsbD 0
    wpx := (word 0x1320).getLsbD 1, parent := word 0x1338 }

/-- The frame that a dispatch loads (R244): none when it is malformed, for then the task is not dispatched (R27). -/
def State.loadFrame (s : State) (id : Nat) : Option Task :=
  let t := s.task id
  match if t.inRecord then s.frameBytes id else none with
  | some bs => if frameOk bs false then some { t.ofFrame bs with inRecord := false } else none
  | none => some { t with inRecord := false }

end Sys2Proof.Machine
end

