-- ==== Sys2Proof/Machine/Loom.lean ====
section
/-! DEFINITION. What the Loom and the core do with a whole task: filling its registers, taking it out of its slot,
sub-versions, and the end of a task in each of its ways (R15, R50, R202, R241 to R251, R322). -/
namespace Sys2Proof.Machine

open Sys2Proof

/-- A held command takes the value with which its guard first becomes full (R50). -/
def Command.guardFills (id : Nat) (q : Fin 8) (v : Bool) (c : Command) : Command :=
  match c.held, c.heldValue with
  | some (neg, g), none => if c.task == id && g == q then { c with heldValue := some (v != neg) } else c
  | _, _ => c

/-- A function applied to every queued command of the job. -/
def State.mapCommands (s : State) (f : Command → Command) : State :=
  { s with
    clusters := s.clusters.map fun e => (e.1, { e.2 with jobs := e.2.jobs.map f, thresher := e.2.thresher.map f })
    cores := s.cores.map fun e => (e.1, { e.2 with queue := e.2.queue.map f }) }

/-- The commands of the job that a test keeps; a channel whose command goes is free. -/
def State.keepCommands (s : State) (p : Command → Bool) : State :=
  { s with
    clusters := s.clusters.map fun e =>
      let js := e.2.jobs.filter p
      (e.1, { e.2 with
        jobs := js
        thresher := e.2.thresher.filter p
        channels := e.2.channels.map fun ch => ch.bind fun k => if js.any (fun c => c.id == k) then some k else none })
    cores := s.cores.map fun e => (e.1, { e.2 with queue := e.2.queue.filter p }) }

/-- A register of a task written and full (R15); a guard that fills decides the commands held on it (R50). -/
def State.fillReg (s : State) (id : Nat) (r : Reg) (x : VWord) : State :=
  let s' := s.onTask id fun t => t.write r x
  match r with
  | .q n => s'.mapCommands (Command.guardFills id n (x.getLsbD 0))
  | _ => s'

/-- A value that arrives for a task, in its frame record too when the task is out of its slot (R252, R254). -/
def State.landReg (s : State) (id : Nat) (r : Reg) (x : VWord) : State := (s.fillReg id r x).refreshFrame id

/-- A 64-bit value put into a register of the issuing task. -/
def State.put (s : State) (r : Reg) (x : Word) : State := s.fillReg s.cur r (x.setWidth 2048)

/-- A vector value put into a register of the issuing task. -/
def State.putV (s : State) (r : Reg) (x : VWord) : State := s.fillReg s.cur r x

/-- A guard of the issuing task set. -/
def State.putQ (s : State) (r : Reg) (b : Bool) : State := s.fillReg s.cur r (if b then 1 else 0)

/-- The destination of the issuing task empty: a long-latency producer has issued (R15). -/
def State.emptyDst (s : State) (r : Reg) : State := s.onMe fun t => t.clear r

/-- A sub-version's state in its launch (R202, R322). -/
def State.subState (s : State) (ver : Nat) (sub : BitVec 12) : Option SubvState :=
  (s.launch? ver).bind fun l => l.subvs.find sub.toNat

/-- A folded REDUCE record joins the launch's own of its location and kind, or becomes it (R321, R322). -/
def Launch.foldRecord (l : Launch) (r : ReduceRec) : Launch :=
  if l.reduce.any fun x => x.same r && x.subv == 0 then
    { l with
      reduce := listUpdate (fun x => x.same r && x.subv == 0) (fun x => x.join r) l.reduce
      charge := l.charge - reduceCharge r.op r.bytes }
  else { l with reduce := l.reduce ++ [r] }

/-- Stores and atomics still on their way for a task that ended with its writes void do nothing to versioned memory when they
arrive (R286, R306, R319); scratchpad words and pinned windows are not versioned. -/
def State.dropStores (s : State) (mine : Task → Bool) : State :=
  let stays (p : Part) : Bool := match p.loc.space with
    | .spad => true
    | .mem _ => s.pinnedAt p.loc.addr
    | .host _ => false
  { s with flight := s.flight.map fun f => match f.body with
      | .access a => match a.kind with
        | .store | .atomic _ => if mine (s.task f.task) then { f with body := .access { a with parts := a.parts.filter stays } } else f
        | _ => f
      | _ => f }

/-- The bodies of a launch's spilled entries follow a change of them (R235). -/
def State.syncSpills (s : State) (ver : Nat) : State :=
  let l : List (Nat × Entry) := s.spool.filter fun (e : Nat × Entry) => e.2.spilled && e.2.ver.toNat == ver
  l.foldl (fun (s : State) e => s.syncSpill e.1) s

/-- Every COHERENT line of a launch's view leaves the L1 caches, its dirty bytes at their home (R296). -/
def State.unlistView (s : State) (ver : Nat) : State :=
  s.cores.foldl (fun s e => s.sweep e.1 true fun x => x.attr == 3 && x.ver.toNat == ver && !x.pinned) s

/-- A fold: the sub-version's entries, records, settlements and L1 bytes become the launch's own (R322, R306). The COHERENT
lines of the launch's view go, so that every later read finds the folded bytes (R303), and a slot that a basting point keeps
is copied before it changes (R348). -/
def State.fold (s : State) (ver : Nat) (sub : BitVec 12) : State :=
  if sub = 0 then s
  else
    let s := (s.unlistView ver).onLaunch ver fun l =>
      let mine := l.shadow.filter fun e => e.subv == sub
      let rest : Launch := { l with shadow := l.shadow.filter fun e => e.subv != sub }
      let l := mine.foldl (fun (l : Launch) e =>
        let own := l.slot e.host e.granule 0
        let old := own.getD { e with subv := 0, rd := false, wr := false, reduce := false, slot := none, bytes := [] }
        let both := old.wr && e.wr
        let l := l.setSlot { old with
          rd := old.rd || e.rd
          wr := old.wr || e.wr
          reduce := old.reduce || e.reduce
          slot := if old.slot.isSome then old.slot else e.slot
          saved := if own.isSome && old.be && e.wr && old.saved.isNone then some old.bytes else old.saved
          bytes := e.bytes.foldl (fun m b => m.put b.1 b.2) old.bytes }
        if both then { l with charge := l.charge - 2048 } else l) rest
      let l := (l.reduce.filter fun r => r.subv == sub).foldl (fun (l : Launch) r => l.foldRecord { r with subv := 0 })
        { l with reduce := l.reduce.filter fun r => r.subv != sub }
      { l with
        observed := l.observed.filter fun o => o.1 != sub
        subvs := l.subvs.put sub.toNat .folded }
    let mine (t : Task) : Bool := t.ver.toNat == ver && t.subv == sub
    let ours (e : Entry) : Entry :=
      let e := if e.ver.toNat == ver && e.settler == sub then { e with settler := 0 } else e
      if e.ver.toNat == ver && e.bsub == sub then { e with bsub := 0, folded := true } else e
    let folded := (s.tasks.filter fun e => mine e.2).map (·.1)
    let s : State := { s with
      tasks := s.tasks.map fun e => (e.1, if mine e.2 then { e.2 with subv := 0 } else e.2)
      cores := s.cores.map fun e => (e.1, { e.2 with
        l1 := e.2.l1.map fun x => if x.ver.toNat == ver && x.subv == sub then { x with subv := 0 } else x })
      ways := s.ways.map fun w => if w.tag == tagNum ver sub then { w with tag := tagNum ver 0 } else w
      spool := s.spool.map fun e => (e.1, ours e.2) }
    (folded.foldl State.refreshFrame s).syncSpills ver

/-- The cancels that withdrawn settlements cause (R240): every speculative task of another sub-version that received
one, of an entry that stands or of one that it freed. -/
def withdrawnObservers (s : State) (ver : Nat) (sub : BitVec 12) : List Nat :=
  let standing := s.spool.flatMap fun e =>
    if e.2.ver.toNat == ver && e.2.settler == sub && (e.2.state == .resolved || e.2.state == .poisoned)
    then e.2.observers else []
  let freed := match s.launch? ver with
    | some l => (l.observed.filter fun o => o.1 == sub).map (·.2)
    | none => []
  ((standing ++ freed).filter fun o =>
    (s.task o).live && (s.task o).ver.toNat == ver && (s.task o).spec && (s.task o).subv != sub).eraseDups

/-- A settlement made by a discarded sub-version is withdrawn (R240); its own tasks' entries note the discard (R202). -/
def Entry.withdraw (ver : Nat) (sub : BitVec 12) (e : Entry) : Entry :=
  let e := if e.ver.toNat == ver && e.bsub == sub then { e with bsub := 0, dropped := true } else e
  if e.ver.toNat == ver && e.settler == sub && (e.state == .resolved || e.state == .poisoned) then
    { e with
      state := if e.waiters.isEmpty then .pending else .waited
      left := e.leftAtSettle, value := 0, record := 0, cause := 0, settler := 0, settlerTask := none, observers := [] }
  else e

/-- What a sub-version has written and read is gone (R322, R306): its entries, slots, records, lines and slice granules. -/
def State.eraseSub (s : State) (ver : Nat) (sub : BitVec 12) : State :=
  let s := s.onLaunch ver fun l =>
    let freed := (l.shadow.filter fun e => e.subv == sub && e.wr).length * 2048 +
      (l.reduce.filter fun r => r.subv == sub).foldl (fun n r => n + reduceCharge r.op r.bytes) 0
    { l with
      shadow := l.shadow.filter fun e => e.subv != sub
      reduce := l.reduce.filter fun r => r.subv != sub
      charge := l.charge - freed }
  State.freeWays { s with cores := s.cores.map fun e => (e.1, { e.2 with
    l1 := e.2.l1.filter fun x => !(x.ver.toNat == ver && x.subv == sub && !x.pinned) }) } fun n => n == tagNum ver sub - 1

/-- A discard: the sub-version's entries, slots, records and dirty bytes are freed and its settlements withdrawn (R322,
R240, R306). -/
def State.discard (s : State) (ver : Nat) (sub : BitVec 12) : State :=
  if sub = 0 then s
  else
    let watchers := withdrawnObservers s ver sub
    let s := (s.eraseSub ver sub).onLaunch ver fun l =>
      { l with
        observed := l.observed.filter fun o => o.1 != sub
        subvs := l.subvs.put sub.toNat .discarded }
    let s : State := { s with spool := s.spool.map fun e => (e.1, e.2.withdraw ver sub) }
    let s := (s.syncSpills ver).dropStores fun t => !t.live && t.ver.toNat == ver && t.subv == sub
    watchers.foldl (fun s o => s.fly o (loomEnd (s.task o).pos) (loomEnd (s.task o).pos) 2 (.cancel o)) s

/-- The Loom queues a task as READY at its priority (R243). -/
def State.ready (s : State) (id : Nat) : State :=
  let s' := s.onTask id fun t =>
    { t with loom := .ready, wait := .no, slot := none, stamp := s.seq, agedAt := s.now, waitObj := 0, waitOn := [] }
  { s' with seq := s.seq + 1 }.refreshFrame id

/-- The task leaves its slot for a wait outside it (R246); its frame is written to its record (R242). -/
def State.leave (s : State) (id : Nat) (l : Loom) (w : Wait) (obj : Word) : State :=
  let s' := s.onTask id fun t => { t with loom := l, wait := w, slot := none, waitObj := obj, stamp := s.seq }
  { s' with seq := s.seq + 1 }.saveFrame id

/-- The statuses that carry an address (R146). -/
def hasAddress (status : BitVec 8) : Bool :=
  status == 0x10 || status == 0x11 || status == 0x12 || status == 0x13 || status == 0x14 || status == 0x15 || status == 0x40

/-- A token word (R146): the status and, by its kind, bits [55:8] of an address or the number of bytes written. -/
def tokenWord (status : BitVec 8) (info : Nat) : Word :=
  let x := if hasAddress status then info / 256 % 2 ^ 48 else info % 2 ^ 48
  w64 (status.toNat + x <<< 16)

/-- The MMA that runs on a slice (R174). -/
def Core.running (c : Core) : Option Command := c.queue.find? fun x => x.op == .mma && x.started

/-- A command's token written, where it has one, and full; its first read is an acquire point (R146, R298). -/
def State.writeToken (s : State) (id : Nat) (dst : Reg) (w : Word) : State :=
  if dst = .s 0 || !(s.task id).live then s
  else (s.landReg id dst (w.setWidth 2048)).onTask id fun t => { t with touched := dst :: t.touched }

/-- An engine command of a recorded launch is a chunk, which ends when its token is written (R345). -/
def State.endChunk (s : State) (id ordinal : Nat) : State :=
  if s.recorded id then s.onTask id fun t => { t with ended := t.ended ++ [ordinal] } else s

/-- A member of a gang that has dissolved (R177, R182): its running MMA ends GANG_BROKEN with the rows applied. -/
def State.breakMember (s : State) (k : Nat) : State :=
  let r := (s.core k).running
  let s := s.onCore k fun c => { c with broken := true, queue := c.queue.filter fun x => !(x.op == .mma && x.started) }
  match r with
  | some c => (s.endChunk c.task c.ordinal).writeToken c.task c.dst (tokenWord 0x8A c.progress)
  | none => s

/-- The other cores of a core's gang, when it has not dissolved (R177). -/
def State.gangMates (s : State) (k : Nat) : List Nat :=
  let c := s.core k
  ((maskList 8 c.gang.toNat).map (k / 8 * 8 + ·)).filter fun j =>
    j != k && !c.broken && (s.core j).holder.isSome && (s.core j).gang == c.gang && !(s.core j).broken

/-- The accumulators of a core released and marked empty (R19); its gang dissolves (R177). -/
def State.releaseAcc (s : State) (k : Nat) : State :=
  let s := (s.gangMates k).foldl State.breakMember s
  let e := s.fresh
  (s.freshen).onCore k fun c =>
    { c with holder := none, release := false, acc := Vector.replicate 2 (Acc.fresh e), buf := Vector.replicate 2 none
             gang := 0, gangStep := 0, broken := false }

/-- A task is on no entry's waiter list any more (R231, R249). -/
def State.unlist (s : State) (id : Nat) : State :=
  let on : List (Nat × Entry) := s.spool.filter fun (e : Nat × Entry) => e.2.waiters.contains id
  on.foldl (fun (s : State) e =>
    let ws := e.2.waiters.filter fun i => i != id
    let x := s.entry e.1
    (s.setEntry e.1 { x with state := if x.state == .waited && ws.isEmpty then .pending else x.state }).setWaiters e.1 ws) s

/-- A withdrawn wait leaves a bank, a node or an arm queue (R136, R218, R359). -/
def State.unwait (s : State) (id : Nat) : State :=
  State.unlist (id := id) { s with
    bank := s.bank.filter fun w => w.task != id
    flight := s.flight.filter fun f => !(f.task == id && (match f.body with
      | .tagged .. => true
      | .resend .. => true
      | .nodeWait _ _ (.task _ _ (some _)) => true
      | .arrive _ .barw _ => true
      | _ => false))
    nodes := s.nodes.map fun e => (e.1, { e.2 with
      waiters := e.2.waiters.filter fun w => match w.client with
        | .task i _ (some _) => i != id
        | _ => true
      held := e.2.held.filter fun h => match h with
        | .barw (.task i _ _) => i != id
        | _ => true })
    clusters := s.clusters.map fun e => (e.1, { e.2 with armWaiters := e.2.armWaiters.filter fun i => i != id }) }

/-- Firmware and the walkers let go of a task that ends and of commands that are gone (R249, R280): a fault record without a requester is abandoned. -/
def State.abandonFaults (s : State) (id : Nat) : State :=
  let other : Requester → Bool
    | .task i _ _ => i != id
    | .fetch i _ _ => i != id
    | .command _ k _ => s.commands.any fun c => c.id == k
  let cut (w : Walk) : Walk := { w with who := w.who.filter other }
  { s with walks := s.walks.map cut, faults := (s.faults.map cut).filter fun w => !w.who.isEmpty }

/-- What the Loom releases of a task that ends (R243, R254, R336, R363): tile buffers, arms, its forwarding entry and its
permits, whose unused counts return. -/
def State.releaseHome (s : State) (id : Nat) : State :=
  let home := id / 65536
  let mine := (s.cluster home).permits.filter fun p => p.idx == id
  let s := { s with
    clusters := s.clusters.map fun e => (e.1, { e.2 with
      tiles := e.2.tiles.filter fun b => b.1 != id
      arms := if e.1 == home then e.2.arms.filter (fun a => a.1 != id % 65536) else e.2.arms
      permits := if e.1 == home then e.2.permits.filter (fun p => p.idx != id) else e.2.permits
      forward := e.2.forward.drop id }) }
  mine.foldl (fun s p => if p.count = 0 then s else s.fly id (copyEnd home) (coreEnd p.granter) 0 (.permitReturn p.granter p.count)) s

/-- Every live child on the child list of a task that retires CANCELLED or POISONED is cancelled (R250). -/
def State.cancelChildren (s : State) (id : Nat) : State :=
  let t := s.task id
  (s.liveTasks.filter fun e => t.children.contains e.2.self && e.2.self != 0 && e.1 != id).foldl
    (fun s e => s.fly e.1 (loomEnd t.pos) (loomEnd e.2.pos) 2 (.cancel e.1)) s

/-- The settlement of a task's own entry sent to its home Spool, as one flit (R200, R204, R249). -/
def State.settleOwn (s : State) (id : Nat) (op : SpoolOp) : State :=
  let t := s.task id
  if t.act.isSome || t.self = 0 then s
  else s.fly id (loomEnd t.pos) (spoolEnd (bits t.self 63 52)) 2 (.spool op t.self (.s 0))

/-- A task's pending MGANG is withdrawn, on whichever core it asked for it (R176). -/
def State.withdrawGang (s : State) (id : Nat) : State :=
  { s with cores := s.cores.map fun e => (e.1, { e.2 with
      pending := match e.2.pending with
        | some (i, m, d) => if i == id then none else some (i, m, d)
        | none => none }) }

/-- The end of a task is a release point for the settlement of its entry (R204, R298, R299): its PHASED bytes are published,
where it ran last, after its accesses in flight when there are any; the settlement waits for that. -/
def State.endRelease (s : State) (id : Nat) : State :=
  let t := s.task id
  if s.unperformed id || s.releasing id then s.fly id (coreEnd t.core) (coreEnd t.core) 0 .release
  else s.publish t.core

/-- A send that its target held when the target ended is answered GONE (R208). -/
def State.answerGone (s : State) (fs : List Flight) : State :=
  fs.foldl (fun s f => match f.body with
    | .send needle _ _ _ _ dst trap => s.sendBody { f with src := f.dst, dst := f.src, vc := 1, body := .sendStatus 0x91 needle dst trap }
    | _ => s) s

/-- The accumulators of a task that ends (R19): released, after the matrix commands that a task which retires by RETIRE has
issued. -/
def State.releaseHeld (s : State) (id : Nat) (normal : Bool) : State :=
  (s.cores.filter fun (e : Nat × Core) => e.2.holder == some id).foldl (fun s e =>
    if normal && e.2.queue.any (fun c => c.task == id) then s.onCore e.1 fun c => { c with release := true }
    else s.releaseAcc e.1) s

/-- A task that ends is no observer of a settlement any more: a later task may have its identity (R240). -/
def State.forgetObserver (s : State) (id : Nat) : State :=
  { s with
    spool := s.spool.map fun e => (e.1, { e.2 with observers := e.2.observers.filter (· != id) })
    launches := s.launches.map fun e => (e.1, { e.2 with observed := e.2.observed.filter fun o => o.2 != id }) }

/-- What the end of a task does to its sub-version: one that KEEP marked is folded when the last of its marked tasks ends, in
whatever way (R202, R306); one that nothing keeps is discarded at a cancellation (R249). -/
def State.endSub (s : State) (t : Task) (cancelled : Bool) : State :=
  let ver := t.ver.toNat
  if !t.spec || t.subv = 0 then s
  else if s.subState ver t.subv == some .kept then
    if t.kept && !(s.liveTasks.any fun e => e.2.kept && e.2.ver == t.ver && e.2.subv == t.subv) then s.fold ver t.subv else s
  else if cancelled then s.discard ver t.subv
  else s

/-- The end of a task: RETIRE, or retirement CANCELLED or POISONED (R19, R204, R249 to R251). Its pending MGANG is withdrawn in
every one of these ways: R176 says so of a cancel alone (the model's choice, log 56). -/
def State.endTask (s : State) (id : Nat) (op : SpoolOp) : State :=
  let t := s.task id
  let normal := match op with | .retire _ => true | _ => false
  let s := if normal then s else (s.cancelChildren id).keepCommands fun c => c.task != id
  let s := (s.unwait id).abandonFaults id
  let s := s.endRelease id
  let s := (s.answerGone t.held).dropBlocks t.lease t.childBlocks
  let s := match t.act with
    | some a => (s.delays id).onCore a.core fun c => { c with activation := none }
    | none => s
  let s := s.settleOwn id op
  let s := s.releaseHome id
  let s := s.releaseHeld id normal
  let s := s.withdrawGang id
  let s := s.onTask id fun t =>
    { t with live := false, loom := .retiring, slot := none, wait := .no, tiles := [], held := [], fixed := [], deferred := [],
             children := [], childBlocks := [], inRecord := false, emptied := none }
  let s := match t.member with
    | some k => s.setEntry k { s.entry k with memberIndex := false, gen := (s.entry k).gen + 1, freed := s.seq, state := .free }
    | none => s
  (s.forgetObserver id).endSub t (op == .retireCancelled)

/-- The task retires CANCELLED (R249). -/
def State.cancelTask (s : State) (id : Nat) : State := s.endTask id .retireCancelled

/-- The task waits at a barrier node (R218). -/
def State.waitsAtNode (s : State) (id : Nat) : Bool :=
  s.nodes.any fun e =>
    (e.2.waiters.any fun w => match w.client with
      | .task i _ (some _) => i == id
      | _ => false) ||
    e.2.held.any fun h => match h with
      | .barw (.task i _ _) => i == id
      | _ => false

/-- A waiting operation of the task is at a bank or a node, on its way there, or its answer is on its way back (R136). -/
def State.waitsAtBank (s : State) (id k : Nat) : Bool :=
  (s.bank.any fun w => w.task == id) || s.waitsAtNode id ||
    (match (s.flight? k).map fun (f : Flight) => f.body with
     | some (.tagged ..) | some (.resend ..) | some (.value ..) | some .ack | some (.nodeWait ..) | some (.arrive ..)
     | some (.nodeAnswer ..) => true
     | _ => false)

/-- A task that a CANCEL reaches (R249, R201). -/
def State.deliverCancel (s : State) (id : Nat) : State :=
  let t := s.task id
  if !t.live || t.loom == .retiring then s
  else
    match t.loom with
    | .running => s.onTask id fun t => { t with canp := true }
    | .waiting =>
      match t.wait with
      | .answer k =>
        -- a tagged or barrier wait is withdrawn, and the operation may perform first (R136); a TOUCH held in place
        -- retires; while another answer is on its way the task counts as RUNNING
        if s.waitsAtBank id k then (s.onTask id fun t => { t with canp := true }).fly id (loomEnd t.pos) (coreEnd t.core) 2 (.withdraw id k)
        else if t.waitObj != 0 then s.cancelTask id
        else s.onTask id fun t => { t with canp := true }
      -- a slot on a table walk is RUNNING (R241)
      | .walk _ => s.onTask id fun t => { t with canp := true }
      | _ => s.cancelTask id
    | _ => s.cancelTask id

end Sys2Proof.Machine
end

