-- ==== Sys2Proof/Machine/Fetch.lean ====
section
/-! DEFINITION. Fetch lines and program counters (R33 to R39): the slot at a PC, its parity, its mark, its decoding. -/
namespace Sys2Proof.Machine

open Sys2Proof

/-- The slot of a PC within its line (R33). -/
def slotOf (pc : Word) : Nat := pc.toNat % 64 / 12

/-- The address of a PC's fetch line (R33). -/
def lineOf (pc : Word) : Nat := pc.toNat / 64 * 64

/-- A PC is legal (R35). -/
def legalPc (pc : Word) : Bool := pc.toNat % 64 % 12 == 0 && decide (pc.toNat % 64 < 60)

/-- The PC after an instruction that does not transfer control (R35). -/
def nextPc (pc : Word) : Word := if slotOf pc < 4 then pc + 12 else w64 (lineOf pc + 64)

/-- The linear slot index of a legal PC (R36). -/
def slotIndex (pc : Word) : Nat := pc.toNat / 64 * 5 + slotOf pc

/-- The target of a branch in format B (R36). -/
def branchTarget (pc : Word) (imm : BitVec 40) : Word :=
  let ix : Int := (slotIndex pc : Int) + (simm imm).toInt
  BitVec.ofInt 64 (ix / 5 * 64 + ix % 5 * 12)

/-- The parity of the halves of slot `i` of a line as the line word should hold it (R37, R38): lower, then upper. -/
def slotParity (w : IWord) : Nat × Nat := (parityOf 48 (w.toNat % 2 ^ 48), parityOf 48 (w.toNat >>> 48))

/-- What a fetch finds at a PC: the slot's word and its line word, a trap (cause, address, information without its TGT
part), or an address whose translation is not held. -/
inductive Fetched where
  | got (w : IWord) (lw : BitVec 32)
  | trap (cause : BitVec 8) (addr info : Word)
  | miss (va : Nat)
  deriving DecidableEq, Repr

/-- A byte of code: the launch's own write at its home, or memory as it is now (R426: firmware's BRK is seen at once). -/
def State.codeByte (s : State) (t : Task) (host : Bool) (a : Nat) : Byte :=
  match (s.launch? t.ver.toNat).bind fun l => l.ownByte host a 0 with
  | some b => b
  | none => (s.committed host).get a

/-- The fetch of the slot at a PC, in the order of R39 and R270; `tgt` asks for the mark of a target. A remap row that is
invalid or that leads into another remap window (WHY 4 and 6 of a data access) is reported with reason 2, the model's
choice (log 51). -/
def State.fetchAt (s : State) (t : Task) (pc : Word) (tgt : Bool) : Fetched :=
  if !legalPc pc then .trap 0x03 pc 1
  else if 2 ^ 56 ≤ pc.toNat then .trap 0x01 pc 3
  else if ownBase ≤ pc.toNat then .trap 0x01 pc 2
  else
    match s.resolveFor s.cur t (w64 (lineOf pc)) with
    | .miss v => .miss v
    | .fault why => .trap 0x01 pc (if why = 3 then 3 else 2)
    | .ok p x _ =>
      if !x then .trap 0x01 pc 2
      else if s.isMarked p 64 then .trap 0x01 pc 4
      else
        let host := match p.space with | .host _ => true | _ => false
        let line := (List.range 64).map fun i => s.codeByte t host (p.addr + i)
        let w : IWord := BitVec.ofNat 96 (leNat ((line.drop (12 * slotOf pc)).take 12))
        let lw : BitVec 32 := BitVec.ofNat 32 (leNat (line.drop 60))
        let par := slotParity w
        let badLo := par.1 != bit (lw.getLsbD (2 * slotOf pc))
        let badHi := par.2 != bit (lw.getLsbD (2 * slotOf pc + 1))
        if badLo || badHi then .trap 0x02 pc (w64 (bit badLo + 2 * bit badHi))
        else if tgt && !lw.getLsbD (27 + slotOf pc) then .trap 0x03 pc 2
        else .got w lw

/-- The trap of a word that does not decode (R51, R52, R268). -/
def decodeTrap : DecodeError → BitVec 8 × Word
  | .void => (0x04, 0)
  | .opcode c o => (0x05, w64 (c + o * 16))
  | .field n => (0x06, w64 n)
  | .modifier m => (0x07, w64 m)

/-- TGT and the transfer's index added to a fetch trap's information (R268, R272). -/
def tgtInfo (info ix : Word) : Word := info ||| 0x100#64 ||| (ix <<< 12)

/-- The registers and guards that an instruction reads, by its entry (R41, R48); of DST see `instrWrites`. -/
def instrReads (i : Instr) : List Reg :=
  let guard (g : Guard) : List Reg := if g.en then [.q g.q] else []
  match partsOf i with
  | some (_, _, .x f) =>
    let sh := shapeOf i f
    let used (k : Kind) (x : Src) : List Reg := if k == .unused then [] else [x.reg]
    guard f.guard ++ used sh.a f.a ++ used sh.b f.b ++ used sh.c f.c
  | some (_, _, .l f) => guard f.guard
  | none => []

/-- The register that an instruction writes, by its entry; some read it too. -/
def instrWrites (i : Instr) : List Reg :=
  match partsOf i with
  | some (_, _, .x f) => if (shapeOf i f).dst == .unused || f.dst == .s 0 then [] else [f.dst]
  | some (_, _, .l f) => [f.dst]
  | none => []

/-- The issue group of a class (R55). -/
def issueGroup (cls : Nat) : Nat :=
  if cls ≤ 1 then 0 else if cls = 6 || cls = 7 then 1 else if cls = 3 || cls = 4 then 2 else if cls = 5 || cls = 8 then 3 else 4

/-- Two instructions of a line may issue in one cycle, as far as they themselves go (R56). -/
def mayPair (i j : Instr) : Bool :=
  match partsOf i, partsOf j with
  | some (c, _, _), some (d, _, _) =>
    (issueGroup c != issueGroup d || (c == 0 && d == 0)) && issueGroup c != 4 &&
      !((instrWrites i).any fun r => (instrReads j).contains r || (instrWrites j).contains r)
  | _, _ => false

/-- The instruction at a task's PC may be paired with the one after it (R56): PAIR of its line word allows it. -/
def State.pairsAt (s : State) (id : Nat) : Bool :=
  let t := s.task id
  let at' (pc : Word) : Option (Instr × BitVec 32) := match s.fetchAt t pc false with
    | .got w lw => match decodeIn (fld lw 22 10 != 0) w with
      | .ok i => some (i, lw)
      | .error _ => none
    | _ => none
  decide (slotOf t.pc < 4) && (match at' t.pc, at' (nextPc t.pc) with
    | some (i, lw), some (j, _) => lw.getLsbD (23 + slotOf t.pc) && mayPair i j
    | _, _ => false)

end Sys2Proof.Machine
end

