-- ==== Sys2Proof/Machine/Ops.lean ====
section
/-! DEFINITION. The operations every meaning is built from: taking a trap and returning from one (R263 to R267, R222),
debug stops (R427), waiting for a walk (R279, R280), target checks (R39), and the frame of an instruction: guard,
sources, producers, its own work, and what follows (R16 to R18, R48). -/
namespace Sys2Proof.Machine

open Sys2Proof

/-- The outcome of every step of this model. -/
abbrev Out := Host.Outcome State Fault Refusal

/-- Fatal(c) (R267): a core dump waits to be written when a slot of the dump area is free (R284, R285); otherwise the
task retires POISONED at once with fault-record address 0. Its chunk ends with the trap (R346). `sec` is a first secondary record. -/
def State.fatal (s : State) (id : Nat) (c : BitVec 8) (sec : List (Word × Word × Word × Word)) : State :=
  let t := s.task id
  let l := s.lease t.lease
  let waiting := (s.dumps.filter fun d => (s.task d.task).lease == t.lease).length
  let s := if s.recorded id then s.onTask id fun t => { t with due := some 3 } else s
  if l.dumpSlots = 0 then s.endTask id (.retirePoisoned c 0)
  else if l.dumpSlots ≤ l.dumpUsed.length + waiting || 64 < waiting then
    (s.onLease t.lease fun l => { l with dumpMissed := l.dumpMissed + 1 }).endTask id (.retirePoisoned c 0)
  else
    let s := s.unwait id
    { s.onTask id (fun t => { t with loom := .retiring, wait := .no }) with
      dumps := s.dumps ++ [⟨id, c, sec, false, none, s.now⟩] }

/-- A further fault of a task whose dump is still to be written (R285): the next secondary record, or OVF. -/
def State.secondFault (s : State) (id : Nat) (r : Word × Word × Word × Word) : State :=
  let add (d : Dump) : Dump := if d.secondary.length < 7 then { d with secondary := d.secondary ++ [r] } else { d with overflow := true }
  { s with dumps := listUpdate (fun d => d.task == id) add s.dumps }

/-- A task takes a trap (R264). With INH = 1 it is poisoned with DOUBLE (R266); with no vector the trap is fatal. -/
def State.takeTrap (s : State) (id : Nat) (cause : BitVec 8) (pc addr info : Word) : State :=
  let t := s.task id
  if t.inh then s.fatal id 0x3F [(cause.setWidth 64, pc, addr, info)]
  else
    let s := s.onTask id fun t =>
      { t with trapCause := cause.setWidth 64, trapPc := pc, trapAddr := addr, trapInfo := info, wait := .no, wpx := false,
               wpPc := if cause = 0x16 then some pc else none, wdr := false, tgt := none }
    let vec := (s.lease t.lease).trapVec
    if vec = 0 then s.fatal id cause []
    else s.onTask id fun t =>
      { t with inh := true, pc := vec, tgt := some 0, loom := if t.slot.isSome then .running else t.loom }

/-- The return from a trap (R222, R265): INH clears and the task resumes at `trap.pc`, unchecked. A return from a
WATCHPOINT trap to that trap's own PC leaves the next issue of the instruction exempt (R273). -/
def Task.eret (t : Task) : Task :=
  { t with inh := false, pc := t.trapPc, wpx := t.wpPc == some t.trapPc, wpPc := .none, tgt := .none }

/-- A task's fixed-latency results land (R327). -/
def State.landFixed (s : State) (id : Nat) : State :=
  let l := (s.task id).fixed
  l.foldl (fun s e => s.fillReg id e.1 e.2) (s.onTask id fun t => { t with fixed := [] })

/-- A task's waiting operation is withdrawn (R327, R135, R218); a NEEDLE that waits for an arm at once (R359). -/
def State.withdrawWait (s : State) (id : Nat) : State :=
  let t := s.task id
  match t.wait with
  | .answer k => if s.waitsAtBank id k then s.fly id (loomEnd t.pos) (coreEnd t.core) 2 (.withdraw id k) else s
  | .arm => (s.unwait id).onTask id fun t => { t with wait := .no, loom := .running, wdr := true }
  | _ => s

/-- In recorded mode a stop ends a chunk (R345). -/
def State.stopChunk (s : State) (id : Nat) : State :=
  if s.recorded id && (s.task id).chunk != 0 && (s.task id).due.isNone then s.onTask id fun t => { t with due := some 5 } else s

/-- A round before the commit point is abandoned by a stop (R333). -/
def Launch.dropRound (l : Launch) : Launch :=
  if l.decided then l else { l with round := 0, answered := [], retracted := false }

/-- CORE_STOPPED (R327, R422): no slot of the core issues again, fixed results have landed, withdrawals are sent, and its
delay accounts are flushed. A debug stop (`chunks` false) ends no chunk of a replay (R428). -/
def State.stopCore (s : State) (chunks : Bool) (k : Nat) : State :=
  let ids := (s.liveTasks.filter fun e => e.2.core == k && e.2.slot.isSome).map (·.1)
  let s := ids.foldl (fun s id => (s.landFixed id).withdrawWait id) s
  let s := (ids.filter fun id => chunks || !s.replays id).foldl State.stopChunk s
  (s.onCore k fun c => { c with stopped := true }).flushAccounts k

/-- A debug stop (R427): the whole job stops by the path of a gang-stop, accounts are flushed, rounds in progress are abandoned (R333),
and a STOP record is made when asked for. -/
def State.debugStop (s : State) (id : Nat) (cause ix : Nat) : State :=
  let t := s.task id
  let s := s.cores.foldl (fun (s : State) (e : Nat × Core) => s.stopCore false e.1) s
  let s := if (s.lease t.lease).trace.tctl.getLsbD 2 then s.traceTask id 3 (w64 (cause + ix * 256)) t.pc else s
  { s with
    stop := .debug
    stoppedAt := some (id, cause)
    launches := s.launches.map fun (e : Nat × Launch) => (e.1, e.2.dropRound) }

/-- What an instruction's own work came to. -/
inductive Res where
  /-- it took effect; the PC advances (R35) -/
  | ok (s : State)
  /-- it took effect; the next PC is given -/
  | jump (s : State) (pc : Word)
  /-- it traps; the PC reported is the instruction's (R263) -/
  | trap (cause : BitVec 8) (addr info : Word)
  /-- it traps in a state of its own, with the PC reported given (R39, R268) -/
  | trapAt (s : State) (cause : BitVec 8) (pc addr info : Word)
  /-- it has not issued and waits (R16) -/
  | wait (w : Wait) (s : State)
  /-- it waits for the translation of an address (R279) -/
  | miss (va : Nat) (addr info : Word)
  /-- a debug stop takes the place of its trap (R427) -/
  | stop (cause ix : Nat)
  /-- the task has left its slot; nothing more happens to it here -/
  | gone (s : State)

/-- The PC moves past an instruction that took effect (R35); the chunk counts it (R345). -/
def State.advance (s : State) (id : Nat) : State :=
  s.onTask id fun t =>
    { t with pc := nextPc t.pc, wait := .no, loom := .running, wpx := false, wdr := false, tgt := .none, chunk := t.chunk + 1 }

/-- The PC moves to a target. -/
def State.jumpTo (s : State) (id : Nat) (pc : Word) : State :=
  s.onTask id fun t =>
    { t with pc := pc, wait := .no, loom := .running, wpx := false, wdr := false, chunk := t.chunk + 1 }

/-- A wait in place is a cancellation point (R248). -/
def Wait.cancels : Wait → Bool
  | .place | .reg _ | .arm | .fault => true
  | _ => false

/-- A task waits in place (R16), or retires when a cancel has arrived (R249). -/
def State.waitFor (s : State) (id : Nat) (w : Wait) : State :=
  if (s.task id).canp && w.cancels then s.cancelTask id
  else s.onTask id fun t => { t with wait := w, loom := .waiting }

/-- A miss joins a walk of the same page of the same lease, or starts one (R278). -/
def State.joinWalk (s : State) (lease va : Nat) (acc : BitVec 2) (who : Requester) : State :=
  let page := va / 65536
  if s.walks.any fun w => w.lease == lease && w.page == page then
    { s with walks := listUpdate (fun w => w.lease == lease && w.page == page) (fun w => { w with who := w.who ++ [who] }) s.walks }
  else { s with walks := s.walks ++ [⟨lease, page, acc, 0, false, [who]⟩] }

/-- A task's access waits for a walk (R278, R279). -/
def State.missFor (s : State) (id va : Nat) (addr info : Word) : State :=
  (s.joinWalk (s.task id).lease va (info.setWidth 2) (.task id addr info)).waitFor id (.walk (va / 65536))

/-- A fetch waits for a walk; a pending target check is kept (R280). -/
def State.fetchMiss (s : State) (id va : Nat) (pc : Word) : State :=
  (s.joinWalk (s.task id).lease va 0 (.fetch id pc (s.task id).tgt)).waitFor id (.walk (va / 65536))

/-- What follows an instruction's own work. -/
def finish (id : Nat) (s : State) : Res → State
  | .ok s' => s'.advance id
  | .jump s' pc => s'.jumpTo id pc
  | .trap c a i => s.takeTrap id c (s.task id).pc a i
  | .trapAt s' c pc a i => s'.takeTrap id c pc a i
  | .wait w s' => s'.waitFor id w
  | .miss va a i => s.missFor id va a i
  | .stop c ix => s.debugStop id c ix
  | .gone s' => s'

/-- A live task stands at the issue port. -/
def State.onTurn (s : State) : Bool := s.me.live

/-- The result that R279 gives an access that does not leave issue. -/
def Stop.res : Stop → Res
  | .trap c a i => .trap c a i
  | .miss va a i => .miss va a i
  | .debug ix => .stop 0x16 ix

/-- The guard of a core-local instruction (R48): none when it is empty, else whether the instruction executes. -/
def guardTest (g : Guard) (t : Task) : Option Bool :=
  if !g.en then some true
  else if !t.full (.q g.q) then none
  else some (t.regs.q.getLsbD g.q.val != g.neg)

/-- The first empty source in the order SA, SB, SC (R16): its position and source. -/
def firstEmpty (t : Task) : List (Nat × Src) → Option (Nat × Src)
  | [] => none
  | (n, x) :: l => if t.full x.reg then firstEmpty t l else some (n, x)

/-- The sources of a field set. -/
def sourcesOf (f : Fields) : List (Nat × Src) := [(1, f.a), (2, f.b), (3, f.c)]

/-- A result of a fixed latency is on its way to one of some registers, which stay full until it lands: a reader of it
waits (R115, R127). A register that its producer emptied (R215) is empty as any other. -/
def Task.landing (t : Task) (rs : List Reg) : Bool := t.fixed.any fun e => rs.contains e.1 && t.full e.1

/-- A wait or trap on the sources (R16, R115), or none when all are full. -/
def emptySource (s : State) (srcs : List (Nat × Src)) : Option Res :=
  if s.me.landing (srcs.map fun (e : Nat × Src) => e.2.reg) then some (.wait .place s)
  else (firstEmpty s.me srcs).map fun e =>
    if e.2.trap then .trap 0x08 0 (w64 (e.2.reg.spec.toNat + e.1 * 256)) else .wait (.reg e.2.reg) s

/-- The first read of a register that a release send or a token filled is an acquire point (R298); what an engine wrote is not
hidden by PRIVATE bytes that were read before (R149, R305). -/
def State.touch (s : State) (rs : List Reg) : State :=
  if s.me.touched.any fun r => rs.contains r then
    ((s.acquireFor s.cur).dropPrivate s.me.core).onMe fun t => { t with touched := t.touched.filter fun r => !rs.contains r }
  else s

/-- A register whose contents an uncorrectable error has spoiled: reading it traps, found after every other check (R283, rank
13 of R270). -/
def unspoilt (s : State) (rs : List Reg) (r : Res) : Res :=
  if s.me.spoiled.any fun g => rs.contains g then
    match r with
    | .ok _ | .jump _ _ | .gone _ | .wait (.answer _) _ => .trap 0x40 0 0
    | x => x
  else r

/-- The frame of every core-local instruction: guard (R48), sources (R16), a pending producer of what it writes (R17),
first reads (R298), then its own work. `more` are registers read beside the source fields, `outs` those it writes. -/
def issue (g : Guard) (srcs : List (Nat × Src)) (more outs : List Reg) (work : State → Res) (s : State) : Res :=
  match guardTest g s.me with
  | none => .wait (.reg (.q g.q)) s
  | some false => unspoilt s [.q g.q] (.ok s)
  | some true =>
    match emptySource s srcs with
    | some r => r
    | none =>
      match more.find? fun r => !s.me.full r with
      | some r => .wait (.reg r) s
      | none =>
        let reads := (if g.en then [Reg.q g.q] else []) ++ srcs.map (fun (e : Nat × Src) => e.2.reg) ++ more
        if s.me.landing more || outs.any (s.pendingOn s.cur) then .wait .place s
        else unspoilt s reads (work (s.touch reads))

/-- A step of the issuing task, or the model's own stop when there is none. -/
def run (work : State → Res) (s : State) : Out :=
  if s.onTurn then .next (finish s.cur s (work s)) else .fault .noTask

/-- An instruction with the three source fields and one destination. -/
def instr (f : Fields) (work : State → Res) (s : State) : Out :=
  run (issue f.guard (sourcesOf f) [] [f.dst] work) s

/-- A transfer to a checked target (R39): its own effects stand in every case. -/
def checkTarget (s : State) (target : Word) : Res :=
  let ix := w64 (slotIndex s.me.pc)
  match s.fetchAt s.me target true with
  | .got _ _ => .jump s target
  | .trap c a i => .trapAt s c target a (tgtInfo i ix)
  | .miss va =>
    .gone (((s.onMe fun t => { t with pc := target, tgt := some ix, wpx := false, chunk := t.chunk + 1 })).fetchMiss s.cur va target)

/-- SA of the issuing task as a word. -/
def State.sa (s : State) (f : Fields) : Word := s.me.get64 f.a.reg
/-- SB of the issuing task as a word. -/
def State.sb (s : State) (f : Fields) : Word := s.me.get64 f.b.reg
/-- SC of the issuing task as a word. -/
def State.sc (s : State) (f : Fields) : Word := s.me.get64 f.c.reg

end Sys2Proof.Machine
end

