-- ==== Sys2Proof/Machine/Operands.lean ====
section
/-! DEFINITION. Operand forms: width operands of class 0x0 (R91, R92), effective addresses (R44), pattern and origin
registers of format E (R46, R151). -/
namespace Sys2Proof.Machine

open Sys2Proof

/-- The operation width of MOD.W (R91). -/
def intWidth (m : BitVec 8) : Nat :=
  match fld m 1 0 with
  | 0 => 64
  | 1 => 32
  | 2 => 16
  | _ => 8

/-- MOD.S (R91). -/
def intSigned (m : BitVec 8) : Bool := m.getLsbD 2

/-- The second operand of class 0x0 before it is cut to the width (R92). -/
def second (f : Fields) (s : State) : Word := if immForm f.mod then simm f.imm else s.sb f

/-- The low `w` bits as a number, signed when asked (Interp of R92). -/
def interp (sg : Bool) (w : Nat) (x : Word) : Int := if sg then sgn w x.toNat else ((x.toNat % 2 ^ w : Nat) : Int)

/-- The two or three operands of a width operation (R92). -/
structure IntArgs where
  w : Nat
  sg : Bool
  a : Int
  b : Int
  c : Int
  /-- the whole second operand, for shift amounts (R97) -/
  full : Word

/-- The operands of a width operation (R92). -/
def intArgs (f : Fields) (s : State) : IntArgs :=
  let w := intWidth f.mod
  let sg := intSigned f.mod
  ⟨w, sg, interp sg w (s.sa f), interp sg w (second f s), interp sg w (s.sc f), second f s⟩

/-- The result of a width operation extended to 64 bits (R92). -/
def IntArgs.result (x : IntArgs) (y : Int) : Word := extend x.sg x.w (wrap x.w y)

/-- The `w`-bit pattern of the first operand. -/
def IntArgs.pa (x : IntArgs) : Nat := wrap x.w x.a
/-- The `w`-bit pattern of the second operand. -/
def IntArgs.pb (x : IntArgs) : Nat := wrap x.w x.b

/-- The index shift of MOD.SCL (R44). -/
def sclShift (m : BitVec 8) : Nat :=
  match fld m 5 4 with
  | 0 => 0
  | 1 => 2
  | 2 => 3
  | _ => 8

/-- The effective address of format M (R44). -/
def effAddr (f : Fields) (s : State) : Word := s.sa f + (s.sb f <<< sclShift f.mod) + simm f.imm

/-- The address of ACAS and AFADDB, whose SB is an operand (R137). -/
def baseAddr (f : Fields) (s : State) : Word := s.sa f + simm f.imm

/-- ORD of format M (R44). -/
def ordOf (m : BitVec 8) : BitVec 2 := BitVec.ofNat 2 (fld m 7 6)

/-- The access width in bytes of MOD.WID (R44). -/
def widBytes (m : BitVec 8) : Nat := if fld m 2 0 = 4 then 256 else 2 ^ fld m 2 0

/-- A lane mask: a p register, or every lane for 0x00 (R128, R129, R158). -/
def maskOf (t : Task) : Reg → Nat
  | .p n => (t.regs.p.get n).toNat
  | _ => 2 ^ 64 - 1

/-- PX, PY and PZ (R46). -/
def pxOf (f : Fields) : Nat := fld f.imm 39 32
def pyOf (f : Fields) : Nat := fld f.imm 31 24
def pzOf (f : Fields) : Nat := fld f.imm 23 16

/-- EX (R46). -/
def exOf (f : Fields) : Nat := fld f.imm 15 0

end Sys2Proof.Machine
end

