-- ==== Sys2Proof/Machine/Keccak.lean ====
section
/-! DEFINITION. SHAKE256 (FIPS 202), the random word of stochastic rounding (R73), and KMAC256 (SP 800-185), the check
of handles and needles (R188). -/
namespace Sys2Proof.Machine

open Sys2Proof

/-- A 64-bit rotation to the left. -/
def rotl (x n : Nat) : Nat := ((x <<< n) % 2 ^ 64) ||| (x >>> (64 - n))

/-- The rotation offsets of rho, by lane x + 5y. -/
def keccakRho : List Nat :=
  [0, 1, 62, 28, 27, 36, 44, 6, 55, 20, 3, 10, 43, 25, 39, 41, 45, 15, 21, 8, 18, 2, 61, 56, 14]

/-- The round constants of iota. -/
def keccakRc : List Nat :=
  [0x0000000000000001, 0x0000000000008082, 0x800000000000808A, 0x8000000080008000, 0x000000000000808B,
   0x0000000080000001, 0x8000000080008081, 0x8000000000008009, 0x000000000000008A, 0x0000000000000088,
   0x0000000080008009, 0x000000008000000A] ++
  [0x000000008000808B, 0x800000000000008B, 0x8000000000008089, 0x8000000000008003, 0x8000000000008002,
   0x8000000000000080, 0x000000000000800A, 0x800000008000000A, 0x8000000080008081, 0x8000000000008080,
   0x0000000080000001, 0x8000000080008008]

/-- One round of Keccak-f[1600] on 25 lanes. -/
def keccakRound (a : List Nat) (rc : Nat) : List Nat :=
  let at' (l : List Nat) (i : Nat) : Nat := l.getD i 0
  let c := (List.range 5).map fun x => at' a x ^^^ at' a (x + 5) ^^^ at' a (x + 10) ^^^ at' a (x + 15) ^^^ at' a (x + 20)
  let d := (List.range 5).map fun x => at' c ((x + 4) % 5) ^^^ rotl (at' c ((x + 1) % 5)) 1
  let t := (List.range 25).map fun i => rotl (at' a i ^^^ at' d (i % 5)) (at' keccakRho i)
  let b := (List.range 25).map fun i => at' t ((i % 5 + 3 * (i / 5)) % 5 + 5 * (i % 5))
  (List.range 25).map fun i =>
    let y := i / 5 * 5
    let n := (2 ^ 64 - 1) ^^^ at' b (y + (i + 1) % 5)
    at' b i ^^^ (n &&& at' b (y + (i + 2) % 5)) ^^^ (if i = 0 then rc else 0)

/-- Keccak-f[1600]. -/
def keccakF (a : List Nat) : List Nat := keccakRc.foldl keccakRound a

/-- The lanes of a block of bytes. -/
def blockLanes : Nat → List Byte → List Nat
  | 0, _ => []
  | n + 1, bs => leNat (bs.take 8) :: blockLanes n (bs.drop 8)

/-- A block of 136 bytes absorbed. -/
def absorb (a : List Nat) (block : List Byte) : List Nat :=
  keccakF ((List.range 25).map fun i => a.getD i 0 ^^^ (if i < 17 then (blockLanes 17 block).getD i 0 else 0))

/-- Blocks of 136 bytes absorbed, with fuel for their number. -/
def absorbAll : Nat → List Nat → List Byte → List Nat
  | 0, a, _ => a
  | n + 1, a, bs => if bs.isEmpty then a else absorbAll n (absorb a (bs.take 136)) (bs.drop 136)

/-- The message padded with its domain bits to whole blocks of 136 bytes. -/
def keccakPad (suffix : Byte) (bs : List Byte) : List Byte :=
  let gap := 136 - bs.length % 136
  if gap = 1 then bs ++ [suffix ||| 0x80]
  else bs ++ [suffix] ++ List.replicate (gap - 2) 0 ++ [0x80]

/-- The first 64 bytes of the sponge's output. -/
def sponge (suffix : Byte) (bs : List Byte) : List Byte :=
  let p := keccakPad suffix bs
  ((absorbAll (p.length / 136 + 1) (List.replicate 25 0) p).take 8).flatMap (leBytes 8)

/-- The first 64 bytes of SHAKE256. -/
def shake256 (bs : List Byte) : List Byte := sponge 0x1F bs

/-- A length encoded on the left (SP 800-185), below 65,536. -/
def leftEncode (n : Nat) : List Byte :=
  if n < 256 then [1, BitVec.ofNat 8 n] else [2, BitVec.ofNat 8 (n / 256), BitVec.ofNat 8 n]

/-- A length encoded on the right. -/
def rightEncode (n : Nat) : List Byte :=
  if n < 256 then [BitVec.ofNat 8 n, 1] else [BitVec.ofNat 8 (n / 256), BitVec.ofNat 8 n, 2]

/-- A string with its length in bits before it. -/
def encodeString (bs : List Byte) : List Byte := leftEncode (8 * bs.length) ++ bs

/-- Bytes padded with zeros to a multiple of 136, the rate before them. -/
def bytepad (bs : List Byte) : List Byte :=
  let x := leftEncode 136 ++ bs
  x ++ List.replicate ((136 - x.length % 136) % 136) 0

/-- The bytes of a text of letters. -/
def ascii (t : String) : List Byte := t.toList.map fun c => BitVec.ofNat 8 c.toNat

/-- The first 64 bytes of KMAC256 with output length `bits`. -/
def kmac256 (key msg : List Byte) (outBits : Nat) (custom : String) : List Byte :=
  sponge 0x04 (bytepad (encodeString (ascii "KMAC") ++ encodeString (ascii custom)) ++
    (bytepad (encodeString key) ++ msg ++ rightEncode outBits))

/-- The check of bits [63:16] of a handle or needle (R188). -/
def checkOf (secret : List Byte) (x : Word) (custom : String) : Nat :=
  leNat ((kmac256 secret (leBytes 6 (x.toNat >>> 16)) 16 custom).take 2)

/-- CheckH (R188). -/
def checkH (secret : List Byte) (h : Word) : Nat := checkOf secret h "GN2 handle"

/-- CheckN (R188). -/
def checkN (secret : List Byte) (n : Word) : Nat := checkOf secret n "GN2 needle"

/-- The random word of stochastic rounding (R73). -/
def roundWord (seed : Word) (n : Nat) (fmt : Nat) : Nat :=
  leNat ((shake256 (leBytes 8 seed.toNat ++ leBytes 8 n ++ [BitVec.ofNat 8 fmt])).take 4)

end Sys2Proof.Machine
end

