-- ==== Sys2Proof/Machine/Fp.lean ====
section
/-! DEFINITION. Floating-point numbers (R66 to R76): formats, exact arithmetic on dyadic numbers, and one rounding. -/
namespace Sys2Proof.Machine

open Sys2Proof

/-- A number format (R66, R68, R77). -/
inductive Fmt where
  | i4 | u4 | i8 | u8 | i16 | i32 | i64 | e4m3 | e5m2 | fp16 | bf16 | fp32 | fp64 | q4g | q8g
  deriving DecidableEq, Repr

/-- The format of a code. -/
def Fmt.ofCode (c : Nat) : Option Fmt :=
  match c with
  | 0x01 => some .i4 | 0x02 => some .u4 | 0x03 => some .i8 | 0x04 => some .u8 | 0x05 => some .i16 | 0x06 => some .i32
  | 0x07 => some .i64 | 0x10 => some .e4m3 | 0x11 => some .e5m2 | 0x12 => some .fp16 | 0x13 => some .bf16
  | 0x14 => some .fp32 | 0x15 => some .fp64 | 0x20 => some .q4g | 0x21 => some .q8g
  | _ => none

/-- The code of a format. -/
def Fmt.code : Fmt → Nat
  | .i4 => 0x01 | .u4 => 0x02 | .i8 => 0x03 | .u8 => 0x04 | .i16 => 0x05 | .i32 => 0x06 | .i64 => 0x07
  | .e4m3 => 0x10 | .e5m2 => 0x11 | .fp16 => 0x12 | .bf16 => 0x13 | .fp32 => 0x14 | .fp64 => 0x15
  | .q4g => 0x20 | .q8g => 0x21

/-- The width of an element in bits. -/
def Fmt.width : Fmt → Nat
  | .i4 | .u4 | .q4g => 4
  | .i8 | .u8 | .e4m3 | .e5m2 | .q8g => 8
  | .i16 | .fp16 | .bf16 => 16
  | .i32 | .fp32 => 32
  | .i64 | .fp64 => 64

/-- The fraction bits, exponent bits and bias of a floating-point format (R68); zeros for an integer. -/
def Fmt.fb : Fmt → Nat
  | .fp64 => 52 | .fp32 => 23 | .fp16 => 10 | .bf16 => 7 | .e5m2 => 2 | .e4m3 => 3
  | _ => 0
def Fmt.eb : Fmt → Nat
  | .fp64 => 11 | .fp32 => 8 | .fp16 => 5 | .bf16 => 8 | .e5m2 => 5 | .e4m3 => 4
  | _ => 0
def Fmt.bias (f : Fmt) : Nat := 2 ^ (f.eb - 1) - 1

/-- The format is floating point. -/
def Fmt.isFp (f : Fmt) : Bool := f.eb != 0

/-- The format is a signed integer (a grouped code is, R77). -/
def Fmt.isSigned : Fmt → Bool
  | .u4 | .u8 => false
  | _ => true

/-- The canonical NaN (R69). -/
def Fmt.nan : Fmt → Nat
  | .fp64 => 0x7FF8000000000000 | .fp32 => 0x7FC00000 | .fp16 => 0x7E00 | .bf16 => 0x7FC0 | .e5m2 => 0x7E | .e4m3 => 0x7F
  | _ => 0

/-- The largest finite magnitude as an encoding (R68). -/
def Fmt.maxBits (f : Fmt) : Nat := if f = .e4m3 then 0x7E else (2 ^ f.eb - 1) * 2 ^ f.fb - 1

/-- A value: NaN, an infinity, or a signed magnitude m times two to the e. A zero keeps its sign. -/
inductive Num where
  | nan
  | inf (neg : Bool)
  | fin (neg : Bool) (m : Nat) (e : Int)
  deriving DecidableEq, Repr

/-- The value of an encoding (R68, R69). -/
def Fmt.decode (f : Fmt) (x : Nat) : Num :=
  let neg := x.testBit (f.eb + f.fb)
  let ex := (x >>> f.fb) % 2 ^ f.eb
  let fr := x % 2 ^ f.fb
  if f = .e4m3 && ex == 15 && fr == 7 then .nan
  else if f != .e4m3 && ex == 2 ^ f.eb - 1 then (if fr = 0 then .inf neg else .nan)
  else if ex = 0 then .fin neg fr (1 - (f.bias : Int) - f.fb)
  else .fin neg (fr + 2 ^ f.fb) ((ex : Int) - f.bias - f.fb)

/-- An integer as a value. -/
def Num.ofInt (z : Int) : Num := .fin (decide (z < 0)) z.natAbs 0

/-- The signed mantissa at an exponent no larger than the number's own. -/
def scaled (neg : Bool) (m : Nat) (e base : Int) : Int :=
  let n : Int := (m <<< (e - base).toNat : Nat)
  if neg then -n else n

/-- The rounding mode code (R72) with the random word's seed and index (R73, R74). -/
structure Round where
  mode : Nat
  seed : Word
  n : Nat
  sat : Bool := false
  deriving DecidableEq, Repr

/-- Rounding to nearest even. -/
def Round.rne : Round := ⟨0, 0, 0, false⟩

/-- An exact sum (R71): an exact zero is +0, or -0 in RDN; two zeros of one sign keep it. -/
def Num.add (rdn : Bool) : Num → Num → Num
  | .nan, _ => .nan
  | _, .nan => .nan
  | .inf a, .inf b => if a = b then .inf a else .nan
  | .inf a, .fin .. => .inf a
  | .fin .., .inf b => .inf b
  | .fin a m e, .fin b k d =>
    if m = 0 && k = 0 then .fin (if a = b then a else rdn) 0 0
    else
      let base := if e < d then e else d
      let z := scaled a m e base + scaled b k d base
      if z = 0 then .fin rdn 0 0 else .fin (decide (z < 0)) z.natAbs base

/-- The opposite. -/
def Num.neg : Num → Num
  | .nan => .nan
  | .inf a => .inf !a
  | .fin a m e => .fin (!a) m e

/-- An exact product. -/
def Num.mul : Num → Num → Num
  | .nan, _ => .nan
  | _, .nan => .nan
  | .inf a, .inf b => .inf (a != b)
  | .inf a, .fin b k _ => if k = 0 then .nan else .inf (a != b)
  | .fin a m _, .inf b => if m = 0 then .nan else .inf (a != b)
  | .fin a m e, .fin b k d => .fin (a != b) (m * k) (e + d)

/-- The sign. -/
def Num.isNeg : Num → Bool
  | .nan => false
  | .inf a => a
  | .fin a _ _ => a

/-- The order of two values; none with a NaN. Zeros are equal. -/
def Num.compare : Num → Num → Option Ordering
  | .nan, _ => none
  | _, .nan => none
  | .inf a, .inf b => some (if a = b then .eq else if a then .lt else .gt)
  | .inf a, .fin .. => some (if a then .lt else .gt)
  | .fin .., .inf b => some (if b then .gt else .lt)
  | .fin a m e, .fin b k d =>
    let base := if e < d then e else d
    let x := scaled a m e base
    let y := scaled b k d base
    some (if x < y then .lt else if x = y then .eq else .gt)

/-- The result of an overflow (R75); `big` says that the neighbour of larger magnitude is taken. -/
def Fmt.overflow (f : Fmt) (sat big neg : Bool) : Nat :=
  let sign := if neg then 2 ^ (f.eb + f.fb) else 0
  if sat || !big then sign + f.maxBits
  else if f = .e4m3 then f.nan
  else sign + (2 ^ f.eb - 1) * 2 ^ f.fb

/-- Whether an inexact magnitude rounds up (R72, R73): `lo` is the magnitude below, `rem` of `2^sh` what lies above it,
`st` that a little more lies above still. -/
def roundsUp (r : Round) (fmt : Nat) (neg : Bool) (lo rem sh : Nat) (st : Bool) : Bool :=
  match r.mode with
  | 0 => decide (2 ^ sh < 2 * rem) || (2 * rem == 2 ^ sh && (st || lo % 2 == 1))
  | 1 => false
  | 2 => neg
  | 3 => !neg
  | _ =>
    if neg then
      let thr := ((2 ^ sh - rem) * 2 ^ 32 - bit st) / 2 ^ sh
      !decide (roundWord r.seed r.n fmt < thr)
    else decide (roundWord r.seed r.n fmt < rem * 2 ^ 32 / 2 ^ sh)

/-- One rounding of the magnitude m times two to the e, and a little more when `st`, into a format (R71, R72, R75). -/
def Fmt.roundFin (f : Fmt) (r : Round) (neg : Bool) (m : Nat) (e : Int) (st : Bool) : Nat :=
  let sign := if neg then 2 ^ (f.eb + f.fb) else 0
  if m = 0 then sign
  else
    let top : Int := e + m.log2
    let emin : Int := 1 - (f.bias : Int)
    let q : Int := (if top < emin then emin else top) - f.fb
    let sh := (q - e).toNat
    let lo := if q ≤ e then m <<< (e - q).toNat else m >>> sh
    let rem := if q ≤ e then 0 else m % 2 ^ sh
    let inexact := rem != 0 || st
    let up := inexact && roundsUp r f.code neg lo rem sh st
    let k := lo + bit up
    let (k, q) := if k = 2 ^ (f.fb + 1) then (k / 2, q + 1) else (k, q)
    if k < 2 ^ f.fb then sign + k
    else
      let ex : Int := q + f.fb + f.bias
      let enc := (ex.toNat <<< f.fb) + (k - 2 ^ f.fb)
      if decide ((f.maxBits : Nat) < enc) then
        let big := match r.mode with
          | 0 => true
          | 1 => false
          | 2 => neg
          | 3 => !neg
          | _ => !inexact || up
        f.overflow r.sat big neg
      else sign + enc

/-- A value rounded into a floating-point format. -/
def Fmt.round (f : Fmt) (r : Round) : Num → Nat
  | .nan => f.nan
  | .inf a => f.overflow r.sat true a
  | .fin a m e => f.roundFin r a m e false

/-- Bounds of an integer format. -/
def intMin (w : Nat) (sg : Bool) : Int := if sg then -((2 ^ (w - 1) : Nat) : Int) else 0
def intMax (w : Nat) (sg : Bool) : Int := if sg then (2 ^ (w - 1) : Nat) - 1 else (2 ^ w : Nat) - 1

/-- A value rounded to an unbounded integer; an infinity or NaN does not arise. -/
def roundInt (r : Round) (fmt : Nat) (neg : Bool) (m : Nat) (e : Int) : Int :=
  let mag : Nat :=
    if 0 ≤ e then m <<< e.toNat
    else
      let sh := (-e).toNat
      let lo := m >>> sh
      let rem := m % 2 ^ sh
      lo + bit (rem != 0 && roundsUp r fmt neg lo rem sh false)
  if neg then -(mag : Int) else mag

/-- A value converted to an integer of `w` bits (R76): rounded, and held within the range. -/
def Num.toInt (r : Round) (fmt w : Nat) (sg : Bool) : Num → Int
  | .nan => 0
  | .inf a => if a then intMin w sg else intMax w sg
  | .fin a m e =>
    let z := roundInt r fmt a m e
    if z < intMin w sg then intMin w sg else if intMax w sg < z then intMax w sg else z

/-- The square root of a natural number, rounded down, by its bits from `2^k` down. -/
def isqrtFrom (n : Nat) : Nat → Nat → Nat
  | 0, r => if (r + 1) * (r + 1) ≤ n then r + 1 else r
  | k + 1, r => isqrtFrom n k (if (r + 2 ^ (k + 1)) * (r + 2 ^ (k + 1)) ≤ n then r + 2 ^ (k + 1) else r)

/-- The square root of a natural number, rounded down. -/
def isqrt (n : Nat) : Nat := isqrtFrom n (n.log2 / 2) 0

/-- The bits kept beyond those of a result in a quotient or root. -/
def guardBitsOf : Nat := 192

/-- A correctly rounded quotient (R71). -/
def Fmt.div (f : Fmt) (r : Round) : Num → Num → Nat
  | .nan, _ => f.nan
  | _, .nan => f.nan
  | .inf _, .inf _ => f.nan
  | .inf a, .fin b _ _ => f.overflow false true (a != b)
  | .fin a _ _, .inf b => f.roundFin r (a != b) 0 0 false
  | .fin a m e, .fin b k d =>
    if k = 0 then (if m = 0 then f.nan else f.overflow false true (a != b))
    else
      let sh := guardBitsOf + k.log2
      let n := m <<< sh
      f.roundFin r (a != b) (n / k) (e - d - sh) (n % k != 0)

/-- A correctly rounded square root (R71). -/
def Fmt.sqrt (f : Fmt) (r : Round) : Num → Nat
  | .nan => f.nan
  | .inf a => if a then f.nan else f.overflow false true false
  | .fin a m e =>
    if m = 0 then f.roundFin r a 0 0 false
    else if a then f.nan
    else
      let sh := 2 * guardBitsOf + (if e % 2 = 0 then 0 else 1)
      let n := m <<< sh
      let q := isqrt n
      f.roundFin r false q ((e - sh) / 2) (q * q != n)

/-- A correctly rounded reciprocal square root (R71): of -0 an infinity of its sign. -/
def Fmt.rsqrt (f : Fmt) (r : Round) : Num → Nat
  | .nan => f.nan
  | .inf a => if a then f.nan else f.roundFin r false 0 0 false
  | .fin a m e =>
    if m = 0 then f.overflow false true a
    else if a then f.nan
    else
      let sh := 2 * guardBitsOf + 2 * m.log2 + (if e % 2 = 0 then 0 else 1)
      let n := 2 ^ sh / m
      let q := isqrt n
      f.roundFin r false q ((-e - sh) / 2) (q * q != n || 2 ^ sh % m != 0)

/-- The natural logarithm of 2 times two to the 384, rounded down. -/
def ln2Scaled : Nat := 0xb17217f7d1cf79abc9e3b39803f2f6af40f343267298b62d8a0d175b8baafa2be7b876206debac98559552fb4afa1b10

/-- The precision of the series below, in bits. -/
def seriesBits : Nat := 384

/-- The sum of t^i / i! from term `i` on, scaled. -/
def expSeries (t : Nat) : Nat → Nat → Nat → Nat
  | 0, _, _ => 0
  | n + 1, i, term => term + expSeries t n (i + 1) (term * t / 2 ^ seriesBits / (i + 1))

/-- The sum of z^(2i+1) / (2i+1) from `i` on, scaled. -/
def atanhSeries (z2 : Nat) : Nat → Nat → Nat → Nat
  | 0, _, _ => 0
  | n + 1, i, term => term / (2 * i + 1) + atanhSeries z2 n (i + 1) (term * z2 / 2 ^ seriesBits)

/-- A correctly rounded power of two (R71, R169). -/
def Fmt.exp2 (f : Fmt) (r : Round) : Num → Nat
  | .nan => f.nan
  | .inf a => if a then f.roundFin r false 0 0 false else f.overflow false true false
  | .fin a m e =>
    if m = 0 then f.roundFin r false 1 0 false
    else
      -- x scaled to 384 fraction bits is exact for every input format of class 0x7 down to 2^-384
      let x : Int := if -(seriesBits : Int) ≤ e then scaled a m e (-(seriesBits : Int)) else (if a then -1 else 1)
      let floor : Int := x / (2 ^ seriesBits : Nat)
      -- beyond every format's range the exponent's value no longer matters
      let whole : Int := if 100000 < floor then 100000 else floor
      let part : Nat := (x % (2 ^ seriesBits : Nat)).toNat
      if whole < -100000 then f.roundFin r false 1 (-100000) true
      else if part = 0 then f.roundFin r false 1 whole false
      else
        let t := part * ln2Scaled / 2 ^ seriesBits
        f.roundFin r false (expSeries t 90 0 (2 ^ seriesBits)) (whole - seriesBits) true

/-- A correctly rounded logarithm to base 2 (R71, R169): of a zero -infinity, of a negative number NaN. -/
def Fmt.log2 (f : Fmt) (r : Round) : Num → Nat
  | .nan => f.nan
  | .inf a => if a then f.nan else f.overflow false true false
  | .fin a m e =>
    if m = 0 then f.overflow false true true
    else if a then f.nan
    else
      let whole : Int := e + m.log2
      let y := m <<< (seriesBits - m.log2)
      let one := 2 ^ seriesBits
      if y = one then f.round r (if whole = 0 then .fin false 0 0 else Num.ofInt whole)
      else
        let z := ((y - one) <<< seriesBits) / (y + one)
        let ln := 2 * atanhSeries (z * z / one) 130 0 z
        let v : Int := whole * (one : Nat) + ((ln <<< seriesBits) / ln2Scaled : Nat)
        f.roundFin r (decide (v < 0)) v.natAbs (-(seriesBits : Int)) true

/-- The lesser or greater of two values as encodings (R109): NaN when either is, -0 below +0. -/
def Fmt.minmax (f : Fmt) (wantMax : Bool) (x y : Nat) : Nat :=
  let a := f.decode x
  let b := f.decode y
  match a.compare b with
  | none => f.nan
  | some .lt => if wantMax then y else x
  | some .gt => if wantMax then x else y
  | some .eq => if a.isNeg == wantMax then y else x

/-- The class bit of a value (R111). -/
def Fmt.classBit (f : Fmt) (x : Nat) : Nat :=
  match f.decode x with
  | .nan => 8
  | .inf a => if a then 0 else 7
  | .fin a m _ =>
    if m = 0 then (if a then 3 else 4)
    else if m < 2 ^ f.fb then (if a then 2 else 5)
    else (if a then 1 else 6)

/-- A format's encoding converted to another floating-point format (R76); NaN becomes canonical. -/
def Fmt.convert (src dst : Fmt) (r : Round) (x : Nat) : Nat := dst.round r (src.decode x)

end Sys2Proof.Machine
end

