-- ==== Sys2Proof/Machine/Pattern.lean ====
section
/-! DEFINITION. Pattern entries (R85 to R90): fields, element addresses, tiles, well-formedness. -/
namespace Sys2Proof.Machine

open Sys2Proof

/-- FMT; none for an empty entry or an unlisted code (R85). -/
def patFmt (p : PatWord) : Option Fmt := Fmt.ofCode (fld p 63 56)
/-- The entry is empty (R85). -/
def patEmpty (p : PatWord) : Bool := fld p 63 56 == 0
def patBase (p : PatWord) : Nat := fld p 55 0
/-- EXT0 to EXT3 as stored (R85). -/
def patExt (p : PatWord) (d : Nat) : Nat := fld p (95 + 32 * d) (64 + 32 * d)
/-- The extent of a dimension, an absent one counting as 1 (R86). -/
def patE (p : PatWord) (d : Nat) : Nat := if patExt p d = 0 then 1 else patExt p d
def patStr (p : PatWord) (d : Nat) : Nat := fld p (231 + 40 * d) (192 + 40 * d)
def patTrows (p : PatWord) : Nat := fld p 363 352
def patTcols (p : PatWord) : Nat := fld p 375 364
def patGrp (p : PatWord) : Nat := fld p 377 376
/-- A signed byte offset of 40 bits (R85). -/
def patOff (p : PatWord) (lo : Nat) : Int := sgn 40 (fld p (lo + 39) lo)
def patScale (p : PatWord) : Int := patOff p 384
def patZero (p : PatWord) : Int := patOff p 424
def patBscale (p : PatWord) : Int := patOff p 464
def patRemap (p : PatWord) : Bool := p.getLsbD 504
def patPin (p : PatWord) : Bool := p.getLsbD 505
def patStack (p : PatWord) : Bool := p.getLsbD 506
def patBsc (p : PatWord) : Bool := p.getLsbD 507
def patIlv (p : PatWord) : Nat := fld p 511 508

/-- The group size (R85). -/
def groupSize (g : Nat) : Nat := match g with | 0 => 0 | 1 => 32 | 2 => 64 | _ => 128

/-- The width of an element in bits; 8 where the entry has no format. -/
def patBits (p : PatWord) : Nat := match patFmt p with | some f => f.width | none => 8

/-- The element size in bytes; 1 for 4-bit formats (R88). -/
def patBytes (p : PatWord) : Nat := if patBits p = 4 then 1 else patBits p / 8

/-- The stride of dimension 0 (R86). -/
def patS0 (p : PatWord) : Nat := if patStr p 0 = 0 then patBytes p else patStr p 0

/-- The address of an element, or of the byte that holds its nibble (R86): modulo 2^56. -/
def elemAddr (p : PatWord) (i0 i1 i2 i3 : Nat) : Nat :=
  let first := if patBits p = 4 then i0 / 2 else i0 * patS0 p
  (patBase p + first + i1 * patStr p 1 + i2 * patStr p 2 + i3 * patStr p 3) % 2 ^ 56

/-- An address from a base and a signed offset, modulo 2^56 (R86). -/
def offAddr (p : PatWord) (off : Int) : Nat := (((patBase p : Int) + off) % (2 ^ 56 : Nat)).toNat

/-- The flat index of an element (R74). -/
def flatIndex (p : PatWord) (i0 i1 i2 i3 : Nat) : Nat :=
  i0 + patE p 0 * (i1 + patE p 1 * (i2 + patE p 2 * i3))

/-- The clipped extents of the tile at an origin (R87). -/
def clipCols (p : PatWord) (o0 : Nat) : Nat := Nat.min (patTcols p) (patE p 0 - o0)
def clipRows (p : PatWord) (o1 : Nat) : Nat := Nat.min (patTrows p) (patE p 1 - o1)

/-- The K depth of a step for a format (R81). -/
def keOf (f : Fmt) : Nat :=
  match f with
  | .fp16 | .bf16 => 48
  | .i4 | .u4 | .q4g => 192
  | _ => 96

/-- The group index of an element (R78). -/
def groupIndex (p : PatWord) (i0 i1 i2 i3 : Nat) : Nat :=
  ((i3 * patE p 2 + i2) * patE p 1 + i1) * (patE p 0 / groupSize (patGrp p)) + i0 / groupSize (patGrp p)

/-- The index of an element's block scale (R79). -/
def blockIndex (p : PatWord) (i0 i1 i2 i3 : Nat) : Nat :=
  let ke := match patFmt p with | some f => keOf f | none => 96
  let n1 := (patE p 1 + patTrows p - 1) / patTrows p
  let nk := (patE p 0 + ke - 1) / ke
  ((i3 * patE p 2 + i2) * n1 + i1 / patTrows p) * nk + i0 / ke

/-- A well-formed entry (R88). -/
def patOk (p : PatWord) : Bool :=
  let size := patBytes p
  let four := patBits p == 4
  let grouped := fld p 63 56 == 0x20 || fld p 63 56 == 0x21
  if patEmpty p then p == 0
  else
    (patFmt p).isSome && patExt p 0 != 0 &&
    !(patExt p 1 == 0 && patExt p 2 != 0) && !(patExt p 2 == 0 && patExt p 3 != 0) &&
    !(patExt p 1 == 0 && patExt p 3 != 0) &&
    (if four then patStr p 0 == 0 && patExt p 0 % 2 == 0 else patStr p 0 % size == 0) &&
    patBase p % size == 0 && patStr p 1 % size == 0 && patStr p 2 % size == 0 && patStr p 3 % size == 0 &&
    ((patTrows p == 0) == (patTcols p == 0)) && (!four || patTcols p % 2 == 0) &&
    ((patGrp p != 0) == grouped) &&
    (!grouped || (patExt p 0 % groupSize (patGrp p) == 0 && fld p 423 384 % 2 == 0)) &&
    (grouped || (fld p 423 384 == 0 && fld p 463 424 == 0)) &&
    (patBsc p || fld p 503 464 == 0) &&
    (!patBsc p || ((fld p 63 56 == 0x10 || fld p 63 56 == 0x11) && fld p 503 464 % 4 == 0 && patTrows p != 0)) &&
    decide (bit (patRemap p) + bit (patPin p) + bit (patStack p) ≤ 1) && (patStack p || patIlv p == 0) &&
    fld p 383 378 == 0

/-- A pattern of the issuing task's lease (R85). -/
def State.pat (s : State) (lease ix : Nat) : PatWord := ((s.lease lease).pats.find ix).getD 0

end Sys2Proof.Machine
end

