-- ==== Sys2Proof/Machine/LoadStore.lean ====
section
/-! DEFINITION. Class 0x3: loads, stores, gathers, scatters, LDT and the cache instructions (R122 to R132). -/
namespace Sys2Proof.Machine

open Sys2Proof

/-- The parts lie in the issuing core's own scratchpad banks (R127). -/
def ownBanks (t : Task) (parts : List Part) : Bool :=
  parts.all fun p => p.loc.space == .spad && coreOfKey p.loc.addr == t.core

/-- A load that is not a single value: nothing to read yet. -/
def Access.load (dst : Reg) (parts : List Part) (bytes lanes : Nat) (sg : Bool) (ord : BitVec 2) : Access :=
  ⟨.load, parts, 0, 0, 0, some dst, bytes, sg, lanes, ord⟩

/-- A store of data. -/
def Access.store (parts : List Part) (data : VWord) (ord : BitVec 2) : Access :=
  ⟨.store, parts, 0, data, 0, none, 0, false, 0, ord⟩

/-- A value with bytes put at an offset. -/
def putBytes (x : VWord) (off : Nat) (bs : List Byte) : VWord :=
  BitVec.ofNat 2048 (x.toNat + leNat bs * 2 ^ (8 * off))

/-- What a finished load writes (R126, R129): a lane-wise extension, a whole vector, or an extended scalar. -/
def Access.result (a : Access) : VWord :=
  if a.lanes ≠ 0 then vecOf 32 ((List.range a.lanes).map fun i => (extend a.signed (8 * a.bytes) (lane a.value 32 i)).toNat)
  else if 8 < a.bytes then a.value
  else (extend a.signed (8 * a.bytes) a.value.toNat).setWidth 2048

/-- An access sent from the issuing core (R127). -/
def State.sendAccess (s : State) (a : Access) : State :=
  s.fly s.cur (coreEnd s.me.core) (s.accessEnd s.me.lease s.me.core a) 0 (.access a)

/-- A checked load (R127): from the core's own banks its result follows after a fixed latency and DST stays full, and an
uncorrectable error in its bytes is found at once (R283); any other empties DST and is sent. -/
def loadParts (dst : Reg) (parts : List Part) (bytes lanes : Nat) (sg : Bool) (ord : BitVec 2) (long : Bool)
    (s : State) : Res :=
  let a := Access.load dst parts bytes lanes sg ord
  if ownBanks s.me parts && !long then
    if s.heldBack s.cur s.seq ord false parts then .wait .place s
    else if let some p := parts.find? fun p => s.isMarked p.loc p.size then .trap 0x40 p.loc.va 0
    else
      let v := parts.foldl (fun v p => putBytes v p.off (s.spad.bytes p.loc.addr p.size)) 0
      let r := { a with value := v }.result
      .ok (s.onMe fun t => if dst = .s 0 then t else { t with fixed := t.fixed ++ [(dst, r)] })
  else .ok ((s.sendAccess a).emptyDst dst)

/-- A checked store (R127): into the core's own banks it performs at once, elsewhere it is sent. -/
def storeParts (parts : List Part) (data : VWord) (ord : BitVec 2) (s : State) : Res :=
  if parts.isEmpty then .ok s
  else if ownBanks s.me parts then
    if s.heldBack s.cur s.seq ord true parts then .wait .place s
    else .ok (parts.foldl (fun s p => s.storePart s.me.core s.me.ver.toNat s.me.subv p.loc (dataBytes data p.off p.size)) s)
  else .ok (s.sendAccess (Access.store parts data ord))

/-- The checks of an access, then its own work (R279). -/
def checked (u : Use) (align : Req → Option (BitVec 8)) (reqs : List Req) (work : List Part → State → Res)
    (s : State) : Res :=
  match s.check s.me s.cur u align reqs with
  | .error x => x.res
  | .ok (parts, rows) => work parts (if rows.isEmpty then s else s.keepRows s.me.core rows)

/-- No alignment rule. -/
def anyAlign (_ : Req) : Option (BitVec 8) := none

/-- The address is a multiple of `n` (R122). -/
def alignedTo (n : Nat) (r : Req) : Option (BitVec 8) := if r.va.toNat % n = 0 then none else some 0x12

/-- LD (R126). -/
def execLd (f : Fields) (s : State) : Out :=
  instr f (fun s =>
    let n := widBytes f.mod
    checked .read anyAlign [Req.plain (effAddr f s) n 0 0]
      (fun ps s => loadParts f.dst ps n 0 (f.mod.getLsbD 3) (ordOf f.mod) false s) s) s

/-- ST (R126). -/
def execSt (f : Fields) (s : State) : Out :=
  instr f (fun s =>
    checked .write anyAlign [Req.plain (effAddr f s) (widBytes f.mod) 0 0]
      (fun ps s => storeParts ps (s.me.value f.c.reg) (ordOf f.mod) s) s) s

/-- LDV (R126). -/
def execLdv (f : Fields) (s : State) : Out :=
  instr f (fun s =>
    checked .read (alignedTo 8) [Req.vector (effAddr f s) (2 ^ 64 - 1)]
      (fun ps s => loadParts f.dst ps 256 0 false (ordOf f.mod) false s) s) s

/-- STV (R126, R128): its mask is named by DST; a mask of zeros does nothing. -/
def execStv (f : Fields) (s : State) : Out :=
  run (issue f.guard (sourcesOf f) [f.dst] [] fun s =>
    let m := maskOf s.me f.dst
    if m = 0 then .ok s
    else checked .write (alignedTo 8) [Req.vector (effAddr f s) m]
      (fun ps s => storeParts ps (s.me.value f.c.reg) (ordOf f.mod) s) s) s

/-- The requests of the active lanes of LDG and STG (R129). -/
def laneReqs (f : Fields) (mask : Nat) (s : State) : List Req :=
  let offs := s.me.value f.b.reg
  let n := widBytes f.mod
  (maskList 64 mask).map fun i =>
    let ea := s.sa f + (w64 (lane offs 32 i) <<< sclShift f.mod) + simm f.imm
    Req.mk ea n i [(ea, n, 4 * i)]

/-- LDG (R129): always a long-latency producer. -/
def execLdg (f : Fields) (s : State) : Out :=
  instr f (fun s =>
    checked .read (alignedTo (widBytes f.mod)) (laneReqs f (maskOf s.me f.c.reg) s)
      (fun ps s => loadParts f.dst ps (widBytes f.mod) 64 (f.mod.getLsbD 3) (ordOf f.mod) true s) s) s

/-- STG (R129): its mask is named by DST; the lanes store in ascending order. -/
def execStg (f : Fields) (s : State) : Out :=
  run (issue f.guard (sourcesOf f) [f.dst] [] fun s =>
    checked .write (alignedTo (widBytes f.mod)) (laneReqs f (maskOf s.me f.dst) s)
      (fun ps s => storeParts ps (s.me.value f.c.reg) (ordOf f.mod) s) s) s

/-- The BOUNDS trap of LDT (R130), or the number of elements it reads. -/
def ldtCase (p : PatWord) (i0 i1 i2 i3 c : Nat) : Except Nat Nat :=
  if patEmpty p || fld p 63 56 == 0x15 then .error 1
  else if patE p 0 ≤ i0 || patE p 1 ≤ i1 || patE p 2 ≤ i2 || patE p 3 ≤ i3 then .error 2
  else if 2048 < c * patBits p then .error 3
  else .ok (if c = 0 then 2048 / patBits p else c)

/-- The requests of LDT's elements that exist: each byte of a 4-bit pair once (R130). -/
def ldtReqs (p : PatWord) (i0 i1 i2 i3 n : Nat) : List Req :=
  let k := Nat.min n (patE p 0 - i0)
  (List.range k).map fun j =>
    let a : Word := w64 (elemAddr p (i0 + j) i1 i2 i3)
    ⟨a, patBytes p, 0, [(a, patBytes p, j)]⟩

/-- LDT (R130). Each part carries its element's number as its offset; for 4-bit formats `lanes` is 1 or 2 as the first
element's nibble is low or high. -/
def execLdt (f : Fields) (s : State) : Out :=
  instr f (fun s =>
    let p := s.pat s.me.lease (pxOf f)
    let i0 := (s.sa f).toNat
    let i2 := bits (s.sc f) 31 0
    let i3 := bits (s.sc f) 63 32
    match ldtCase p i0 (s.sb f).toNat i2 i3 (fld f.imm 9 0) with
    | .error n => .trap 0x1A 0 (w64 (pxOf f + n * 256))
    | .ok n =>
      checked .read anyAlign (ldtReqs p i0 (s.sb f).toNat i2 i3 n)
        (fun ps s =>
          let four := patBits p == 4
          let ps := ps.map fun q => { q with off := if four then q.off else q.off * patBytes p }
          .ok ((s.sendAccess ⟨.load, ps, 0, 0, if four then w64 (1 + i0 % 2) else 0, some f.dst, 256, false, 0, ordOf f.mod⟩).emptyDst f.dst)) s) s

/-- The lines that a cache instruction names (R131): the line of ea, or the 32 of its granule. -/
def cacheLines (f : Fields) (p : Place) : List Nat :=
  if fld f.mod 2 0 = 0 then [p.addr / 64] else (List.range 32).map fun i => p.addr / 2048 * 32 + i

/-- PREF (R131): a fill of the line into the L1, or of the granule into its slice. An address that does not translate, its
walk made, a window, a COHERENT page, a line of a REDUCE page, which no L1 holds, and a fill mask without a way that no pinned
window holds drop it (R293; log 53). -/
def execPref (f : Fields) (s : State) : Out :=
  instr f (fun s =>
    let t := s.me
    let granule (host : Bool) (a : Nat) (s : State) : State :=
      s.sliceUse ⟨t.lease, s.sliceTag t.ver.toNat t.subv host a, host, a, true, false⟩
    let fill (host : Bool) (attr : BitVec 3) (a : Nat) (s : State) : State :=
      if attr == 3 || s.maskEmpty t.lease host a then s
      else if fld f.mod 2 0 != 0 then granule host a s
      else if attr == 4 then s
      else s.fillLine t.core t.ver.toNat t.subv host attr (a / 64 * 64) 64
    match s.resolveWalking s.cur t (effAddr f s) 4 with
    | (s, .ok ⟨.mem attr, a, _, _⟩ _ _) => .ok (fill false attr a s)
    | (s, .ok ⟨.host attr, a, _, _⟩ _ _) => .ok (fill true attr a s)
    | (s, _) => .ok s) s

/-- CLEAN and INVAL (R131): the named lines of the issuing core's L1 are written back, and removed by INVAL. They complete
asynchronously, as an access on its way: in order after the task's earlier accesses to those lines, and a FENCE waits for
them. On COHERENT and REDUCE pages and windows nothing is done beyond the translation. -/
def cacheOp (f : Fields) (drop : Bool) (s : State) : Out :=
  instr f (fun s =>
    checked .none anyAlign [Req.plain (effAddr f s) 1 0 0]
      (fun ps s =>
        match ps with
        | [] => .ok s
        | p :: _ =>
          let uses := match p.loc.space with | .spad => false | .mem a => a != 3 && a != 4 | .host a => a != 3
          let lines : List Part := (cacheLines f p.loc).map fun ln => ⟨{ p.loc with addr := ln * 64 }, 64, 0⟩
          if !uses then .ok s else .ok (s.sendAccess ⟨.clean drop, lines, 0, 0, 0, none, 0, false, 0, 0⟩)) s) s

/-- CLEAN (R131). -/
def execClean (f : Fields) (s : State) : Out := cacheOp f false s
/-- INVAL (R131). -/
def execInval (f : Fields) (s : State) : Out := cacheOp f true s

end Sys2Proof.Machine
end

