-- ==== Sys2Proof/Machine/Atomic.lean ====
section
/-! DEFINITION. Class 0x4: tagged words, atomics, fences and phase points (R133 to R144), and how an atomic performs at
its location, a REDUCE record among them (R137 to R140, R315, R321). -/
namespace Sys2Proof.Machine

open Sys2Proof

/-- Every release point first publishes (R298): the task's earlier accesses perform and its earlier releases complete;
then the dirty PHASED bytes of its L1 reach their homes. None: it must still wait. -/
def State.release (s : State) : Option State :=
  if s.unperformed s.cur || s.releasing s.cur then none else some (s.publish s.me.core)

/-- The work of a release point after its publication. -/
def released (work : State → Res) (s : State) : Res :=
  match s.release with
  | none => .wait .place s
  | some s => work s

/-- A tagged operation's address is a multiple of 8 in a scratchpad window (R122). -/
def taggedAlign (r : Req) : Option (BitVec 8) :=
  if r.va.toNat % 8 = 0 && inWindow r.va.toNat then none else some 0x12

/-- The checked place of a tagged operation. -/
def taggedAt (f : Fields) (changes : Bool) (work : Place → State → Res) (s : State) : Res :=
  checked (.tagged changes) taggedAlign [Req.plain (effAddr f s) 8 0 0]
    (fun ps s => match ps with
      | p :: _ => work p.loc s
      | [] => .ok s) s

/-- A waiting tagged operation sends its request and issues nothing further until it has performed (R135); it is a
cancellation point (R136). -/
def taggedWait (f : Fields) (op : TaggedOp) (dst : Reg) (loc : Place) (s : State) : Res :=
  if s.me.canp then .gone (s.cancelTask s.cur)
  else if s.heldBack s.cur s.seq (ordOf f.mod) (op == .ste) [⟨loc, 8, 0⟩] then .wait .place s
  else
    .wait (.answer s.seq)
      (s.fly s.cur (coreEnd s.me.core) (coreEnd (coreOfKey loc.addr)) 0 (.tagged op loc dst (s.sc f) (op != .ste)))

/-- LDF (R133, R134). -/
def execLdf (f : Fields) (s : State) : Out := instr f (taggedAt f true (taggedWait f .ldf f.dst)) s
/-- LDFF (R133, R134). -/
def execLdff (f : Fields) (s : State) : Out := instr f (taggedAt f false (taggedWait f .ldff f.dst)) s
/-- STE (R133, R134): a release point. -/
def execSte (f : Fields) (s : State) : Out :=
  instr f (taggedAt f true fun p => released (taggedWait f .ste (.s 0) p)) s

/-- The conditions under which a bank serves a waiting request (R133). -/
def tagReady (s : State) (op : TaggedOp) (a : Nat) : Bool :=
  match op with
  | .ste => !s.tagF a
  | _ => s.tagF a

/-- One waiting request performs in one step at its bank (R133): the new state and the value it answers. -/
def tagPerform (s : State) (op : TaggedOp) (a : Nat) (x : Word) : State × Word :=
  let v := w64 (s.spad.num a 8)
  match op with
  | .ldf => (s.setTag a false (s.tagK a), v)
  | .ldff => (s, v)
  | .ste => ({ s with spad := s.spad.putNum a 8 x.toNat }.setTag a true (s.tagK a), 0)

/-- The answer of a performed tagged request on its way back, under the request's number. -/
def State.tagAnswer (s : State) (id task a : Nat) (op : TaggedOp) (dst : Reg) (v : Word) : State :=
  let b : Body' := match op with
    | .ste => .ack
    | _ => .value dst (v.setWidth 2048) (s.spoilt.contains (a / 8)) false (w64 (windowBase + a))
  s.sendBody ⟨id, task, coreEnd (coreOfKey a), coreEnd (s.task task).core, 1, b⟩

/-- The bank serves the waiting requests of a word, the oldest first, while one's condition holds (R135). -/
def State.serve (s : State) (a : Nat) : Nat → State
  | 0 => s
  | n + 1 =>
    match s.bank.find? fun w => w.loc.addr == a && tagReady s w.op a with
    | none => s
    | some w =>
      let r := tagPerform { s with bank := s.bank.filter fun v => v.id != w.id } w.op a w.x
      State.serve (r.1.tagAnswer w.id w.task a w.op w.dst r.2) a n

/-- The F bit of a word changes and the bank serves who waits for it (R135). -/
def State.setF (s : State) (a : Nat) (b : Bool) : State :=
  (s.setTag a b (s.tagK a)).serve a (s.bank.length + 1)

/-- A tagged operation that does not wait performs once the task's earlier accesses let it (R124, R44). -/
def taggedNow (f : Fields) (stores : Bool) (work : Place → State → State) (loc : Place) (s : State) : Res :=
  if s.heldBack s.cur s.seq (ordOf f.mod) stores [⟨loc, 8, 0⟩] then .wait .place s else .ok (work loc s)

/-- STF (R133). -/
def execStf (f : Fields) (s : State) : Out :=
  instr f (taggedAt f true (taggedNow f true fun p s =>
    { s with spad := s.spad.putNum p.addr 8 (s.sc f).toNat }.setF p.addr true)) s
/-- SETE (R133). -/
def execSete (f : Fields) (s : State) : Out :=
  instr f (taggedAt f true (taggedNow f true fun p s => s.setF p.addr false)) s
/-- PROBE (R133): F + 2K. -/
def execProbe (f : Fields) (s : State) : Out :=
  instr f (taggedAt f false (fun p s => if s.isMarked p 8 then .trap 0x40 p.va 0 else taggedNow f false (fun p s =>
    s.put f.dst (w64 (bit (s.tagF p.addr) + 2 * bit (s.tagK p.addr)))) p s)) s

/-- What an atomic stores and whether it stores (R137, R140): `x` is SC's operand and `y` is SB's, at width `w`. -/
def atomicRule (op : AtomicOp) (sg : Bool) (w old x y : Nat) : Option Nat :=
  match op with
  | .add => some ((old + x) % 2 ^ w)
  | .and => some (old &&& x)
  | .or => some (old ||| x)
  | .xor => some (old ^^^ x)
  | .min => some (extremeOf false sg w old x)
  | .max => some (extremeOf true sg w old x)
  | .swp => some x
  | .cas => if old = y then some x else none
  | .incw => some (if x ≤ old then 0 else old + 1)
  | .faddb =>
    let val (n : Nat) : Int := if sg then sgn w n else (n : Int)
    let sum := val old + val x
    if intMin w sg ≤ sum ∧ sum ≤ intMax w sg ∧ sum ≤ val y then some (wrap w sum) else none
  | .fadd =>
    let f : Fmt := if w = 32 then .fp32 else .fp64
    some (f.round .rne ((f.decode old).add false (f.decode x)))

/-- An atomic within one line or word (R122). -/
def atomicAlign (r : Req) : Option (BitVec 8) :=
  let a := r.va.toNat
  let unit := if inWindow a then 8 else 64
  if unit < a % unit + r.size then some 0x13 else none

/-- The work of an atomic (R137, R138): sent to its location; with a reply it empties DST. -/
def atomicOp (f : Fields) (op : AtomicOp) (addr : State → Word) (s : State) : Out :=
  instr f (fun s =>
    let n := widBytes f.mod
    checked (.atomic op (f.dst == .s 0)) atomicAlign [⟨addr s, n, 0, [(addr s, n, 0)]⟩]
      (fun ps s =>
        .ok ((s.sendAccess ⟨.atomic op, ps, 0, (s.sb f).setWidth 2048, s.sc f, some f.dst, n, f.mod.getLsbD 3, 0,
          ordOf f.mod⟩).emptyDst f.dst)) s) s

/-- AADD (R137). -/
def execAadd (f : Fields) (s : State) : Out := atomicOp f .add (effAddr f) s
/-- AAND (R137). -/
def execAand (f : Fields) (s : State) : Out := atomicOp f .and (effAddr f) s
/-- AOR (R137). -/
def execAor (f : Fields) (s : State) : Out := atomicOp f .or (effAddr f) s
/-- AXOR (R137). -/
def execAxor (f : Fields) (s : State) : Out := atomicOp f .xor (effAddr f) s
/-- AMIN (R137). -/
def execAmin (f : Fields) (s : State) : Out := atomicOp f .min (effAddr f) s
/-- AMAX (R137). -/
def execAmax (f : Fields) (s : State) : Out := atomicOp f .max (effAddr f) s
/-- ASWP (R137). -/
def execAswp (f : Fields) (s : State) : Out := atomicOp f .swp (effAddr f) s
/-- ACAS (R137). -/
def execAcas (f : Fields) (s : State) : Out := atomicOp f .cas (baseAddr f) s
/-- AINCW (R140). -/
def execAincw (f : Fields) (s : State) : Out := atomicOp f .incw (effAddr f) s
/-- AFADDB (R140). -/
def execAfaddb (f : Fields) (s : State) : Out := atomicOp f .faddb (baseAddr f) s
/-- AFADD (R137). -/
def execAfadd (f : Fields) (s : State) : Out := atomicOp f .fadd (effAddr f) s

/-- The exponent at which the exact sum of an AFADD record is kept: that of the smallest subnormal (R68). -/
def sumExp (bytes : Nat) : Int := if bytes = 4 then -149 else -1074

/-- An update as a record of its own (R321). -/
def ReduceRec.ofUpdate (addr bytes : Nat) (op : AtomicOp) (sg : Bool) (sub : BitVec 12) (x : Nat) : ReduceRec :=
  match op with
  | .fadd =>
    let f : Fmt := if bytes = 4 then .fp32 else .fp64
    match f.decode x with
    | .nan => ⟨false, addr, bytes, op, sg, sub, 0, sumExp bytes, false, false, true, false⟩
    | .inf n => ⟨false, addr, bytes, op, sg, sub, 0, sumExp bytes, !n, n, false, false⟩
    | .fin n m e => ⟨false, addr, bytes, op, sg, sub, scaled n m e (sumExp bytes), sumExp bytes, false, false, false, m == 0 && n⟩
  | _ => ⟨false, addr, bytes, op, sg, sub, x, 0, false, false, false, false⟩

/-- An update recorded at its home slice, in the shadow slot of a directory entry of KIND 01 (R139, R313, R315, R321); one past
the quota, or one that finds no room there, is not performed. -/
def State.reduceUpdate (s : State) (ver : Nat) (sub : BitVec 12) (r : ReduceRec) : State :=
  match s.launch? ver with
  | none => s
  | some l =>
    if l.reduce.any fun x => x.same r && x.subv == sub then
      s.onLaunch ver fun l => { l with reduce := listUpdate (fun x => x.same r && x.subv == sub) (fun x => x.join r) l.reduce }
    else
      let g := granuleOf r.addr
      let e := (l.slot r.host g sub).getD (Shadow.fresh r.host g sub)
      let room := if e.reduce then some 0 else s.shadowRoom l r.host r.addr (l.slot r.host g sub).isSome
      match if l.quota < l.charge + reduceCharge r.op r.bytes then none else room with
      | none => s.overflow ver r.host r.addr
      | some n => s.onLaunch ver fun l =>
        { l.setSlot { e with reduce := true, slot := if e.slot.isSome then e.slot else some n } with
          reduce := l.reduce ++ [r], charge := l.charge + reduceCharge r.op r.bytes }

/-- An atomic performs at its location (R137 to R139): the state after and the old value. -/
def State.atomicPart (s : State) (t : Task) (a : Access) (op : AtomicOp) (p : Part) : State × Nat :=
  let k := t.core
  let ver := t.ver.toNat
  let w := 8 * p.size
  let x := a.operand.toNat % 2 ^ w
  let y := a.data.toNat % 2 ^ w
  match p.loc.space, s.launch? ver with
  | .mem 4, some _ => (s.reduceUpdate ver t.subv (ReduceRec.ofUpdate p.loc.addr p.size op a.signed t.subv x), 0)
  | _, _ =>
    let r := match p.loc.space with
      | .mem 4 => s.homeLoad t.lease ver t.subv false 4 p.loc.addr p.size
      | _ => s.loadPart k ver t.subv p.loc p.size
    let old := leNat r.2
    match atomicRule op a.signed w old x y with
    | none => (r.1, old)
    | some new =>
      (match p.loc.space with
       | .mem 4 => r.1.homeStore t.lease ver t.subv false 4 p.loc.addr (leBytes p.size new)
       | _ => r.1.storePart k ver t.subv p.loc (leBytes p.size new), old)

/-- FENCE (R143): waits until every earlier access of the task has performed. -/
def execFence (f : Fields) (s : State) : Out :=
  run (issue f.guard [] [] [] fun s => if s.unperformed s.cur then .wait .place s else .ok s) s

/-- REL (R144): the release completes later; the task goes on. -/
def execRel (f : Fields) (s : State) : Out :=
  run (issue f.guard [] [] [] fun s => .ok (s.fly s.cur (coreEnd s.me.core) (coreEnd s.me.core) 0 .release)) s

/-- ACQ (R144): waits for the task's releases, then self-invalidates; later loads come after earlier ones (R300). -/
def execAcq (f : Fields) (s : State) : Out :=
  run (issue f.guard [] [] [] fun s => if s.releasing s.cur then .wait .place s else .ok (s.acquireFor s.cur)) s

/-- PHASE (R144): REL followed at once by ACQ. -/
def execPhase (f : Fields) (s : State) : Out :=
  run (issue f.guard [] [] [] (released fun s => .ok (s.acquireFor s.cur))) s

end Sys2Proof.Machine
end

