-- ==== Sys2Proof/Machine/Spool.lean ====
section
/-! DEFINITION. Spool entries: handles, allocation, spilling, settling, freeing (R187 to R189, R230 to R240), and the
words that requests answer (R198 to R203). -/
namespace Sys2Proof.Machine

open Sys2Proof

/-- The die of a handle: vdev and die (R187). -/
def hDie (h : Word) : Nat := bits h 63 52
/-- The Spool index of a handle. -/
def hIdx (h : Word) : Nat := bits h 51 36
/-- The generation of a handle. -/
def hGen (h : Word) : BitVec 8 := BitVec.ofNat 8 (bits h 35 28)
/-- The consumer count of a handle at creation. -/
def hCnt (h : Word) : Nat := bits h 27 16
/-- The key of the entry that a handle names. -/
def hKey (h : Word) : Nat := hDie h * 65536 + hIdx h

/-- A die of the job is populated (R10). -/
def State.hasDie (s : State) (d : Nat) : Bool := s.positions.any fun p => dieOf p == d

/-- A handle made for an entry (R187, R188). -/
def State.makeHandle (s : State) (die idx : Nat) (gen : BitVec 8) (cnt : Nat) : Word :=
  let x := w64 (die <<< 52 + idx <<< 36 + gen.toNat <<< 28 + cnt <<< 16)
  x + w64 (checkH s.secret x)

/-- The first check of a handle (R189): it is not null, names a populated die, and carries its check. -/
def State.goodHandle (s : State) (h : Word) : Bool :=
  h != 0 && s.hasDie (hDie h) && bits h 15 0 == checkH s.secret h

/-- The entry is settled (R235). -/
def Entry.isSettled (e : Entry) : Bool := e.state == .resolved || e.state == .poisoned || e.state == .cancelled

/-- An index of a lease's range on a die that is free for an allocation (R231). -/
def Entry.isFree (e : Entry) : Bool := e.state == .free && !e.memberIndex

/-- The cores of a lease (R9). -/
def Lease.cores (l : Lease) : List Nat := l.positions.flatMap fun p => (List.range 8).map (p * 8 + ·)

/-- The FREE index freed longest ago; never-used ones first, ascending (R231). -/
def State.freeIndex (s : State) (l : Lease) (die : Nat) : Option Nat :=
  match (List.range l.spoolCount).find? fun i => (s.spool.find (die * 65536 + l.spoolFirst + i)).isNone with
  | some i => some (l.spoolFirst + i)
  | none =>
    ((s.spool.filter fun e => e.1 / 65536 == die && decide (l.spoolFirst ≤ e.1 % 65536) &&
        decide (e.1 % 65536 < l.spoolFirst + l.spoolCount) && e.2.isFree).foldl
      (fun (b : Option (Nat × Nat)) e => match b with
        | none => some (e.1 % 65536, e.2.freed)
        | some (i, f) => if e.2.freed < f then some (e.1 % 65536, e.2.freed) else some (i, f)) none).map (·.1)

/-- How many indices of a lease's range are free on a die. -/
def State.freeCount (s : State) (l : Lease) (die : Nat) : Nat :=
  l.spoolCount - (s.spool.filter fun e => e.1 / 65536 == die && decide (l.spoolFirst ≤ e.1 % 65536) &&
    decide (e.1 % 65536 < l.spoolFirst + l.spoolCount) && !e.2.isFree).length

/-- The entries of a lease on a die (R230). -/
def State.entriesOf (s : State) (l : Lease) (die : Nat) : List (Nat × Entry) :=
  s.spool.filter fun e => e.1 / 65536 == die && decide (l.spoolFirst ≤ e.1 % 65536) &&
    decide (e.1 % 65536 < l.spoolFirst + l.spoolCount)

/-- The resident entries of a lease on a die (R230). -/
def State.resident (s : State) (l : Lease) (die : Nat) : Nat :=
  ((s.entriesOf l die).filter fun e => e.2.state != .free && !e.2.memberIndex && !e.2.spilled).length

/-- The entry to spill (R238): the settled one that settled earliest, else the PENDING one allocated earliest; never one
of a request in progress. -/
def State.victim (s : State) (l : Lease) (die : Nat) (keep : List Nat) : Option Nat :=
  let c := (s.entriesOf l die).filter fun e => !e.2.spilled && !e.2.memberIndex && !keep.contains e.1
  let least (l : List (Nat × Nat)) : Option Nat :=
    (l.foldl (fun (b : Option (Nat × Nat)) x => match b with
      | none => some x
      | some y => if x.2 < y.2 then some x else some y) none).map (·.1)
  match least ((c.filter fun e => e.2.isSettled).map fun e => (e.1, e.2.settled)) with
  | some k => some k
  | none => least ((c.filter fun e => e.2.state == .pending).map fun e => (e.1, e.2.made))

/-- A Spool state from its code (R203). -/
def FutureState.ofCode : Nat → FutureState
  | 1 => .pending
  | 2 => .waited
  | 3 => .resolved
  | 4 => .poisoned
  | 5 => .cancelled
  | _ => .free

/-- An entry as its body gives it (R232). -/
def Entry.ofBody (e : Entry) (bs : List Byte) : Entry :=
  let w (i : Nat) : Nat := leNat ((bs.drop (8 * i)).take 8)
  let st := FutureState.ofCode (w 3 % 16)
  { e with
    state := st, value := if st = .resolved then w64 (w 0) else 0, record := w64 (w 1 % 2 ^ 56), bound := w 2 % 2 ^ 32
    live := (w 2).testBit 32, notask := (w 2).testBit 33, grid := (w 2).testBit 34, fos := (w 2).testBit 35
    members := w 2 / 2 ^ 36 % 2 ^ 13, left := BitVec.ofNat 12 (w 3 / 2 ^ 4), cause := BitVec.ofNat 8 (w 3 / 2 ^ 16)
    settler := BitVec.ofNat 12 (w 3 / 2 ^ 24), leftAtSettle := BitVec.ofNat 12 (w 3 / 2 ^ 36), ver := BitVec.ofNat 16 (w 3 / 2 ^ 48) }

/-- The entry is spilled: its body goes to the spill area (R233), and a borrowed body returns (R238). -/
def State.spill (s : State) (ix key : Nat) : State :=
  ((s.setEntry key { s.entry key with spilled := true }).syncSpill key).onLease ix fun l => { l with borrowed := l.borrowed - 1 }

/-- A body for an allocation (R238, check 5 of R234): none when nothing can be spilled. -/
def State.makeRoom (s : State) (ix die : Nat) : Option State :=
  let l := s.lease ix
  if s.resident l die < l.quota then some s
  else (s.victim l die []).map fun k => s.spill ix k

/-- Bodies borrowed from the reserve of a die of a device (R230, R238). -/
def State.reserveUsed (s : State) (phys : Nat) : Nat :=
  s.leases.foldl (fun n e => if e.2.live && e.2.phys == phys then n + e.2.borrowed else n) 0

/-- A spilled entry refilled, its body read back (R233, R238): by spilling another that is not kept, from the reserve, or
not yet. -/
def State.refill (s : State) (keep : List Nat) (key : Nat) : Option State :=
  let e := s.entry key
  if !e.spilled then some s
  else
    match s.leaseOfEntry key with
    | none => some s
    | some ix =>
      let l := s.lease ix
      let back (s : State) : State :=
        s.setEntry key { (s.entry key).ofBody (s.mem.bytes (l.spillPlace key) 32) with spilled := false }
      if s.resident l (key / 65536) < l.quota then some (back s)
      else
        match s.victim l (key / 65536) (key :: keep) with
        | some k => some (back (s.spill ix k))
        | none =>
          if s.reserveUsed l.phys < 1440 then some ((back s).onLease ix fun l => { l with borrowed := l.borrowed + 1 }) else none

/-- The entry becomes FREE: its generation advances, and a borrowed body returns (R231, R238). -/
def State.freeEntry (s : State) (key : Nat) : State :=
  let e := s.entry key
  let s := match s.leaseOfEntry key with
    | some ix => s.dropBlocks ix e.waitBlocks
    | none => s
  let s' := { s.setEntry key { Entry.free with gen := e.gen + 1, freed := s.seq } with seq := s.seq + 1 }
  match s.leaseOfEntry key with
  | some ix => if e.spilled then s' else s'.onLease ix fun l => { l with borrowed := l.borrowed - 1 }
  | none => s'

/-- Identities in flits of 12 (R239). -/
def wakeFlits : Nat → List Nat → List (List Nat)
  | 0, _ => []
  | n + 1, l => if l.isEmpty then [] else l.take 12 :: wakeFlits n (l.drop 12)

/-- Wake flits to each distinct cluster that holds waiters, in the order of registration (R239). -/
def State.wakeAll (s : State) (die : Nat) (h : Word) (ws : List Nat) : State :=
  let clusters := (ws.map fun w => (s.task w).pos).eraseDups
  clusters.foldl (fun s p =>
    let mine := ws.filter fun w => (s.task w).pos == p
    (wakeFlits (mine.length + 1) mine).foldl (fun s l => s.fly 0 (spoolEnd die) (loomEnd p) 2 (.wake p l h)) s) s

/-- An entry settles (R235): waiters are woken, FOS frees it, and a root's poison or cancel ends its launch (R251).
`by'` is the settling task, `sub` its sub-version; of a fault-record address the body holds [55:0] (R232). -/
def State.settle (s : State) (key : Nat) (h : Word) (st : FutureState) (value : Word) (cause : BitVec 8) (record : Word)
    (by' : Option Nat) (sub : BitVec 12) : State :=
  let e := s.entry key
  let ws := e.waiters
  let e' : Entry := { e with
    state := st, value := value, cause := cause, record := w64 (bits record 55 0), settler := sub, settlerTask := by'
    leftAtSettle := e.left, settled := s.seq }
  let s := ({ s.setEntry key e' with seq := s.seq + 1 }.setWaiters key []).syncSpill key
  let s := s.wakeAll (key / 65536) h ws
  let s :=
    match s.launch? e.ver.toNat with
    | some l =>
      if l.root != 0 && hKey l.root == key && st != .resolved then
        s.failLaunch e.ver.toNat (if st == .cancelled then 0x23 else cause)
      else s
    | none => s
  if e.fos then s.freeEntry key else s

/-- KEEP marks tasks and their sub-version (R202). -/
def State.markKept (s : State) (ver : Nat) (sub : BitVec 12) (ids : List Nat) : State :=
  let s := ids.foldl (fun s id => s.onTask id fun t => { t with kept := true }) s
  s.onLaunch ver fun l => { l with subvs := l.subvs.put sub.toNat .kept }

/-- KEEP of the task that settled an entry, implied by a task that is not speculative (R240, R202): a live one is
marked, a retired one folds at once, and one that is marked already stays as it is. -/
def State.keepSettler (s : State) (e : Entry) : State :=
  if e.settler = 0 then s
  else
    match s.subState e.ver.toNat e.settler, e.settlerTask with
    | some .live, some id =>
      if (s.task id).live && (s.task id).subv == e.settler then s.markKept e.ver.toNat e.settler [id]
      else s.fold e.ver.toNat e.settler
    | _, _ => s

/-- A task observes a settlement (R240). -/
def State.observe (s : State) (id key : Nat) : State :=
  let t := s.task id
  let e := s.entry key
  if t.spec && t.subv != 0 then (if t.subv == e.settler then s else s.setEntry key { e with observers := id :: e.observers })
  else s.keepSettler e

/-- The observers of a speculative settlement outlive the entry that they freed (R240). -/
def State.keepObservers (s : State) (e : Entry) : State :=
  if e.settler = 0 then s
  else s.onLaunch e.ver.toNat fun l => { l with observed := e.observers.map (fun o => (e.settler, o)) ++ l.observed }

/-- One consumption (R198, R235): at 0 the entry becomes FREE. -/
def State.consume (s : State) (key : Nat) (nc : Bool) : State :=
  let e := s.entry key
  if nc || e.cnt = 0 then s
  else
    let left := if e.left = 0 then 0 else e.left - 1
    let s := s.setEntry key { e with left := left }
    if left = 0 then (s.keepObservers e).freeEntry key else s

/-- The poison word of TOUCHS (R198). -/
def poisonWord (e : Entry) : Word :=
  w64 ((if e.state == .cancelled then 0x23 else 0x22) + e.cause.toNat <<< 8 + bits e.record 55 8 <<< 16)

/-- The state word of FSTAT (R203). -/
def fstatWord (e : Entry) : Word :=
  w64 (e.state.code + e.left.toNat <<< 4 + e.cause.toNat <<< 16 + bit e.spilled <<< 24)

/-- The entry's bound tasks that are live: one, or the members of a grid (R196, R201). -/
def State.bound (s : State) (e : Entry) (h : Word) : List Nat :=
  if e.notask then []
  else if e.grid then (s.liveTasks.filter fun t => t.2.self == h).map (·.1)
  else if (s.task e.bound).live && (s.task e.bound).self == h then [e.bound] else []

/-- What a request comes to at its home Spool: the state, the answer's word, a trap, whether the entry was RESOLVED,
and whether the requester is registered and must wait. -/
structure SpoolReply where
  s : State
  word : Word := 0
  trap : Option (BitVec 8 × Word × Word) := none
  settled : Bool := false
  park : Bool := false

/-- Registration of a waiter (R235). -/
def State.enroll (s : State) (key id : Nat) : State :=
  let e := s.entry key
  (s.setEntry key { e with state := .waited }).setWaiters key (if e.waiters.contains id then e.waiters else e.waiters ++ [id])

/-- A requester waits for a refill that finds no body (R238): the entry keeps its state. -/
def State.await (s : State) (key id : Nat) : State :=
  let e := s.entry key
  s.setWaiters key (if e.waiters.contains id then e.waiters else e.waiters ++ [id])

/-- TOUCH and TOUCHS at the Spool (R198): a spilled entry is refilled first. -/
def spoolTouch (s : State) (id key : Nat) (nc quiet : Bool) : SpoolReply :=
  match s.refill [] key with
  | none => { s := s.await key id, park := true }
  | some s =>
  let e := s.entry key
  if e.state == .resolved then
    { s := (s.observe id key).consume key nc, word := e.value, settled := true }
  else if e.isSettled then
    let s := s.observe id key
    if quiet then { s := s.consume key nc, word := poisonWord e }
    else { s := s.consume key nc, trap := some (if e.state == .cancelled then 0x23 else 0x22, e.record, w64 e.cause.toNat) }
  else { s := s.enroll key id, park := true }

/-- KEEP at the Spool (R202): a live task's sub-version is marked, a retired one's folds at once. A cancelled task that is not
speculative answers NOT_SPEC, the model's choice (log 56). -/
def spoolKeep (s : State) (e : Entry) (h : Word) : SpoolReply :=
  if e.notask || (e.bsub = 0 && !e.folded && !e.dropped) then { s := s, word := 0x94 }
  else if e.dropped || e.state == .cancelled then { s := s, word := 0x93 }
  else if e.folded || s.subState e.ver.toNat e.bsub == some .kept then { s := s }
  else
    match s.bound e h with
    | [] => { s := s.fold e.ver.toNat e.bsub }
    | ids => { s := s.markKept e.ver.toNat e.bsub ids }

/-- FDROP at the Spool (R200, R235). -/
def spoolDrop (s : State) (key : Nat) : SpoolReply :=
  let e := s.entry key
  if e.cnt = 0 then { s := s }
  else if e.isSettled then { s := s.consume key false }
  else if e.left = 0 then { s := s }
  else { s := s.setEntry key { e with left := e.left - 1, fos := e.fos || e.left - 1 = 0 } }

/-- CANCEL at the Spool (R201, R235). A task that cancels itself has CANP set before its status is written. -/
def spoolCancel (s : State) (id key : Nat) (h : Word) : SpoolReply :=
  let e := s.entry key
  let live := s.bound e h
  let done := e.isSettled
  let s := live.foldl (fun s i => if i == id then s.onTask i fun t => { t with canp := true }
    else s.fly i (spoolEnd (hDie h)) (loomEnd (s.task i).pos) 2 (.cancel i)) s
  if done then { s := s, word := 0x93 } else { s := s.settle key h .cancelled 0 0 0 none 0 }

/-- The settlement that a retiring task makes of its own entry (R196, R204, R249, R251). -/
def spoolRetire (s : State) (id key : Nat) (h : Word) (st : FutureState) (x : Word) (cause : BitVec 8) (record : Word) :
    SpoolReply :=
  let e := s.entry key
  let sub := if st == .cancelled then 0 else (s.task id).subv
  if e.grid then
    let left := e.members - 1
    let s := s.setEntry key { e with members := left, live := left != 0 }
    if e.isSettled then { s := s }
    else if st == .resolved then
      (if left = 0 then { s := s.settle key h .resolved (w64 e.total) 0 0 (some id) sub } else { s := s })
    else { s := s.settle key h st 0 cause record (some id) sub }
  else
    let s := s.setEntry key { e with live := false }
    if e.isSettled then { s := s } else { s := s.settle key h st x cause record (some id) sub }

/-- Every spilled entry among handles refilled (R235, R238), or the first that cannot be yet. -/
def State.refillAll (s : State) (keep : List Nat) : List Word → State × Option Word
  | [] => (s, none)
  | h :: hs => match s.refill keep (hKey h) with
    | none => (s, some h)
    | some s => State.refillAll s keep hs

/-- TOUCHANY at the Spools (R199): every handle is checked and the lowest that fails decides the trap; then the lowest
settled entry answers. -/
def spoolTouchany (s : State) (id n : Nat) (hs : VWord) : SpoolReply :=
  let l := (List.range n).map fun i => (i, w64 (lane hs 64 i))
  let stale (h : Word) : Bool := (s.entry (hKey h)).gen != hGen h || (s.entry (hKey h)).isFree
  match l.find? fun e => !s.goodHandle e.2 || stale e.2 with
  | some e => { s := s, trap := some (if s.goodHandle e.2 then 0x20 else 0x21, e.2, 0) }
  | none =>
    if (s.task id).canp then { s := s, park := true }
    else match s.refillAll (l.map fun e => hKey e.2) (l.map (·.2)) with
    | (s, some h) => { s := s.await (hKey h) id, park := true }
    | (s, none) =>
      match l.find? fun e => (s.entry (hKey e.2)).isSettled with
      | some e =>
        let st := match (s.entry (hKey e.2)).state with
          | .resolved => 0x03
          | .poisoned => 0x22
          | _ => 0x23
        { s := s.observe id (hKey e.2), word := w64 (e.1 + st * 256), settled := true }
      | none => { s := l.foldl (fun s e => s.enroll (hKey e.2) id) s, park := true }

/-- A request acts on its entry (R235, R236). A waiting request of a task whose CANP is set goes no further than the checks
of its handles: the task retires when it is answered (R198). -/
def spoolAct (s : State) (id : Nat) (op : SpoolOp) (h : Word) : SpoolReply :=
  let key := hKey h
  let e := s.entry key
  match op with
  | .touchany n hs => spoolTouchany s id n hs
  | _ =>
    if e.gen != hGen h || e.isFree then
      match op with
      | .retire _ | .retireCancelled | .retirePoisoned .. => { s := s }
      | _ => { s := s, trap := some (0x20, h, 0) }
    else
      match op with
      | .touch nc => if (s.task id).canp then { s := s, park := true } else spoolTouch s id key nc false
      | .touchs nc _ => if (s.task id).canp then { s := s, park := true } else spoolTouch s id key nc true
      | .touchany _ _ => { s := s }
      | .resolve x =>
        if e.isSettled then { s := s, word := 0x93 }
        else { s := s.settle key h .resolved x 0 0 (some id) (s.task id).subv }
      | .poison c r =>
        if e.isSettled then { s := s, word := 0x93 }
        else { s := s.settle key h .poisoned 0 (if c = 0 then 0x31 else c) r (some id) (s.task id).subv }
      | .cancel => spoolCancel s id key h
      | .keep => spoolKeep s e h
      | .fdrop => spoolDrop s key
      | .fstat => { s := s, word := fstatWord e }
      | .retire x => spoolRetire s id key h .resolved x 0 0
      | .retireCancelled => spoolRetire s id key h .cancelled 0 0 0
      | .retirePoisoned c r => spoolRetire s id key h .poisoned 0 c r

end Sys2Proof.Machine
end

