-- ==== Sys2Proof/Machine/Tasks.lean ====
section
/-! DEFINITION. Class 0x9: spawning, waiting on futures, settling and managing them, leaving the slot (R187 to R205,
R234, R242, R257). -/
namespace Sys2Proof.Machine

open Sys2Proof

/-- The owner of a job-virtual address as a core key (R257): a window's core, or the hash of the granule. -/
def State.ownerCore (s : State) (pos : Nat) (a : Word) : Nat :=
  let va := a.toNat
  if windowBase ≤ va then coreOfKey (va - windowBase)
  else if ownBase ≤ va then pos * 8 + (va - ownBase) / 0xC0000
  else
    let cs := s.positions
    cs.getD (bits a 55 11 % cs.length) pos * 8 + bits a 8 6

/-- The frame record of a Spool index of a lease (R242). -/
def Lease.frameOf (l : Lease) (idx : Nat) : Nat := l.frameArea + (idx - l.spoolFirst) * 6144

/-- The task index is taken: a live task has it, or something on its way still names it. -/
def State.indexBusy (s : State) (id : Nat) : Bool :=
  (s.task id).live || (s.task id).chunkDue || (s.flight.any fun f => f.task == id) || (s.commands.any fun c => c.task == id)

/-- A free task index of a cluster, searched from a start (R11; assumption log 7). -/
def State.indexFrom (s : State) (pos : Nat) : Nat → Nat → Option Nat
  | 0, _ => none
  | n + 1, i => if s.indexBusy (pos * 65536 + i % 65536) then State.indexFrom s pos n (i + 1) else some (pos * 65536 + i % 65536)

/-- How many task indices of a cluster are taken (check 4 of R234). -/
def State.indicesUsed (s : State) (pos : Nat) : Nat := (s.tasks.filter fun e => e.1 / 65536 == pos && s.indexBusy e.1).length

/-- A task index taken on a cluster: its needle generation advances when it is reused (R207, R354). -/
def State.takeIndex (s : State) (pos : Nat) : Option (State × Nat × BitVec 7) :=
  (s.indexFrom pos 65536 (Config.taskIndexHint s.fresh).toNat).map fun id =>
    let g : BitVec 7 := match (s.cluster pos).gens.find (id % 65536) with
      | some g => g + 1
      | none => 0
    (s.freshen.onCluster pos fun c => { c with gens := c.gens.put (id % 65536) g }, id, g)

/-- The count of a launch's live speculative tasks (check 1 of R234). -/
def State.liveSpec (s : State) (ver : BitVec 16) : Nat := (s.liveTasks.filter fun e => e.2.ver == ver && e.2.spec).length

/-- A sub-version of a launch that is not in use (R312): neither it nor a task or access that still carries it. -/
def State.freeSub (s : State) (l : Launch) : Option Nat :=
  let carried (k : Nat) (t : Task) : Bool := t.ver.toNat == l.ver && t.subv.toNat == k
  (List.range 4095).map (· + 1) |>.find? fun k =>
    (match l.subvs.find k with
     | some .live => false
     | some .kept => false
     | _ => true) &&
      !(s.liveTasks.any fun e => carried k e.2) && !(s.flight.any fun f => carried k (s.task f.task))

/-- The argument block as read (R192). -/
structure ArgBlock where
  words : List (Nat × Word)
  scalars : List Word
  tiles : List (Nat × Nat × Nat × Nat × Nat)
  /-- the first word read that holds an uncorrectable error: its trap is the last to be found (rank 13 of R270) -/
  bad : Option Word

/-- No block (R192). -/
def ArgBlock.none : ArgBlock := ⟨[(0, 0)], [], [], .none⟩

/-- The 8-byte words of a block that its counts name, after word 0 (R192). -/
def argOffsets (ns nt : Nat) : List Nat :=
  ((List.range ns).map fun j => 8 + 8 * j) ++ ((List.range (2 * nt)).map fun j => 0x48 + 8 * j)

/-- A request for words of the block at their offsets; MISALIGNED reports the block's size (R192). -/
def argReq (blk : Word) (offs : List Nat) : Req := ⟨blk, 136, 0, offs.map fun o => (blk + w64 o, 8, o)⟩

/-- The block lies at a multiple of 8 (R192). -/
def argAlign (r : Req) : Option (BitVec 8) := if r.va.toNat % 8 = 0 then none else some 0x12

/-- Words read by the issuing task at once (R192). -/
def readWords (ps : List Part) (s : State) : State × List (Nat × Word) :=
  ps.foldl (fun r p =>
    let x := r.1.loadPart r.1.me.core r.1.me.ver.toNat r.1.me.subv p.loc 8
    (x.1, r.2 ++ [(p.off, w64 (leNat x.2))])) (s, [])

/-- A tile argument's words (R192): pattern and origin. -/
def tileArg (ws : List (Nat × Word)) (j : Nat) : Nat × Nat × Nat × Nat × Nat :=
  let at' (o : Nat) : Word := (Store.find ws o).getD 0
  let a := at' (0x48 + 16 * j)
  let b := at' (0x50 + 16 * j)
  (bits b 7 0, bits a 31 0, bits a 63 32, bits b 23 8, bits b 39 24)

/-- The parts that hold no uncorrectable error, and the first that does (R283). -/
def State.sound (s : State) (ps : List Part) : List Part × Option Word :=
  (ps.filter fun p => !s.isMarked p.loc p.size, (ps.find? fun p => s.isMarked p.loc p.size).map fun p => p.loc.va)

/-- Work done, unless data that it read holds an uncorrectable error, found after every other check (rank 13 of R270). -/
def sound (bad : Option Word) (work : State → Res) (s : State) : Res :=
  match bad with
  | some a => .trap 0x40 a 0
  | none => work s

/-- SPAWN and SPAWNG read the argument block, then go on (R192). -/
def withArgs (r : Reg) (work : ArgBlock → State → Res) (s : State) : Res :=
  if r = .s 0 then work .none s
  else
    let blk := s.me.get64 r
    checked .read argAlign [argReq blk [0]] (fun ps s =>
      let (ps, spoilt) := s.sound ps
      let (s, w) := readWords ps s
      let w0 : Word := (Store.find w 0).getD 0
      let ns := bits w0 3 0
      let nt := bits w0 6 4
      if 8 < ns || 4 < nt then .trap 0x1A blk w0
      else
        checked .read argAlign [argReq blk (argOffsets ns nt)] (fun ps s =>
          if w0 >>> 7 != 0 then .trap 0x1A blk w0
          else
            let (ps, more) := s.sound ps
            let (s, ws) := readWords ps s
            let bad := (List.range nt).any fun j => bits ((Store.find ws (0x50 + 16 * j)).getD 0) 63 40 != 0
            if bad then .trap 0x1A blk w0
            else work ⟨(0, w0) :: ws, (List.range ns).map fun j => (Store.find ws (8 + 8 * j)).getD 0,
              (List.range nt).map (tileArg ws), spoilt.or more⟩ s) s) s

/-- The home cluster of a child (R190, R191): none for `.at` with an unpopulated position. Bits [63:32] of the position word are
ignored, like its core and slot (the model's choice, log 56). -/
def placement (f : Fields) (s : State) (near : Word) : Option Nat :=
  let t := s.me
  match fld f.mod 7 6 with
  | 0 => some t.pos
  | 1 => if s.populated (bits (s.sc f) 31 16) then some (bits (s.sc f) 31 16) else none
  | 2 => if s.translates t.lease t.pos near then some (s.ownerCore t.pos near / 8) else some t.pos
  | _ => some ((s.lease t.lease).positions.getD (Config.anyPlacement s.fresh).toNat t.pos)

/-- A member to be made: its home cluster, and for a grid its origin and extents (R196). -/
structure Member where
  pos : Nat
  org : Vector Word 4
  ext : Vector Word 4

/-- The checks of R234 in their order for children at given clusters; the trap's information, or none. -/
def spawnRefused (s : State) (spec newSub : Bool) (ms : List Nat) : Option Nat :=
  let t := s.me
  let l := s.lease t.lease
  let die := dieOf t.pos
  let noSub := newSub && (match s.launch? t.ver.toNat with
    | some l => (s.freeSub l).isNone
    | none => false)
  if spec && decide (4096 ≤ s.liveSpec t.ver + ms.length) then some 1
  else if noSub then some 4
  else if s.freeCount l die < Nat.max 1 ms.length then some 2
  else if ms.any fun p => decide (65536 < s.indicesUsed p + (ms.filter fun q => q == p).length) then some 3
  else if (s.makeRoom t.lease die).isNone then some 0
  else none

/-- A Spool entry made PENDING (R194, R231, R235): its handle and the state. Room for its body is made first. -/
def State.allocate (s : State) (ix die cnt : Nat) (e : Entry) : Option (State × Word × Nat) :=
  (s.freeIndex (s.lease ix) die).bind fun idx =>
    (s.makeRoom ix die).map fun s =>
      let key := die * 65536 + idx
      let gen := (s.entry key).gen
      let e := { e with state := .pending, gen := gen, left := BitVec.ofNat 12 cnt, cnt := BitVec.ofNat 12 cnt, made := s.seq }
      ({ s.setEntry key e with seq := s.seq + 1 }, s.makeHandle die idx gen cnt, key)

/-- A task queued by its home Loom (R193, R242, R243): READY at once when it has no tiles. Its entry is still to be
checked as a target (R39). -/
def State.addTask (s : State) (id : Nat) (t : Task) : State :=
  let t := { t with
    live := true, loom := if t.tiles.isEmpty then .ready else .queued, wait := .no, slot := none, stamp := s.seq, agedAt := s.now, tgt := some 0 }
  { s.setTask id t with seq := s.seq + 1 }

/-- A scalar register file with the scalar arguments (R193). -/
def argRegs (xs : List Word) : Regs :=
  (xs.zip (List.range xs.length)).foldl (fun r e => r.setValue (.s (Fin.ofNat 64 (e.2 + 1))) (e.1.setWidth 2048)) Regs.zero

/-- One child made: its index, its frame record with the argument copy in it, and its registers (R192 to R195, R242). What
the counts of the block do not name is zero in the copy (assumption log 25). `idx` is the Spool index whose record it
uses. -/
def State.makeChild (s : State) (f : Fields) (args : ArgBlock) (h : Word) (idx : Nat) (spec : Bool) (subv : BitVec 12)
    (m : Member) (member : Option Nat) : Option (State × Nat) :=
  let p := s.me
  (s.takeIndex m.pos).map fun (s, id, g) =>
    let rcd := (s.lease p.lease).frameOf idx
    let tiles := args.tiles.map fun (px, i0, i1, i2, i3) => (⟨⟨s.pat p.lease px, i0, i1, i2, i3⟩, none, 0, false, none⟩ : TileArg)
    let s := s.devicePut p.lease (rcd + 0x1400) (List.replicate 1024 0)
    let s := args.words.foldl (fun s w => s.devicePut p.lease (rcd + 0x1400 + w.1) (leBytes 8 w.2.toNat)) s
    let t : Task := { Task.none with
      regs := argRegs args.scalars, pc := s.me.get64 f.a.reg, spec := spec, stay := f.mod.getLsbD 2
      prio := BitVec.ofNat 2 (fld f.mod 5 4), ver := p.ver, subv := subv, recIx := p.recIx, self := h
      arg := w64 (rcd + 0x1400), parent := p.self, org := m.org, ext := m.ext, gen := g, lease := (s.cluster m.pos).lease
      pos := m.pos, entry := s.me.get64 f.a.reg, tiles := tiles, record := rcd, member := member }
    ((s.addTask id t).saveFrame id, id)

/-- The issuing task's child list with a handle (R195). -/
def State.addChildHandle (s : State) (h : Word) : State := s.setChildren s.cur (s.me.children ++ [h])

/-- The sub-version a child runs under (R195): a new one, its parent's, or none. -/
def childSub (f : Fields) (s : State) : Bool × Bool := (s.me.spec || f.mod.getLsbD 3, !s.me.spec && f.mod.getLsbD 3)

/-- A new sub-version taken where one is needed (R195), with nothing left of an earlier use of its number (R306). -/
def State.takeSub (s : State) (new : Bool) : State × BitVec 12 :=
  if !new then (s, s.me.subv)
  else
    match (s.launch? s.me.ver.toNat).bind s.freeSub with
    | none => (s, 0)
    | some k => ((s.eraseSub s.me.ver.toNat (BitVec.ofNat 12 k)).onLaunch s.me.ver.toNat fun l =>
        { l with subvs := l.subvs.put k .live }, BitVec.ofNat 12 k)

/-- Further members of a grid, each with an index of the Spool range of its own (R196). -/
def State.makeMembers (s : State) (f : Fields) (args : ArgBlock) (h : Word) (spec : Bool) (subv : BitVec 12) :
    List Member → State
  | [] => s
  | m :: ms =>
    let die := dieOf s.me.pos
    match s.freeIndex (s.lease s.me.lease) die with
    | none => s
    | some idx =>
      let key := die * 65536 + idx
      let s := s.setEntry key { s.entry key with memberIndex := true }
      match s.makeChild f args h idx spec subv m (some key) with
      | none => s
      | some (s, _) => State.makeMembers s f args h spec subv ms

/-- The children of a SPAWN or SPAWNG made after its checks (R190 to R196, R234). -/
def spawnWork (f : Fields) (args : ArgBlock) (cnt : Nat) (grid : Bool) (ms : List Member) (s : State) : Res :=
  let (spec, newSub) := childSub f s
  match spawnRefused s spec newSub (ms.map (·.pos)) with
  | some n => .trap 0x24 0 (w64 n)
  | none => sound args.bad (fun s =>
    let (s, sub) := s.takeSub newSub
    let e : Entry := { Entry.free with
      live := true, grid := grid, members := if grid then ms.length else 0, total := ms.length, ver := s.me.ver, bsub := sub }
    match ms, s.allocate s.me.lease (dieOf s.me.pos) cnt e with
    | m :: rest, some (s, h, key) =>
      match s.makeChild f args h (key % 65536) spec sub m none with
      | some (s, id) =>
        let s := s.setEntry key { s.entry key with bound := id }
        let s := (s.makeMembers f args h spec sub rest).addChildHandle h
        .ok (s.put f.dst h)
      | none => .trap 0x24 0 3
    | _, _ => .trap 0x24 0 2) s

/-- A cancellation point at issue (R194, R198, R204): with CANP the task retires CANCELLED there. -/
def cancelPoint (work : State → Res) (s : State) : Res :=
  if s.me.canp then .gone (s.cancelTask s.cur) else work s

/-- Zeros for a task that is no grid member (R21). -/
def zero4 : Vector Word 4 := Vector.replicate 4 0

/-- SPAWN (R190 to R195): a release point and a cancellation point. -/
def execSpawn (f : Fields) (s : State) : Out :=
  instr f (cancelPoint (released (withArgs f.b.reg fun args s =>
    match placement f s (s.sc f) with
    | none => .trap 0x1A 0 (s.sc f)
    | some p => spawnWork f args (fld f.imm 11 0) false [⟨p, zero4, zero4⟩] s.freshen))) s

/-- The origin of a grid member (R196). -/
def gridOrigin (p : PatWord) (m : Nat) : Nat × Nat × Nat × Nat :=
  let t0 := (patE p 0 + patTcols p - 1) / patTcols p
  let t1 := (patE p 1 + patTrows p - 1) / patTrows p
  let t2 := patE p 2
  (m % t0 * patTcols p, m / t0 % t1 * patTrows p, m / t0 / t1 % t2, m / t0 / t1 / t2)

/-- The number of members of a grid (R196). -/
def gridMembers (p : PatWord) : Nat :=
  (patE p 0 + patTcols p - 1) / patTcols p * ((patE p 1 + patTrows p - 1) / patTrows p) * patE p 2 * patE p 3

/-- A grid member with the cluster its placement gives (R196). -/
def gridMember (f : Fields) (s : State) (p : PatWord) (m : Nat) : Option Member :=
  let (a, b, c, d) := gridOrigin p m
  (placement f s (w64 (elemAddr p a b c d))).map fun pos =>
    ⟨pos, #v[w64 a, w64 b, w64 c, w64 d], #v[w64 (clipCols p a), w64 (clipRows p b), 1, 1]⟩

/-- Every member of a grid, or none when a placement is refused. -/
def gridList (f : Fields) (s : State) (p : PatWord) : Nat → Nat → Option (List Member)
  | 0, _ => some []
  | n + 1, m => (gridMember f s p m).bind fun x => (gridList f s.freshen p n (m + 1)).map fun l => x :: l

/-- SPAWNG (R190, R191, R196). -/
def execSpawng (f : Fields) (s : State) : Out :=
  instr f (cancelPoint (released (withArgs f.b.reg fun args s =>
    let p := s.pat s.me.lease (pxOf f)
    if patEmpty p || fld p 63 56 == 0x15 || patTrows p = 0 || patTcols p = 0 || 4096 < gridMembers p
    then .trap 0x1A 0 (w64 (pxOf f))
    else
      match gridList f s p (gridMembers p) 0 with
      | none => .trap 0x1A 0 (s.sc f)
      | some ms => spawnWork f args (fld f.imm 11 0) true ms { s with fresh := s.fresh + gridMembers p }))) s

/-- FNEW (R191, R194): a future without a task. -/
def execFnew (f : Fields) (s : State) : Out :=
  instr f (fun s =>
    let t := s.me
    let die := dieOf t.pos
    if s.freeCount (s.lease t.lease) die < 1 then .trap 0x24 0 2
    else
      match s.allocate t.lease die (fld f.imm 11 0) { Entry.free with notask := true, ver := t.ver } with
      | some (s, h, _) => .ok (s.put f.dst h)
      | none => .trap 0x24 0 0) s

/-- DST empty while a request is out (R198 to R200); what it emptied is kept for a trap, which changes no presence bit
(R264). -/
def Task.request (t : Task) (f : Fields) : Task :=
  { t.clear f.dst with
    emptied := if f.dst != .s 0 && t.full f.dst then some (f.dst, f.a.reg == f.dst) else t.emptied }

/-- A request sent to a handle's home Spool; DST is empty and no later instruction of the task issues until its answer
(R189, R198 to R200). -/
def ask (f : Fields) (op : SpoolOp) (h : Word) (s : State) : Res :=
  .wait (.answer s.seq)
    ((s.fly s.cur (coreEnd s.me.core) (spoolEnd (hDie h)) 2 (.spool op h f.dst)).onMe fun t => t.request f)

/-- The first check of a handle (R189), then the work. -/
def withHandle (h : Word) (work : State → Res) (s : State) : Res :=
  if s.goodHandle h then work s else .trap 0x21 h 0

/-- TOUCH (R197, R198). It is a cancellation point once its handle has passed every check, at the Spool. -/
def execTouch (f : Fields) (s : State) : Out :=
  instr f (fun s => withHandle (s.sa f) (ask f (.touch (f.mod.getLsbD 0)) (s.sa f)) s) s

/-- The number of a q register. -/
def qNum : Reg → Fin 8
  | .q n => n
  | _ => 0

/-- TOUCHS (R197, R198): SC names the guard that it writes. -/
def execTouchs (f : Fields) (s : State) : Out :=
  run (issue f.guard [(1, f.a)] [] [f.dst, f.c.reg] fun s =>
    withHandle (s.sa f) (ask f (.touchs (f.mod.getLsbD 0) (qNum f.c.reg)) (s.sa f)) s) s

/-- The handles of a TOUCHANY. -/
def anyHandles (n : Nat) (v : VWord) : List Word := (List.range n).map fun i => w64 (lane v 64 i)

/-- TOUCHANY (R197, R199): the lowest failing handle decides the trap, found at the Spool of the first. -/
def execTouchany (f : Fields) (s : State) : Out :=
  instr f (fun s =>
    let v := s.me.value f.a.reg
    withHandle (w64 (lane v 64 0)) (ask f (.touchany (fld f.imm 5 0) v) (w64 (lane v 64 0))) s) s

/-- A request that manages a future (R200). -/
def manage (f : Fields) (op : State → SpoolOp) (s : State) : Out :=
  instr f (fun s => withHandle (s.sa f) (fun s => ask f (op s) (s.sa f) s) s) s

/-- RESOLVE (R200): a release point. -/
def execResolve (f : Fields) (s : State) : Out :=
  instr f (fun s => withHandle (s.sa f) (released fun s => ask f (.resolve (s.sb f)) (s.sa f) s) s) s
/-- POISON (R200): a release point. -/
def execPoison (f : Fields) (s : State) : Out :=
  instr f (fun s => withHandle (s.sa f)
    (released fun s => ask f (.poison (BitVec.ofNat 8 (bits (s.sb f) 7 0)) (s.sc f)) (s.sa f) s) s) s
/-- CANCEL (R200, R201). -/
def execCancel (f : Fields) (s : State) : Out := manage f (fun _ => .cancel) s
/-- KEEP (R200, R202). -/
def execKeep (f : Fields) (s : State) : Out := manage f (fun _ => .keep) s
/-- FDROP (R200). -/
def execFdrop (f : Fields) (s : State) : Out := manage f (fun _ => .fdrop) s
/-- FSTAT (R200, R203). -/
def execFstat (f : Fields) (s : State) : Out := manage f (fun _ => .fstat) s

/-- RETIRE (R204): the task ends at once; its release is ordered before its settlement (R298). A task that poisoned its own
entry retires POISONED (R251, R250). -/
def execRetire (f : Fields) (s : State) : Out :=
  instr f (fun s =>
    let s' := if s.me.poisoned then s.cancelChildren s.cur else s
    .gone (s'.endTask s.cur (.retire (s.sa f)))) s

/-- YIELD (R204): a cancellation point; a task that holds accumulators goes on. A frame records no producer of the core's
own: such a task waits until they have landed (R26). -/
def execYield (f : Fields) (s : State) : Out :=
  instr f (cancelPoint fun s =>
    if s.holdsAny s.cur then .ok s
    else if s.localPending s.cur then .wait .place s
    else .gone (((s.advance s.cur).ready s.cur).saveFrame s.cur)) s

end Sys2Proof.Machine
end

