-- ==== Sys2Proof/Machine/Comm.lean ====
section
/-! DEFINITION. Class 0xA at issue: needles and sends, messages, mailboxes, barrier nodes (R206 to R220, R354 to R366). -/
namespace Sys2Proof.Machine

open Sys2Proof

/-- The task identity that a needle names (R207). -/
def nTask (n : Word) : Nat := bits n 63 32
/-- The position that a needle names. -/
def nPos (n : Word) : Nat := bits n 63 48
/-- The register that a needle names. -/
def nReg (n : Word) : Reg := Reg.ofSpec (BitVec.ofNat 7 (bits n 31 25))
/-- The mode of a needle: 0 `.once`, 1 `.fill`, 2 `.over`, 3 `.add`. -/
def nMode (n : Word) : Nat := bits n 24 23
/-- The needle generation. -/
def nGen (n : Word) : BitVec 7 := BitVec.ofNat 7 (bits n 22 16)

/-- The needle for a register of a task (R207, R188). -/
def State.makeNeedle (s : State) (id : Nat) (reg : BitVec 7) (mode : Nat) : Word :=
  let x := w64 (id <<< 32 + reg.toNat <<< 25 + mode <<< 23 + (s.task id).gen.toNat <<< 16)
  x + w64 (checkN s.secret x)

/-- A register of a task is armed (R207). -/
def State.armed (s : State) (id : Nat) (r : Reg) : Bool := (s.cluster (id / 65536)).arms.contains (id % 65536, r)

/-- How many NEEDLEs wait for an arm before a task's (R359). -/
def Cluster.armsAhead (c : Cluster) (id : Nat) : Nat := (c.armWaiters.takeWhile fun i => i != id).length

/-- A NEEDLE `.once` takes an entry of the 4,096 of its home's arm table (R359, R336): none when it must wait. -/
def State.takeArm (s : State) (id : Nat) (r : Reg) : Option State :=
  let home := id / 65536
  let c := s.cluster home
  let gone (s : State) : State := s.onCluster home fun c => { c with armWaiters := c.armWaiters.filter fun i => i != id }
  if s.armed id r then some (gone s)
  else if c.arms.length + c.armsAhead id < 4096 then
    some ((gone s).onCluster home fun c => { c with arms := c.arms ++ [(id % 65536, r)] })
  else none

/-- A NEEDLE joins those that wait for an arm (R359). -/
def State.waitArm (s : State) (id : Nat) : State :=
  s.onCluster (id / 65536) fun c =>
    { c with armWaiters := if c.armWaiters.contains id then c.armWaiters else c.armWaiters ++ [id] }

/-- NEEDLE (R207): a wait for an arm is a cancellation point (R359). -/
def execNeedle (f : Fields) (s : State) : Out :=
  instr f (fun s =>
    let reg : BitVec 7 := BitVec.ofNat 7 (fld f.imm 6 0)
    let mode := fld f.mod 1 0
    let n := s.makeNeedle s.cur reg mode
    if mode = 0 then
      match s.takeArm s.cur (Reg.ofSpec reg) with
      | some s => .ok (s.put f.dst n)
      | none => .wait .arm (s.waitArm s.cur)
    else .ok (s.put f.dst n)) s

/-- A status that comes at issue (R208, R209): in DST, or as a trap. -/
def statusNow (f : Fields) (trap : Bool) (cause status : BitVec 8) (addr : Word) (s : State) : Res :=
  if trap && status != 0 then .trap cause addr (status.setWidth 64) else .ok (s.put f.dst (status.setWidth 64))

/-- A request that reports a status later (R209, R212, R214): with TRAP no later instruction issues until the answer,
else DST is emptied. -/
def reportLater (f : Fields) (trap : Bool) (dst : Nat) (b : Body') (s : State) : Res :=
  let s' := s.fly s.cur (coreEnd s.me.core) dst 0 b
  if trap then .wait (.answer s.seq) s' else .ok (s'.emptyDst f.dst)

/-- SEND and SENDV (R208, R209). -/
def sendWork (f : Fields) (vec : Bool) (x : State → VWord) (s : State) : Res :=
  let n := s.sa f
  let trap := f.mod.getLsbD 2
  let rel := f.mod.getLsbD 1
  let isVec := match nReg n with | .v _ => true | _ => false
  if !s.populated (nPos n) || bits n 15 0 != checkN s.secret n then .trap 0x21 n 1
  else if isVec != vec then statusNow f trap 0x25 0x92 n s
  else
    let go (s : State) : Res :=
      reportLater f trap (loomEnd (nPos n)) (.send n (x s) vec (f.mod.getLsbD 0) rel f.dst trap) s
    if rel then released go s else go s

/-- SEND (R208). -/
def execSend (f : Fields) (s : State) : Out := instr f (sendWork f false fun s => (s.sb f).setWidth 2048) s
/-- SENDV (R208). -/
def execSendv (f : Fields) (s : State) : Out := instr f (sendWork f true fun s => s.me.value f.b.reg) s

/-- CLR (R210): the register is empty, its value kept. -/
def execClr (f : Fields) (s : State) : Out := instr f (fun s => .ok (s.emptyDst f.dst)) s

/-- The position of a position word (R211). -/
def wordPos (w : Word) : Nat := bits w 31 16
/-- The core of a position word. -/
def wordCore (w : Word) : Nat := wordPos w * 8 + bits w 2 0

/-- A position word is legal and populated (R211): its other bits are zero; `box` admits a mailbox. -/
def State.goodWord (s : State) (w : Word) (box : Bool) : Bool :=
  w &&& ~~~ (if box then 0xFFFF0037#64 else 0xFFFF0007#64) == 0 && s.populated (wordPos w)

/-- The core that MSG `.near` sends to (R211, R257): none where the address names none. -/
def State.nearCore (s : State) (a : Word) : Option Nat :=
  let k := s.ownerCore s.me.pos a
  if s.translates s.me.lease s.me.pos a && s.populated (k / 8) then some k else none

/-- MSG (R211, R212). A refusal that traps reports the position word (R268); for `.near`, which names no position word, the
model reports the address in SA (assumption log 51). -/
def execMsg (f : Fields) (s : State) : Out :=
  instr f (fun s =>
    let w := s.sa f
    let near := f.mod.getLsbD 0
    let target : Option Nat := if near then s.nearCore w else if s.goodWord w false then some (wordCore w) else none
    match target with
    | none => .trap 0x1A 0 w
    | some core =>
      let m : Msg :=
        { id := Fin.ofNat 64 (fld f.imm 5 0), sender := BitVec.ofNat 32 s.cur, ver := s.me.ver, sent := s.now, addr := s.sc f
          payload := (s.me.value f.b.reg).setWidth 320, accepted := 0, bound := 0 }
      reportLater f (f.mod.getLsbD 1) (coreEnd core) (.message core m w f.dst (f.mod.getLsbD 1)) s) s

/-- A handler id bound on a core (R213): the messages accepted unbound take the first entry bound afterwards. -/
def State.bind (s : State) (k : Nat) (id : Fin 64) (e : Word) : State :=
  s.onCore k fun c =>
    { c with
      handlers := c.handlers.set id e
      inbox := c.inbox.map fun m => if m.id == id && m.bound == 0 then { m with bound := e } else m }

/-- MBIND (R213). -/
def execMbind (f : Fields) (s : State) : Out :=
  instr f (fun s =>
    let id := Fin.ofNat 64 (fld f.imm 5 0)
    let e := s.sa f
    let t := s.me
    let cores := if f.mod.getLsbD 0 then
        ((s.lease t.lease).positions.filter fun p => p / 128 == t.pos / 128).flatMap fun p => (List.range 8).map (p * 8 + ·)
      else [t.core]
    .ok (cores.foldl (fun s k => s.bind k id e) s)) s

/-- MPOST (R214, R220). -/
def execMpost (f : Fields) (s : State) : Out :=
  instr f (fun s =>
    let w := s.sa f
    if !s.goodWord w true || (s.cluster (wordPos w)).lease != s.me.lease then .trap 0x1A 0 w
    else
      let p : Post := ⟨s.sb f, BitVec.ofNat 16 (bits (s.sc f) 15 0), BitVec.ofNat 16 (bits (s.sc f) 31 16)⟩
      reportLater f false (coreEnd (wordCore w)) (.post (wordCore w) (Fin.ofNat 4 (bits w 5 4)) p f.dst) s) s

/-- A mailbox entry as an element of MTAKE (R215). -/
def Post.element (p : Post) : Nat := p.value.toNat + p.prio.toNat <<< 64 + p.tag.toNat <<< 80 + 1 <<< 96

/-- Drops counted by the drop monitor (R214, R424). -/
def State.countDrops (s : State) (k : Nat) : Nat → State
  | 0 => s
  | n + 1 => State.countDrops (s.sample (s.cluster (k / 8)).lease 0x0B k 1) k n

/-- MTAKE (R215, R362): DST is emptied, and filled after a fixed latency. -/
def execMtake (f : Fields) (s : State) : Out :=
  instr f (fun s =>
    let k := s.me.core
    let b : Fin 4 := Fin.ofNat 4 (fld f.imm 1 0)
    let n := fld f.imm 12 8
    let box := (s.core k).boxes.get b
    let give (s : State) (x : VWord) : Res := .ok ((s.onMe fun t => { t with fixed := t.fixed ++ [(f.dst, x)] }).emptyDst f.dst)
    if f.mod.getLsbD 1 then
      let s := s.countDrops k box.length
      give (s.onCore k fun c => { c with boxes := c.boxes.set b [], depths := c.depths.set b n }) 0
    else
      let x := vecOf 128 ((box.take n).map Post.element)
      give (if f.mod.getLsbD 0 then s else s.onCore k fun c => { c with boxes := c.boxes.set b (box.drop n) }) x) s

/-- A node's address is a multiple of 16 in a scratchpad window (R216). -/
def nodeAlign (r : Req) : Option (BitVec 8) :=
  if r.va.toNat % 16 = 0 && inWindow r.va.toNat then none else some 0x12

/-- The two words of a node, checked (R216, R122, R217): `init` asks for K = 0 on both. -/
def nodeAt (a : Word) (init : Bool) (work : Place → State → Res) (s : State) : Res :=
  checked (.tagged init) nodeAlign [⟨a, 16, 0, [(a, 8, 0), (a + 8, 8, 8)]⟩]
    (fun ps s => match ps with
      | p :: _ => work p.loc s
      | [] => .ok s) s

/-- An answer to a barrier's client on its way back (R218): a waiting one's keeps its request's number. -/
def State.answerNode (s : State) (node : Nat) (c : NodeClient) (word : Word) : State :=
  match c with
  | .child _ => s
  | .task id _ w =>
    let src := coreEnd (coreOfKey node)
    let dst := coreEnd (s.task id).core
    match w with
    | some k => s.sendBody ⟨k, id, src, dst, 2, .nodeAnswer c word⟩
    | none => s.fly id src dst 2 (.nodeAnswer c word)

/-- Word 0 of a node written. -/
def State.setNode (s : State) (n target arrived phase : Nat) : State :=
  { s with spad := ((s.spad.putNum n 2 target).putNum (n + 2) 2 arrived).putNum (n + 4) 4 phase }

/-- The status word of BWAIT and BARW (R218). -/
def barrierWord (phase token : Nat) (freed : Bool) : Word :=
  let old := decide (2 ≤ (phase + 2 ^ 32 - token % 2 ^ 32) % 2 ^ 32)
  w64 (phase + bit old <<< 32 + bit freed <<< 33)

/-- The FREED form of a held request's answer (R217 to R219). -/
def State.freedAnswer (s : State) (n : Nat) : HeldArrival → State
  | .barr c => s.answerNode n c (w64 (s.nodePhase n + 1 <<< 33))
  | .barw c => s.answerNode n c (barrierWord (s.nodePhase n) (s.nodePhase n) true)
  | .blink c _ => s.answerNode n c (w64 (0x1A + 1 <<< 33))
  | .child _ => s

/-- A node freed (R217): K is cleared on both words, and every request waiting or held there is answered FREED. -/
def State.freeNode (s : State) (n : Nat) : State :=
  let x := s.node n
  let s := x.waiters.foldl (fun s w => s.answerNode n w.client (barrierWord (s.nodePhase n) w.token.toNat true)) s
  let s := x.held.foldl (fun s h => s.freedAnswer n h) s
  ((s.setTag n (s.tagF n) false).setTag (n + 8) (s.tagF (n + 8)) false).onNode n fun _ => Node.idle

/-- A node set up (R217). -/
def State.initNode (s : State) (n target parent : Nat) : State :=
  let s := { s with spad := (s.spad.putNum n 8 target).putNum (n + 8) 8 parent }
  let s := ((s.setTag n true true).setTag (n + 8) true true).onNode n fun _ => Node.idle
  (s.serve n (s.bank.length + 1)).serve (n + 8) (s.bank.length + 1)

/-- BINIT (R217): performed at its bank before the task goes on. -/
def execBinit (f : Fields) (s : State) : Out :=
  instr f (fun s =>
    let free := f.mod.getLsbD 0
    nodeAt (s.sa f) (!free) (fun p s =>
      if s.heldBack s.cur s.seq 0 true [⟨p, 16, 0⟩] then .wait .place s
      else if free then .ok (s.freeNode p.addr)
      else if s.sb f = 0 || 65536 ≤ (s.sb f).toNat then .trap 0x1A 0 0
      else .ok (s.initNode p.addr (s.sb f).toNat (wideAddr s.me.pos (s.sc f).toNat % 2 ^ 48))) s) s

/-- A request sent to a node's bank on the sync channel (R367). -/
def State.toNode (s : State) (n : Nat) (b : Body') : State := s.fly s.cur (coreEnd s.me.core) (coreEnd (coreOfKey n)) 2 b

/-- BARR (R218): a release point; it does not wait. -/
def execBarr (f : Fields) (s : State) : Out :=
  instr f (fun s => nodeAt (s.sa f) false (fun p => released fun s =>
    .ok ((s.toNode p.addr (.arrive p.addr .barr (.task s.cur f.dst none))).emptyDst f.dst)) s) s

/-- BWAIT (R218): a cancellation point; it waits at the bank. -/
def execBwait (f : Fields) (s : State) : Out :=
  instr f (fun s => nodeAt (s.sa f) false (fun p => cancelPoint fun s =>
    .wait (.answer s.seq)
      (s.toNode p.addr (.nodeWait p.addr (BitVec.ofNat 32 (bits (s.sb f) 31 0)) (.task s.cur f.dst (some s.seq))))) s) s

/-- The wait object of a BARW that a gang-stop withdrew with its arrival counted (R366): its token. -/
def Task.standing (t : Task) : Option (BitVec 32) :=
  if t.wdr && bits t.waitObj 63 55 == 0x1FF then .some (BitVec.ofNat 32 (bits t.waitObj 31 0)) else .none

/-- BARW (R218, R366): a release and cancellation point; one whose arrival stands waits as a BWAIT. -/
def execBarw (f : Fields) (s : State) : Out :=
  instr f (fun s => nodeAt (s.sa f) false (fun p => cancelPoint fun s =>
    match s.me.standing with
    | some tok =>
      .wait (.answer s.seq) (s.toNode p.addr (.nodeWait p.addr tok (.task s.cur f.dst (some s.seq))))
    | none => released (fun s =>
        .wait (.answer s.seq) (s.toNode p.addr (.arrive p.addr .barw (.task s.cur f.dst (some s.seq))))) s) s) s

/-- BLINK (R219). -/
def execBlink (f : Fields) (s : State) : Out :=
  instr f (fun s => nodeAt (s.sa f) false (fun p s =>
    .ok ((s.toNode p.addr (.arrive p.addr (.blink (BitVec.ofNat 16 (bits (s.sb f) 15 0))) (.task s.cur f.dst none))).emptyDst
      f.dst)) s) s

end Sys2Proof.Machine
end

