-- ==== Sys2Proof/Machine/Image.lean ====
section
/-! DEFINITION. The bytes of a lease image (R334 to R340). What a rule lists without its place is an encoding that the spec
leaves open: `Config.imageField` of the contents (assumption log 29). -/
namespace Sys2Proof.Machine

open Sys2Proof

/-- Bytes cut or filled with zeros to a length. -/
def fit (n : Nat) (bs : List Byte) : List Byte := (bs.take n) ++ List.replicate (n - bs.length) 0

/-- A field of a context image whose inner map the spec does not give, in its length. -/
def imageField (n field : Nat) (contents : List Nat) : List Byte := fit n (Config.imageField field contents)

/-- A number for each operation that engines queue. -/
def EngineOp.code : EngineOp → Nat
  | .get => 0x500 | .put => 0x501 | .push => 0x502 | .layout => 0x503 | .cfill => 0x504 | .cquery => 0x505 | .permit => 0x506
  | .tileCopy j => 0x510 + j
  | .mgang => 0x800 | .mldb => 0x801 | .mma => 0x802 | .mzero => 0x803 | .mrdz => 0x804 | .mwrz => 0x805 | .mscale => 0x806
  | .mrel => 0x807 | .tmv => 0x808 | .mrelPending => 0x809

/-- What an engine context keeps of a command (R328, R336, R337): the command, its pattern copies, its progress, its hold
state. -/
def Command.words (c : Command) : List Nat :=
  [c.task, c.op.code, c.mod.toNat, c.dst.spec.toNat, c.ex, c.acc.val, c.a.toNat, c.b.toNat, c.c.toNat, c.px.toNat, c.py.toNat,
    c.pz.toNat, c.seed.toNat, c.mode.toNat, bit c.started, c.progress, c.ordinal, c.member] ++
    (match c.held with
     | some (neg, g) => [1, bit neg, g.val]
     | none => [0]) ++
    (match c.permit with
     | some p => [1, p.idx, p.granter, p.first, p.last, p.count]
     | none => [0]) ++ c.written

/-- The bits of a list as bytes, low first. -/
def bitsToBytes : Nat → List Bool → List Byte
  | 0, _ => []
  | n + 1, l => BitVec.ofNat 8 (leBits (l.take 8)) :: bitsToBytes n (l.drop 8)
where
  leBits : List Bool → Nat
    | [] => 0
    | b :: l => bit b + 2 * leBits l

/-- An engine unit as numbers. -/
def unitWords : EngineUnit → List Nat
  | .copy p => [0, p]
  | .slice k => [1, k]
  | .thresher p => [2, p]

/-- The location of an error whose report is pending (R333, R335). -/
def errorWords : SoftError → List Nat
  | .register id spec => [1, id, spec.toNat]
  | .producer k => [2, k]
  | .memory vdev pa => [3, vdev, pa]
  | .spad a => [4, a]
  | .line k host ln => [5, k, bit host, ln]
  | .engine u k => 6 :: unitWords u ++ [k]
  | .control ver => [7, ver]

/-- The header of a die quarter (R335). -/
def State.imageHeader (s : State) (lease : Nat) : List Byte :=
  leBytes 4 0x43324E47 ++ imageField 252 0
    ([1] ++ (ascii "GN2-0824" ++ ascii "B1").map BitVec.toNat ++ [s.job] ++ (s.lease lease).positions ++
      [s.cutAt.toNat, s.order.toNat])

/-- The lease fields of a die quarter (R335). -/
def State.imageLease (s : State) (lease : Nat) : List Byte :=
  let l := s.lease lease
  imageField 192 1 ([l.trapVec.toNat, l.age, l.glean, l.chunk, bit l.recorded, bit l.replay, l.quota, l.fillMask.toNat, l.dumpArea,
    l.bastingArea] ++ (s.pendingError.map errorWords).getD [])

/-- The Spool residency map (R335): bit `i` for index `i` of the lease's range. -/
def State.residencyMap (s : State) (lease : Nat) : List Byte :=
  let l := s.lease lease
  let there (i : Nat) : Bool :=
    let e := s.entry (s.leaseDie lease * 65536 + l.spoolFirst + i)
    decide (i < l.spoolCount) && e.state != .free && !e.spilled
  bitsToBytes 2048 ((List.range 16384).map there)

/-- The launch-record states (R335, R260): 2 bits a record. -/
def State.recordStates (s : State) (lease : Nat) : List Byte :=
  let st (i : Nat) : List Bool := match ((s.lease lease).records.find i).map fun (r : LaunchRecord) => r.state with
    | some .armed => [true, false]
    | some .running => [false, true]
    | _ => [false, false]
  bitsToBytes 1024 ((List.range 4096).flatMap st)

/-- The operations of a launch's tasks that are not acknowledged (R335, R316). -/
def State.outstanding (s : State) (ver : Nat) : Nat :=
  s.tasks.foldl (fun n e => if e.2.ver.toNat == ver then n + s.unacked e.1 else n) 0

/-- The launch table (R335): 32 bytes for each launch of the lease. -/
def State.launchTable (s : State) (lease : Nat) : List Byte :=
  fit 8192 ((s.launches.filter fun (e : Nat × Launch) => e.2.lease == lease).flatMap fun e =>
    let l := e.2
    imageField 32 2 ([l.ver, l.recIx.getD 0xFFF, l.root.toNat, l.charge, l.quota, l.retries, l.round] ++
      (l.answered.flatMap fun a => [a.1, a.2.1, a.2.2]) ++ (l.sent.map fun x => x.2) ++ [s.outstanding l.ver]))

/-- The die quarter (R335) with an image tag and block tags: 16 KiB. -/
def State.dieQuarter (s : State) (lease : Nat) (tag : List Byte) (blocks : List (List Byte)) : List Byte :=
  fit 256 (s.imageHeader lease) ++ fit 64 tag ++ s.imageLease lease ++ fit 2048 (s.residencyMap lease) ++
    fit 1024 (s.recordStates lease) ++ s.launchTable lease ++ fit 2304 blocks.flatten ++ List.replicate 2304 0

/-- The task index table of a cluster (R336): [6:0] the needle generation, [7] LIVE. -/
def State.indexTable (s : State) (pos : Nat) : List Byte :=
  (List.range 65536).map fun i =>
    let id := pos * 65536 + i
    BitVec.ofNat 8 ((((s.cluster pos).gens.find i).getD 0).toNat + 128 * bit (s.task id).live)

/-- The 16 bytes of a permit (R363). -/
def Permit.image (p : Permit) : List Byte :=
  wordBytes [p.idx % 65536 + p.words.headD 0, p.words.getD 1 0]

/-- A cluster block (R336): 256 KiB. The pattern table stands in the first cluster's block alone. -/
def State.clusterBlock (s : State) (pos : Nat) (first : Bool) : List Byte :=
  let c := s.cluster pos
  let pats : List Byte := if first then
      (List.range 256).flatMap fun n => leBytes 64 (((s.lease c.lease).pats.find n).getD 0).toNat
    else []
  let queues := [.queued, .ready].flatMap fun (w : Loom) =>
    ((s.liveTasks.filter fun e => e.2.pos == pos && e.2.loom == w).flatMap fun e => [e.1, e.2.prio.toNat, e.2.stamp, e.2.agedAt.toNat])
  fit 65536 (s.indexTable pos) ++ fit 65536 (c.forward.flatMap fun e => imageField 16 3 [e.1, e.2]) ++
    fit 32768 (c.arms.flatMap fun a => imageField 8 4 [a.1, a.2.spec.toNat]) ++
    fit 16384 (c.permits.flatMap Permit.image) ++
    fit 16384 (c.jobs.flatMap fun j => imageField 256 6 j.words) ++ fit 4096 (c.thresher.flatMap fun j => imageField 256 7 j.words) ++
    imageField 1024 8 (queues ++ c.tiles.flatMap fun b => [b.1, b.2.1, b.2.2.1, b.2.2.2]) ++ fit 16384 pats ++ List.replicate 16384 0 ++
    List.replicate 27648 0

/-- The tasks in the 16 slots of a core. -/
def State.slotTask (s : State) (k i : Nat) : Option (Nat × Task) :=
  s.tasks.find? fun e => e.2.live && e.2.core == k && e.2.slot == some i

/-- The slot table of a core (R337): the rank of a slot counts the slots that have issued more recently. -/
def State.slotTable (s : State) (k : Nat) : List Byte :=
  (List.range 16).flatMap fun i => match s.slotTask k i with
    | none => leBytes 4 0
    | some (_, t) =>
      let rank := ((List.range 16).filter fun j => (s.slotTask k j).any fun u => decide (t.issued < u.2.issued)).length
      leBytes 4 (1 + 2 * bit t.act.isSome + 256 * rank)

/-- The 64 bytes of a message (R212, R360). -/
def Msg.image (m : Msg) : List Byte :=
  leBytes 8 (m.id.val + m.ver.toNat <<< 16 + m.sender.toNat <<< 32) ++ leBytes 8 m.sent.toNat ++ leBytes 8 m.addr.toNat ++
    leBytes 40 m.payload.toNat

/-- The word at a row and column of accumulator `z` (R19: undefined where nothing has written it). -/
def Acc.cell (a : Acc) (z : Fin 2) (r n : Nat) : BitVec 32 :=
  match a.cells.find (r * 96 + n) with
  | some x => x
  | none => match a.epoch with
    | some e => Config.undefinedAcc e (z.val * 12288 + r * 96 + n)
    | none => 0

/-- An accumulator row by row (R337): 48 KiB. -/
def Acc.image (a : Acc) (z : Fin 2) : List Byte :=
  (List.range 128).flatMap fun r => (List.range 96).flatMap fun n => leBytes 4 (a.cell z r n).toNat

/-- A code for an accumulator's kind. -/
def AccKind.code : AccKind → Nat
  | .either => 0 | .fp32 => 1 | .int32 => 2

/-- What a core block keeps of the accumulators (R337): holder slot, kinds, scale products, gang, pending MGANG. -/
def State.accWords (s : State) (k : Nat) : List Nat :=
  let c := s.core k
  let holder := match c.holder with
    | some id => [1, ((s.task id).slot.getD 16)]
    | none => [0]
  let pending := match c.pending with
    | some (id, mask, d) => [1, id, mask.toNat, d.spec.toNat, c.pendingOrdinal]
    | none => [0]
  holder ++ (c.acc.toList.flatMap fun a => [a.kind.code, a.productMant, a.productExp.toNat, (-a.productExp).toNat]) ++
    [c.gang.toNat, c.gangStep, bit c.broken, bit c.release] ++ pending

/-- The core state at 0xF_6000 of a core block (R337): 4 KiB. -/
def State.coreWords (s : State) (k : Nat) : List Byte :=
  let c := s.core k
  let l := s.lease (s.cluster (k / 8)).lease
  fit 64 (s.slotTable k) ++ imageField 64 9 (s.accWords k) ++ fit 1024 (c.queue.flatMap fun j => imageField 128 10 j.words) ++
    fit 512 (c.handlers.toList.flatMap fun h => leBytes 8 h.toNat) ++
    fit 1024 (c.boxes.toList.flatMap fun b => fit 256 (b.flatMap fun p => imageField 16 11 [p.value.toNat, p.prio.toNat, p.tag.toNat])) ++
    imageField 16 12 (c.depths.toList ++ [c.inbox.length, c.retp, c.activation.getD 0, bit c.activation.isSome]) ++
    fit 256 (l.watch.toList.flatMap fun w => leBytes 16 w.toNat) ++ List.replicate 1136 0

/-- A core block (R337): 988 KiB. -/
def State.coreBlock (s : State) (k : Nat) : List Byte :=
  let c := s.core k
  let base := spadKey (k / 8) (k % 8 * 0xC0000)
  let tags := (List.range 98304).flatMap fun w => [s.tagF (base + 8 * w), s.tagK (base + 8 * w)]
  let frame (i : Nat) : List Byte := match s.slotTask k i with
    | some (id, _) => s.frameImage id
    | none => []
  fit 0xC0000 ((s.spad.slice base 0xC0000).bytes base 0xC0000) ++ fit 24576 (bitsToBytes 24576 tags) ++
    ((List.range 16).flatMap fun i => fit 5120 (frame i)) ++ fit 49152 ((c.acc.get 0).image 0) ++ fit 49152 ((c.acc.get 1).image 1) ++
    fit 16384 (c.inbox.flatMap Msg.image) ++ s.coreWords k

/-- The cluster and core blocks of a lease image, clusters in ascending position (R334). -/
def State.imageBlocks (s : State) (lease : Nat) : List (List Byte) :=
  let ps := (s.lease lease).positions
  let at' (j : Nat) : Option Nat := ps[j]?
  ((List.range 4).map fun j => fit 262144 (match at' j with
    | some p => s.clusterBlock p (decide (j = 0))
    | none => [])) ++
    (List.range 32).map fun i => fit 1011712 (match at' (i / 8) with
      | some p => s.coreBlock (p * 8 + i % 8)
      | none => [])

/-- The tag of a block of a context image (R340). -/
def blockTag (key x : List Byte) : List Byte := kmac256 key x 512 "GN2 block"

/-- The tag of a lease image (R340): over its die quarter, with a tag field of zeros, and its block tags. -/
def imageTag (key quarter : List Byte) (tags : List (List Byte)) : List Byte :=
  kmac256 key (quarter ++ tags.flatten) 512 "GN2 context"

/-- A lease image with its tags (R334, R340): the die quarter, then the blocks. -/
def State.leaseImage (s : State) (lease : Nat) : List Byte :=
  let blocks := s.imageBlocks lease
  let tags := blocks.map (blockTag s.leaseKey)
  let tag := imageTag s.leaseKey (s.dieQuarter lease [] tags) tags
  fit 16384 (s.dieQuarter lease tag tags) ++ blocks.flatten

/-- The place and length of the `i`-th block of a lease image (R334): 4 of clusters, 32 of cores. -/
def imageBlockAt (i : Nat) : Nat × Nat :=
  if i < 4 then (0x4000 + i * 0x40000, 0x40000) else (0x104000 + (i - 4) * 0xF7000, 0xF7000)

/-- Bytes of an image. -/
def imageSlice (x : List Byte) (a n : Nat) : List Byte := (x.drop a).take n

/-- The tags of an image hold (R340, R343): each block's, and the image's over its die quarter with a tag field of zeros. -/
def tagsHold (key x : List Byte) : Bool :=
  let quarter := imageSlice x 0 0x100 ++ List.replicate 64 0 ++ imageSlice x 0x140 0x3EC0
  let tags := (List.range 36).map fun i => imageSlice x (0x2E00 + 64 * i) 64
  ((List.range 36).all fun i => blockTag key (imageSlice x (imageBlockAt i).1 (imageBlockAt i).2) == imageSlice x (0x2E00 + 64 * i) 64) &&
    imageTag key quarter tags == imageSlice x 0x100 64

/-- The frames of an image are well formed (R27, R343): those of the occupied slots. -/
def framesHold (x : List Byte) : Bool :=
  (List.range 32).all fun k => (List.range 16).all fun i =>
    let b := 0x104000 + k * 0xF7000
    leNat (imageSlice x (b + 0xF6000 + 4 * i) 4) % 2 == 0 || frameOk (imageSlice x (b + 0xC6000 + 5120 * i) 5120) true

/-- The frame records of a lease's tasks outside slots are well formed (R27, R343). -/
def State.recordsHold (s : State) (lease : Nat) : Bool :=
  (s.tasks.filter fun e => e.2.live && e.2.lease == lease && e.2.inRecord).all fun e => (s.frameBytes e.1).all fun b => frameOk b false

/-- An image with bytes that its storage has changed: offset and byte. -/
def damageImage (x : List Byte) : List (Nat × Byte) → List Byte
  | [] => x
  | (i, b) :: l => damageImage (x.set i b) l

/-- Every dirty L1 byte of the job written back (R339). -/
def State.writeBackAll (s : State) : State :=
  s.cores.foldl (fun (s : State) (e : Nat × Core) => s.sweep e.1 false fun x => x.dirty != 0) s

/-- A Granary directory entry as numbers (R313). -/
def Shadow.words (e : Shadow) : List Nat :=
  [bit e.host, e.granule, e.subv.toNat, bit e.rd, bit e.wr, bit e.be, bit e.reduce] ++ e.slot.toList

/-- A B buffer with its descriptor as numbers (R178). -/
def BBuf.words (b : BBuf) : List Nat :=
  [b.fmt.toNat, b.grp.toNat, bit b.bsc, b.k0, b.kend, b.columns] ++ (b.codes ++ b.scales ++ b.zeros).flatMap fun e => [e.1, e.2]

/-- The slice save area of a core (R337): its B buffers, in 24 KiB. -/
def State.sliceArea (s : State) (k : Nat) : List Byte :=
  imageField 24576 14 ((s.core k).buf.toList.flatMap fun b => match b with
    | some b => 1 :: b.words
    | none => [0])

/-- The directory save area of a lease (R339): the directory entries of its launches. -/
def State.directoryArea (s : State) (lease : Nat) : List Byte :=
  (s.launches.filter fun e => e.2.lease == lease).flatMap fun e => e.2.shadow.flatMap fun x => Config.imageField 13 (e.1 :: x.words)

/-- An entry put in its place among those in the order of their freeing. -/
def insertFreed (x : Nat × Entry) : List (Nat × Entry) → List (Nat × Entry)
  | [] => [x]
  | y :: l => if x.2.freed < y.2.freed then x :: y :: l else y :: insertFreed x l

/-- The FREE indices of a lease in the order in which they are given (R231): never used ones first, ascending. -/
def State.freeOrder (s : State) (lease : Nat) : List Nat :=
  let l := s.lease lease
  let die := s.leaseDie lease
  ((List.range l.spoolCount).map (l.spoolFirst + ·)).filter (fun i => (s.spool.find (die * 65536 + i)).isNone) ++
    (((s.entriesOf l die).filter fun e => e.2.isFree).foldl (fun r e => insertFreed e r) []).map fun e => e.1 % 65536

/-- The free order kept as links in the spill slots of the FREE indices (R339). -/
def State.saveLinks (s : State) (lease : Nat) : State :=
  let l := s.lease lease
  let order := s.freeOrder lease
  (order.zip (order.drop 1 ++ [65536])).foldl
    (fun (s : State) e => { s with mem := s.mem.write (l.spillPlace e.1) (imageField 32 15 [e.2]) }) s

/-- The bodies of resident entries reach the spill area (R339). -/
def State.saveBodies (s : State) (lease : Nat) : State :=
  let l := s.lease lease
  ((s.entriesOf l (s.leaseDie lease)).filter fun e => e.2.state != .free && !e.2.memberIndex && !e.2.spilled).foldl
    (fun (s : State) e => { s with mem := s.mem.write (l.spillPlace e.1) e.2.body }) s

/-- What the memory image takes of a lease (R337, R339): bodies, free order, the directory, the B buffers. The spec places the save
areas nowhere, so their bytes stand by themselves (assumption log 29). -/
def State.saveMemory (s : State) (lease : Nat) : State :=
  let s := (s.saveBodies lease).saveLinks lease
  { s with saveAreas := s.saveAreas.put lease (s.directoryArea lease :: (s.lease lease).cores.map s.sliceArea) }

end Sys2Proof.Machine
end

