-- ==== Sys2Proof/Machine/Baste.lean ====
section
/-! DEFINITION. Basting points: taking one (R348, R349) and restoring it (R350). -/
namespace Sys2Proof.Machine

open Sys2Proof

/-- The device memory of a pinned window: first byte and size. -/
def PinnedWindow.span (w : PinnedWindow) : Nat × Nat := (memKey w.vdev w.pa, w.size)

/-- A byte of memory lies in one of some spans. -/
def inSpans (l : List (Nat × Nat)) (a : Nat) : Bool := l.any fun e => decide (e.1 ≤ a) && decide (a < e.1 + e.2)

/-- The memory of a lease that a basting point copies (R348): its frame area, its spill area, its pinned windows. -/
def State.bastedSpans (s : State) (lease : Nat) : List (Nat × Nat) :=
  let l := s.lease lease
  s.areaSpans lease l.frameArea (l.frameCount * 6144) ++ [(l.spillArea, l.spoolCount * 32)] ++ l.pinned.map PinnedWindow.span

/-- A launch at a basting point: BE is set in every directory entry, and no slot has been copied (R348). -/
def Launch.baste (l : Launch) : Launch :=
  { l with shadow := l.shadow.map fun e => { e with be := true, saved := .none } }

/-- The job stopped as for pre-emption (R348, R327, R333): cores stop, their accounts are flushed, chunks end, rounds before
their commit point are abandoned. -/
def State.stopAll (s : State) : State :=
  let s := s.cores.foldl (fun (s : State) (e : Nat × Core) => s.stopCore true e.1) s
  { s with launches := s.launches.map fun (e : Nat × Launch) => (e.1, e.2.dropRound) }

/-- The image of a lease written into its basting area (R348). -/
def State.basteImage (s : State) (lease : Nat) : State :=
  s.devicePut lease (s.lease lease).bastingArea (s.leaseImage lease)

/-- A basting point taken (R348): inside the step of the flip (95_what_each_step_holds.md) the job stops, dirty bytes and resident
bodies are written back, the images of the leases that have a basting area are written there, what they need of memory is copied,
BE is set, and the job continues. What is in flight is kept with it (assumption log 28). -/
def State.takeBasting (s : State) (ver : Nat) : State :=
  let covered := (s.leases.filter fun e => e.2.live && e.2.bastingArea != 0).map (·.1)
  let stopped := s.cores
  let s := { s.stopAll with cutAt := s.now }.writeBackAll
  let s := covered.foldl State.saveMemory s
  let s := covered.foldl State.basteImage s
  let goOn (e : Nat × Core) : Nat × Core := (e.1, { e.2 with stopped := (stopped.find e.1).any fun c => c.stopped })
  let s : State := { s with
    cores := s.cores.map goOn
    launches := s.launches.map fun (e : Nat × Launch) => (e.1, if e.2.state == .committed then e.2 else e.2.baste)
    leases := s.leases.map fun (e : Nat × Lease) => (e.1, { e.2 with rollbacks := 0 }) }
  let spans := covered.flatMap s.bastedSpans
  let b : Basted :=
    { ver := ver, covered := covered, tasks := s.tasks, cores := s.cores, clusters := s.clusters, spool := s.spool, spad := s.spad
      tags := s.tags, nodes := s.nodes, bank := s.bank, spans := spans, saved := s.mem.filter fun c => inSpans spans c.1
      flight := s.flight, leases := s.leases, launches := s.launches, order := s.order, walks := s.walks, faults := s.faults
      dumps := s.dumps }
  { s with basted := some b }

/-- The root that BASTE named has flipped to the phase it named (R227, R348). A flip while the job is stopped keeps the request,
and the point is taken when the job runs again (R333). A lease without a basting area takes no image; where none has one, the
request is met by nothing. -/
def State.basteAt (s : State) (n : Nat) : State :=
  match s.basteReq with
  | none => s
  | some (m, ph, ver) =>
    if m != n || s.nodePhase n != ph.toNat || s.stop != .no then s
    else
      let s := { s with basteReq := none }
      if s.leases.any fun e => e.2.live && e.2.bastingArea != 0 then s.takeBasting ver else s

/-- A request that a stop kept is met when the job runs again (R333). -/
def State.basteAgain (s : State) : State :=
  match s.basteReq with
  | some (n, _, _) => s.basteAt n
  | none => s

/-- A launch restored (R350): its directory entries and slots are those of the basting point, whether written, folded, discarded or
freed since; those made since are gone. A round in progress is abandoned (R333). -/
def Launch.restore (old : Launch) : Launch := { old with round := 0, answered := [], retracted := false }

/-- A lease restored (R350): what its image holds (R335, R336); what the front end, the trace ring and firmware keep is
not rolled back. Monitors resume at reset (R423). -/
def Lease.restore (now old : Lease) : Lease :=
  { now with
    trapVec := old.trapVec, borrowed := old.borrowed, pats := old.pats, records := old.records, armed := old.armed
    blocks := old.blocks, rollbacks := now.rollbacks + 1, monitors := now.monitors.map fun _ => Monitor.reset }

/-- A message between Granaries that a rollback leaves on its way: one of a launch that is past its commit point. -/
def afterCommit (b : Body') : Bool :=
  match b with
  | .ctrl (.commit ..) | .ctrl (.done ..) => true
  | _ => false

/-- A message of a control exchange. -/
def isControl (b : Body') : Bool :=
  match b with
  | .ctrl _ => true
  | _ => false

/-- The caches of a core are empty after its image is loaded (R343), and so are its delay accounts (R422). -/
def Core.reload (c : Core) : Core := { c with l1 := [], tlb := [], rows := [], stopped := false, accounts := [] }

/-- The basting point restored (R350) for the leases whose images it holds; the launches that started since are still to be
relaunched. -/
def State.restoreBasting (s : State) (b : Basted) : State :=
  let here (pos : Nat) : Bool := b.covered.contains (s.cluster pos).lease
  let pad (a : Nat) : Bool := here (posOfKey a)
  let task (id : Nat) : Bool := b.covered.contains (s.task id).lease
  let taskThen (id : Nat) : Bool := match b.tasks.find id with
    | some t => b.covered.contains t.lease
    | none => false
  let entry (k : Nat) : Bool := match s.leaseOfEntry k with
    | some l => b.covered.contains l
    | none => false
  let mix {α : Type} (p : Nat → Bool) (old now : Store α) : Store α :=
    (old.filter fun e => p e.1).foldl (fun l e => l.put e.1 e.2) (now.filter fun e => !p e.1)
  let walks (old now : List Walk) : List Walk :=
    now.filter (fun w => !b.covered.contains w.lease) ++ old.filter fun w => b.covered.contains w.lease
  let lease (e : Nat × Lease) : Nat × Lease := match b.leases.find e.1 with
    | some old => (e.1, if b.covered.contains e.1 then e.2.restore old else e.2)
    | none => e
  let launches := (b.launches.filter fun e => b.covered.contains e.2.lease && e.2.state != .committed).map fun e => (e.1, e.2.restore)
  { s with
    tasks := mix (fun id => task id || taskThen id) (b.tasks.filter fun e => taskThen e.1) s.tasks
    cores := mix (fun k => here (k / 8)) (b.cores.map fun (e : Nat × Core) => (e.1, e.2.reload)) s.cores
    clusters := mix here (b.clusters.map fun (e : Nat × Cluster) => (e.1, { e.2 with tlb := [] })) s.clusters
    spool := mix entry b.spool s.spool
    spad := (b.spad.filter fun c => pad c.1).foldl (fun m c => m.put c.1 c.2) (s.spad.filter fun c => !pad c.1)
    tags := mix pad b.tags s.tags
    nodes := mix pad b.nodes s.nodes
    bank := s.bank.filter (fun w => !task w.task) ++ b.bank.filter fun w => taskThen w.task
    mem := b.saved.foldl (fun m c => m.put c.1 c.2) (s.mem.filter fun c => !inSpans b.spans c.1)
    flight := s.flight.filter (fun f => if isControl f.body then afterCommit f.body else !task f.task) ++
      b.flight.filter fun f => !isControl f.body && taskThen f.task
    leases := s.leases.map lease
    launches := launches.foldl (fun l e => l.put e.1 e.2)
      (s.launches.filter fun e => !b.covered.contains e.2.lease || e.2.state == .committed || !(b.launches.find e.1).isSome)
    order := b.order
    walks := walks b.walks s.walks
    faults := walks b.faults s.faults
    dumps := s.dumps.filter (fun d => !task d.task) ++ b.dumps.filter fun d => taskThen d.task }

end Sys2Proof.Machine
end

