-- ==== Sys2Proof/Machine/MemEvents.lean ====
section
/-! DEFINITION. The events of memory and of what comes back to registers (R15, R115, R127, R135, R136, R144, R278 to
R280, R303). -/
namespace Sys2Proof.Machine

open Sys2Proof

/-- What an event of the agenda does: its effect where its conditions hold, and nothing where they do not (assumption log 4). -/
def happens (s : State) (effect : Option State) : Out := .next (effect.getD s)

/-- A task that was only waiting for what has just arrived moves on; one cancelled meanwhile retires (R136, R249). -/
def State.answered (s : State) (id k : Nat) : State :=
  let t := s.task id
  if t.wait = .answer k then
    if t.canp then s.cancelTask id else s.advance id
  else s

/-- FIXED_LATENCY_RESULT (R115, R127): the oldest result of a load from the core's own banks is written. -/
def eventFixedLatencyResult (task : Nat) (s : State) : Option State :=
  match (s.task task).fixed with
  | [] => none
  | (r, x) :: rest => some ((s.onTask task fun t => { t with fixed := rest }).fillReg task r x)

/-- The row FIXED_LATENCY_RESULT: `eventFixedLatencyResult`, or nothing (assumption log 4). -/
def execFixedLatencyResult (task : Nat) (s : State) : Out := happens s (eventFixedLatencyResult task s)

/-- VALUE_LANDS (R15, R283, R285): the value fills its register; an uncorrectable one leaves it empty and defers a trap. A
tagged load completes here, an acquire point (R134). -/
def eventValueLands (k : Nat) (s : State) : Option State :=
  match s.arriving k with
  | some ⟨_, task, _, _, _, .value dst x bad _ va⟩ =>
    let s := s.land k
    if bad && s.dumps.any (fun d => d.task == task) then
      some (s.secondFault task (0x40, (s.task task).pc, va, w64 (1 + dst.spec.toNat * 256)))
    else if bad then
      some ((s.onTask task fun t => { t with deferred := t.deferred ++ [(dst, va)] }).answered task k)
    else
      let s := if (s.task task).wait = .answer k then s.acquireFor task else s
      some ((s.landReg task dst x).answered task k)
  | _ => none

/-- The row VALUE_LANDS: `eventValueLands`, or nothing (assumption log 4). -/
def execValueLands (k : Nat) (s : State) : Out := happens s (eventValueLands k s)

/-- STORE_ACKNOWLEDGED (R127, R138): one fewer operation unacknowledged; an STE that waited completes (R135). -/
def eventStoreAcknowledged (k : Nat) (s : State) : Option State :=
  match s.arriving k with
  | some ⟨_, task, _, _, _, .ack⟩ => some ((s.land k).answered task k)
  | _ => none

/-- The row STORE_ACKNOWLEDGED: `eventStoreAcknowledged`, or nothing (assumption log 4). -/
def execStoreAcknowledged (k : Nat) (s : State) : Out := happens s (eventStoreAcknowledged k s)

/-- RELEASE_COMPLETE (R144): every earlier access of the task has performed; the bytes of the core where REL issued reach
their homes, and those of the core where the task has gone since, which perform its later accesses (R309). -/
def eventReleaseComplete (k : Nat) (s : State) : Option State :=
  match s.flight? k with
  | some ⟨_, task, src, _, _, .release⟩ =>
    let earlier := s.flight.any fun f => f.task == task && decide (f.id < k) &&
      (match f.body with | .access _ => true | .tagged .. => true | .resend .. => true | .release => true | _ => false)
    if earlier then none
    else some (((s.land k).publish (endCore src)).publish (s.task task).core)
  | _ => none

/-- The row RELEASE_COMPLETE: `eventReleaseComplete`, or nothing (assumption log 4). -/
def execReleaseComplete (k : Nat) (s : State) : Out := happens s (eventReleaseComplete k s)

/-- A part of a load put into the value (R130 for the nibbles of LDT: `operand` is 1 or 2 there). -/
def Access.fold (a : Access) (p : Part) (bs : List Byte) : Access :=
  if a.kind == .load && a.operand != 0 then
    let nib := (leNat bs >>> (4 * ((a.operand.toNat - 1 + p.off) % 2))) % 16
    { a with value := setLane a.value 4 p.off nib }
  else { a with value := putBytes a.value p.off bs }

/-- The first part of an access performs (R122, R124, R303). -/
def State.performPart (s : State) (t : Task) (a : Access) (p : Part) : State × Access :=
  let a' := { a with parts := a.parts.drop 1 }
  match a.kind with
  | .load =>
    let r := s.loadPart t.core t.ver.toNat t.subv p.loc p.size
    (r.1, a'.fold p r.2)
  | .store => (s.storePart t.core t.ver.toNat t.subv p.loc (dataBytes a.data p.off p.size), a')
  | .atomic op =>
    let r := s.atomicPart t a op p
    (r.1, { a' with value := BitVec.ofNat 2048 r.2 })
  | .clean drop =>
    let host := match p.loc.space with | .host _ => true | _ => false
    (if drop then s.invalLine t.core host (p.loc.addr / 64) else s.cleanLine t.core host (p.loc.addr / 64), a')

/-- MEMORY_ACCESS (R303, R124): the next part of a remote access arrives and performs; after the last, the value or the
acknowledgment goes back. Accesses held back by their task's order do not arrive (R44, R144). One that reads an
uncorrectable error fills no register, and its task traps whatever register it names (R283). A load that leaves its core gives a latency
past L1 (R424). Where an acquire point has come between, the acquisition is made again, so
that what follows it comes after this access (R300). -/
def eventMemoryAccess (k : Nat) (s : State) : Option State :=
  match s.arriving k with
  | some ⟨_, task, src, dst, vc, .access a⟩ =>
    let t := s.task task
    if s.heldBack task k a.ord a.changes a.parts then none
    else
      let bad := (match a.kind with | .load | .atomic _ => true | .store | .clean _ => false) &&
        (match a.parts with | p :: _ => s.isMarkedFor t.core p.loc p.size | [] => false)
      let badAt : Word := match a.parts with | p :: _ => p.loc.va | [] => 0
      let (s, a) := match a.parts with
        | [] => (s, a)
        | p :: _ => if bad then (s, a) else s.performPart t a p
      let s := if a.parts.isEmpty && t.acquired.any (fun x => decide (k < x)) then s.acquire t.core else s
      let body : Body' :=
        if bad then .value (a.dst.getD (.s 0)) 0 true a.changes badAt
        else if !a.parts.isEmpty then .access a
        else match a.kind with
          | .store | .clean _ => .ack
          | .load => .value (a.dst.getD (.s 0)) a.result false false badAt
          | .atomic _ => if a.dst = some (.s 0) then .ack else .value (a.dst.getD (.s 0)) a.result false true badAt
      let s := if a.parts.isEmpty && a.kind == .load && src == coreEnd t.core && dst != src then s.sampleCycles t.lease 1 t.core else s
      some (match body with
        | .access _ => { s with flight := listUpdate (fun f => f.id == k) (fun _ => ⟨k, task, src, dst, vc, body⟩) s.flight }
        | _ => (s.land k).sendBody ⟨k, task, dst, src, 1, body⟩)
  | _ => none

/-- The row MEMORY_ACCESS: `eventMemoryAccess`, or nothing (assumption log 4). -/
def execMemoryAccess (k : Nat) (s : State) : Out := happens s (eventMemoryAccess k s)

/-- The bank of a scratchpad word: its core and bank number (R30). -/
def bankOf (a : Nat) : Nat × Nat := (coreOfKey a, (a % 2 ^ 24 % 0xC0000) / 8 % 384)

/-- The requests that wait in a bank's list (R135, R218, R366): tagged ones, and those of its nodes. -/
def State.bankLoad (s : State) (b : Nat × Nat) : Nat :=
  (s.bank.filter fun w => bankOf w.loc.addr == b).length +
    (s.nodes.filter fun e => bankOf e.1 == b).foldl (fun n e => n + e.2.waiters.length + e.2.held.length) 0

/-- TAGGED_REQUEST (R135): the request performs, joins the bank's waiting list, or is returned from a full one. -/
def eventTaggedRequest (k : Nat) (s : State) : Option State :=
  match s.arriving k with
  | some ⟨_, task, src, dst, vc, .tagged op loc reg x _⟩ =>
    let s := s.land k
    if tagReady s op loc.addr && !(s.bank.any fun w => w.loc.addr == loc.addr && tagReady s w.op loc.addr) then
      let r := tagPerform s op loc.addr x
      some ((r.1.tagAnswer k task loc.addr op reg r.2).serve loc.addr (s.bank.length + 1))
    else if s.bankLoad (bankOf loc.addr) < 32 then
      some { s with bank := s.bank ++ [⟨k, task, op, loc, reg, x⟩] }
    else some (s.sendBody ⟨k, task, src, dst, vc, .resend op loc reg x⟩)
  | _ => none

/-- The row TAGGED_REQUEST: `eventTaggedRequest`, or nothing (assumption log 4). -/
def execTaggedRequest (k : Nat) (s : State) : Out := happens s (eventTaggedRequest k s)

/-- TAGGED_RESEND (R135): a returned request is sent again. -/
def eventTaggedResend (k : Nat) (s : State) : Option State :=
  match s.flight? k with
  | some ⟨_, task, src, dst, vc, .resend op loc reg x⟩ =>
    some ((s.land k).sendBody ⟨k, task, src, dst, vc, .tagged op loc reg x (op != .ste)⟩)
  | _ => none

/-- The row TAGGED_RESEND: `eventTaggedResend`, or nothing (assumption log 4). -/
def execTaggedResend (k : Nat) (s : State) : Out := happens s (eventTaggedResend k s)

/-- The phase token of a BARW of the task whose arrival has been counted (R366). -/
def State.standingToken (s : State) (id : Nat) : Option (BitVec 32) :=
  firstSome (fun (e : Nat × Node) => (e.2.waiters.find? fun w => w.arrived && (match w.client with
    | .task i _ (some _) => i == id
    | _ => false)).map fun w => w.token) s.nodes

/-- WITHDRAWAL (R136): it follows its request to the bank. A request still waiting is removed without effect and its task retires when cancelled; one that
has performed completes. -/
def eventWithdrawal (k : Nat) (s : State) : Option State :=
  match s.flight? k with
  | some ⟨_, task, _, _, _, .withdraw _ request⟩ =>
    let coming := s.flight.any fun f => f.id == request && (match f.body with
      | .tagged .. | .arrive .. | .nodeWait .. => true
      | _ => false)
    let s := s.land k
    let performed := s.flight.any fun f => f.id == request && (match f.body with
      | .value .. => true
      | .ack => true
      | .nodeAnswer .. => true
      | .answer .. => true
      | _ => false)
    if coming then none
    else if performed || !(s.task task).live then some s
    else if (s.task task).canp then some (s.cancelTask task)
    else
      let token := s.standingToken task
      some ((s.unwait task).onTask task fun t =>
        { t with wait := .no, loom := .running, wdr := true, due := .none, waitObj := match token with
            | some p => 0xFF80000000000000#64 + p.setWidth 64
            | none => t.waitObj })
  | _ => none

/-- The row WITHDRAWAL: `eventWithdrawal`, or nothing (assumption log 4). -/
def execWithdrawal (k : Nat) (s : State) : Out := happens s (eventWithdrawal k s)

/-- Where an engine stands: its cluster's position. -/
def unitPos : EngineUnit → Nat
  | .copy p => p
  | .slice k => k / 8
  | .thresher p => p

/-- A task whose page is mapped: FAULTED ones enter their queue, a cancellation point (R248, R280). -/
def State.wakeWaiter (s : State) (id : Nat) : State :=
  let t := s.task id
  if !t.live then s
  else if t.loom == .faulted then (if t.canp then s.cancelTask id else s.ready id)
  else match t.wait with
    | .walk _ => s.onTask id fun t => { t with wait := .no, loom := .running }
    | .fault => if t.canp then s.cancelTask id else s.onTask id fun t => { t with wait := .no, loom := .running }
    | _ => s

/-- A waiter of a walk that has found its leaf issues again (R278, R280). A fetch that missed keeps its target check. -/
def State.serveWaiter (s : State) (e : Tlb) : Requester → State
  | .task id _ _ => ((s.fillTlb (s.task id).core e).fillClusterTlb (s.task id).pos e).wakeWaiter id
  | .fetch id _ _ => ((s.fillTlb (s.task id).core e).fillClusterTlb (s.task id).pos e).wakeWaiter id
  | .command u _ _ => s.fillClusterTlb (unitPos u) e

/-- A task that waits for firmware leaves its slot, unless it holds the accumulators (R280, R20). -/
def State.faultWaiter (s : State) : Requester → State
  | .task id _ _ => go s id
  | .fetch id _ _ => go s id
  | .command .. => s
where
  go (s : State) (id : Nat) : State :=
    if !(s.task id).live then s
    else if s.holdsAny id then
      if (s.task id).canp then s.cancelTask id else s.onTask id fun t => { t with wait := .fault, loom := .waiting }
    else s.leave id .faulted .fault 0

/-- A requester that would leave its slot still owes a register its value: no frame records that (R26). -/
def State.mustLand (s : State) : Requester → Bool
  | .task id _ _ | .fetch id _ _ => (s.task id).live && !s.holdsAny id && s.localPending id
  | .command .. => false

/-- A requester has not ended: firmware abandons the fault of one that has (R249). -/
def State.waitsStill (s : State) : Requester → Bool
  | .task id _ _ | .fetch id _ _ => (s.task id).live
  | .command .. => true

/-- Fewer than 512 walks of its die are older than a walk: the walker works on it, and others wait in order (R278). -/
def State.walking (s : State) (k : Nat) (w : Walk) : Bool :=
  decide (((s.walks.take k).filter fun x => s.leaseDie x.lease == s.leaseDie w.lease).length < 512)

/-- PAGE_WALK (R278, R280): a walk completes. A leaf serves every merged miss; otherwise one fault record for the page
goes to firmware. -/
def eventPageWalk (k : Nat) (s : State) : Option State :=
  match s.walks[k]? with
  | none => none
  | some w =>
    if !s.walking k w then none else
    match { s with walks := s.walks.eraseIdx k }.walkOn w.lease (w.page * 65536) with
    | (s, .leaf e base size) => some (w.who.foldl (fun s r => s.serveWaiter ⟨w.lease, base, size, e⟩ r) s)
    | (s, .stop lvl bad) =>
      if w.who.isEmpty then some s
      else if w.who.any s.mustLand then none else
      let s := w.who.foldl State.faultWaiter s
      let w := { w with who := w.who.filter s.waitsStill }
      if w.who.isEmpty then some s
      else if s.faults.any fun f => f.lease == w.lease && f.page == w.page then
        let join (f : Walk) : Walk := { f with who := f.who ++ w.who }
        some { s with faults := listUpdate (fun f => f.lease == w.lease && f.page == w.page) join s.faults }
      else some { s with faults := s.faults ++ [{ w with level := lvl, malformed := bad }] }

/-- The row PAGE_WALK: `eventPageWalk`, or nothing (assumption log 4). -/
def execPageWalk (k : Nat) (s : State) : Out := happens s (eventPageWalk k s)

/-- Firmware handles faults while the job runs, and in a debug stop; one that is pending at pre-emption is handled after resumption
(R280). -/
def State.faultsServed (s : State) : Bool := s.stop == .no || s.stop == .debug

/-- Table entries lie in the memory of the devices (R2). -/
def entriesOk (m : PageMap) : Bool := m.entries.all fun e => decide (e.1 < 384) && decide (e.2.1 + 8 ≤ hbmBytes)

/-- FIRMWARE_MAP_PAGE (R280): firmware writes table entries and every waiter issues again. -/
def eventFirmwareMapPage (k : Nat) (m : PageMap) (s : State) : Option State :=
  match s.faults[k]? with
  | none => none
  | some w =>
    if !s.faultsServed || !entriesOk m then none else
    let s := { s with
      faults := s.faults.eraseIdx k
      mem := m.entries.foldl (fun mem e => mem.putNum (memKey e.1 e.2.1) 8 e.2.2.toNat) s.mem }
    some (w.who.foldl (fun (s : State) r => match r with
      | .task id _ _ => s.wakeWaiter id
      | .fetch id _ _ => s.wakeWaiter id
      | .command .. => s) s)

/-- The row FIRMWARE_MAP_PAGE: `eventFirmwareMapPage`, or nothing (assumption log 4). -/
def execFirmwareMapPage (k : Nat) (m : PageMap) (s : State) : Out := happens s (eventFirmwareMapPage k m s)

/-- A reflected fault is taken when the task next runs (R280). -/
def State.reflect (s : State) (id : Nat) (c : BitVec 8) (a i : Word) : State :=
  let t := s.task id
  if !t.live then s
  else
    let s :=
      if t.canp && (t.loom == .faulted || t.wait == .fault) then s.cancelTask id
      else if t.loom == .faulted then s.ready id
      else s
    if (s.task id).live then s.onTask id fun t => { t with wait := .trap c a i } else s

/-- FIRMWARE_REFLECT_FAULT (R280, R274): each task traps when it next runs, and each command ends with PAGE_FAULT. -/
def eventFirmwareReflectFault (k : Nat) (s : State) : Option State :=
  match s.faults[k]? with
  | none => none
  | some w =>
    if !s.faultsServed then none else
    let s := { s with faults := s.faults.eraseIdx k }
    some (w.who.foldl (fun (s : State) r => match r with
      | .task id a i =>
        let why := if w.malformed then 5 else 1
        s.reflect id 0x10 a (i + w64 (w.level * 256 + why * 16))
      | .fetch id pc tgt => s.reflect id 0x01 pc (match tgt with | some ix => tgtInfo 1 ix | none => 1)
      | .command _ id a => s.mapCommands fun c =>
          if c.id == id && c.status.isNone then { c with status := some (0x10, a.toNat) } else c) s)

/-- The row FIRMWARE_REFLECT_FAULT: `eventFirmwareReflectFault`, or nothing (assumption log 4). -/
def execFirmwareReflectFault (k : Nat) (s : State) : Out := happens s (eventFirmwareReflectFault k s)

/-- TRANSLATION_INVALIDATE (R279): the lease's cached translations go. -/
def execTranslationInvalidate (lease : Nat) (s : State) : Out :=
  let keep (l : List Tlb) : List Tlb := l.filter fun t => t.lease != lease
  .next { s with
    walkCache := s.walkCache.map fun e => (e.1, e.2.filter fun w => w.lease != lease)
    cores := s.cores.map fun e => (e.1, { e.2 with
      tlb := keep e.2.tlb, rows := e.2.rows.filter fun r => r.lease != lease })
    clusters := s.clusters.map fun e => (e.1, { e.2 with tlb := keep e.2.tlb }) }

end Sys2Proof.Machine
end

