-- ==== Sys2Proof/Machine/LoomEvents.lean ====
section
/-! DEFINITION. The events of Spools and Looms: requests and answers, wakes, cancels, dispatch, aging and the Gleaner
(R198 to R200, R236 to R239, R243 to R255). -/
namespace Sys2Proof.Machine

open Sys2Proof

/-- The task that made a request has ended; its settlement needs no answer. -/
def SpoolOp.final : SpoolOp → Bool
  | .retire _ | .retireCancelled | .retirePoisoned .. => true
  | _ => false

/-- SPOOL_REQUEST (R236): the home Spool applies the request, in the order of arrival, and answers (R200, R239). The
settlement of a task that ended comes after its release (R298, R299). -/
def eventSpoolRequest (k : Nat) (s : State) : Option State :=
  match s.arriving k with
  | some ⟨_, task, src, dst, _, .spool op h reg⟩ =>
    if op.final && (s.unperformed task || s.releasing task) then none
    else
      let r := spoolAct (s.land k) task op h
      let t := r.s.syncSpill (hKey h)
      if op.final then some t
      else some (t.sendBody ⟨k, task, dst, src, 2, .answer op h reg r.word r.trap r.settled r.park⟩)
  | _ => none

/-- The row SPOOL_REQUEST: `eventSpoolRequest`, or nothing (assumption log 4). -/
def execSpoolRequest (k : Nat) (s : State) : Out := happens s (eventSpoolRequest k s)

/-- The request waits for a settlement (R198). -/
def SpoolOp.waits : SpoolOp → Bool
  | .touch _ | .touchs .. | .touchany .. => true
  | _ => false

/-- The handles that a request names. -/
def SpoolOp.handles (op : SpoolOp) (h : Word) : List Word :=
  match op with
  | .touchany n v => anyHandles n v
  | _ => [h]

/-- A task parks on futures, or waits in place while it holds accumulators (R198, R20). -/
def State.park (s : State) (id : Nat) (op : SpoolOp) (h : Word) : State :=
  let s := if s.holdsAny id then s.onTask id fun t => { t with loom := .waiting, waitObj := h } else s.leave id .parked .no h
  s.onTask id fun t => { t with waitOn := op.handles h }

/-- A wake that came before its task had parked (R236): it no longer waits at an entry, so the request is repeated. -/
def State.wokenEarly (s : State) (id : Nat) (hs : List Word) : Bool :=
  (hs.all fun h => !(s.entry (hKey h)).waiters.contains id) ||
    hs.any fun h => (s.entry (hKey h)).isSettled && !(s.entry (hKey h)).spilled

/-- A request that did not complete leaves the presence of its destination as it was: at a trap (R263, R264), and where the
repeated request reads that register (R198). -/
def State.undoRequest (s : State) (id : Nat) (always : Bool) : State :=
  match (s.task id).emptied with
  | some (r, own) =>
    if always || own then s.onTask id fun t => { t with regs := t.regs.setFull r true, emptied := none } else s
  | none => s

/-- The value of an answer written where its instruction says (R198 to R200). -/
def State.answerValue (s : State) (id : Nat) (op : SpoolOp) (dst : Reg) (word : Word) (settled : Bool) : State :=
  let s := if op.waits then s.acquireFor id else s
  let s := (s.fillReg id dst (word.setWidth 2048)).onTask id fun t => { t with emptied := none }
  match op with
  | .touchs _ q => s.fillReg id (.q q) (if settled then 1 else 0)
  | _ => s

/-- SPOOL_ANSWER (R198 to R200): the answer reaches the task that waits for it. A task parks once its core owes none of its
registers a value (R26). -/
def eventSpoolAnswer (k : Nat) (s : State) : Option State :=
  match s.arriving k with
  | some ⟨_, task, _, _, _, .answer op h dst word trap settled park⟩ =>
    let t := s.task task
    if !(t.live && t.wait == .answer k) then some (s.land k)
    else if park && !t.canp && !s.holdsAny task && s.localPending task then none
    else
      let s := s.land k
      match trap with
      | some (c, a, i) => some ((s.undoRequest task true).takeTrap task c t.pc a i)
      | none =>
        if park then
          (if t.canp then some (s.cancelTask task)
           else
             let s := s.undoRequest task false
             if s.wokenEarly task (op.handles h) then some (s.onTask task fun t => { t with wait := .no, loom := .running })
             else some (s.park task op h))
        else
          let own := match op with | .poison _ _ => word == 0 && h == t.self | _ => false
          let s := if own then s.onTask task fun t => { t with poisoned := true } else s
          some ((s.answerValue task op dst word settled).advance task)
  | _ => none

/-- The row SPOOL_ANSWER: `eventSpoolAnswer`, or nothing (assumption log 4). -/
def execSpoolAnswer (k : Nat) (s : State) : Out := happens s (eventSpoolAnswer k s)

/-- REFILL_RETRY (R238): a refill that waited for a body proceeds, and its waiters ask again. Of several that wait, the one of the
lowest die and index goes first (the model's choice, log 56). -/
def eventRefillRetry (lease : Nat) (s : State) : Option State :=
  match s.spool.find? fun e => e.2.spilled && !e.2.waiters.isEmpty && s.leaseOfEntry e.1 == some lease &&
      (s.refill [] e.1).isSome with
  | none => none
  | some e =>
    match s.refill [] e.1 with
    | none => none
    | some s =>
      let x := s.entry e.1
      let h := s.makeHandle (e.1 / 65536) (e.1 % 65536) x.gen x.cnt.toNat
      some ((s.setWaiters e.1 []).wakeAll (e.1 / 65536) h x.waiters)

/-- The row REFILL_RETRY: `eventRefillRetry`, or nothing (assumption log 4). -/
def execRefillRetry (lease : Nat) (s : State) : Out := happens s (eventRefillRetry lease s)

/-- One task of a wake (R239): READY when it is parked on the entry, a cancellation point; a wait in place asks again. -/
def State.wakeTask (s : State) (h : Word) (id : Nat) : State :=
  let t := s.task id
  if !t.live || !t.waitOn.contains h then s
  else if t.loom == .parked then (if t.canp then s.cancelTask id else s.ready id)
  else if t.loom == .waiting && t.waitObj != 0 then
    s.onTask id fun t => { t with loom := .running, wait := .no, waitObj := 0, waitOn := [] }
  else s

/-- WAKE (R239): every task of the flit, in one step. -/
def eventWakeFlit (k : Nat) (s : State) : Option State :=
  match s.arriving k with
  | some ⟨_, _, _, _, _, .wake _ ids h⟩ => some (ids.foldl (fun s id => s.wakeTask h id) (s.land k))
  | _ => none

/-- The row WAKE_FLIT: `eventWakeFlit`, or nothing (assumption log 4). -/
def execWakeFlit (k : Nat) (s : State) : Out := happens s (eventWakeFlit k s)

/-- CANCEL_DELIVERY (R249). -/
def eventCancelDelivery (k : Nat) (s : State) : Option State :=
  match s.arriving k with
  | some ⟨_, _, _, _, _, .cancel id⟩ => some ((s.land k).deliverCancel id)
  | _ => none

/-- The row CANCEL_DELIVERY: `eventCancelDelivery`, or nothing (assumption log 4). -/
def execCancelDelivery (k : Nat) (s : State) : Out := happens s (eventCancelDelivery k s)

/-- Of two queued tasks, whether the first goes first (R243, R244): by priority, then by the time it entered. -/
def queuedBefore (x y : Task) : Bool := decide (y.prio.toNat < x.prio.toNat) || (x.prio == y.prio && decide (x.stamp ≤ y.stamp))

/-- The first task of a cluster in a Loom state, in the order of dispatch (R243, R244). -/
def State.firstIn (s : State) (pos : Nat) (l : Loom) : Option Nat :=
  ((s.liveTasks.filter fun e => e.2.pos == pos && e.2.loom == l && (l != .ready || (s.loadFrame e.1).isSome)).foldl
    (fun (b : Option (Nat × Task)) e => match b with
      | none => some e
      | some x => if queuedBefore x.2 e.2 then some x else some e) none).map (·.1)

/-- The core of a cluster that takes the next task (R244): the fewest occupied slots, the lowest index on a tie. -/
def State.emptiestCore (s : State) (pos : Nat) : Option Nat :=
  ((List.range 8).map (pos * 8 + ·)).foldl (fun (b : Option Nat) k =>
    if (s.freeSlot k).isNone || (s.core k).stopped then b
    else match b with
      | none => some k
      | some j => if (s.slotsUsed k).length < (s.slotsUsed j).length then some k else some j) none

/-- The tile tokens and buffer addresses that a dispatch puts into the tile registers (R193). -/
def Task.tileRegs (t : Task) : Task :=
  (t.tiles.zip (List.range t.tiles.length)).foldl (fun t e =>
    (t.writeW (.s (Fin.ofNat 64 (9 + e.2))) (e.1.token.getD 0)).writeW (.s (Fin.ofNat 64 (13 + e.2)))
      (w64 (e.1.buffer.getD 0))) t

/-- A task that resumes on another core finds its own stores (R124, R302, R309): the new core gives up its PRIVATE and PHASED
lines, and the dirty bytes that the old core holds under the task's tag reach their homes. -/
def State.changeCore (s : State) (id k : Nat) : State :=
  let t := s.task id
  if t.core = k then s
  else (s.sweep k true fun e => e.attr == 0 || e.attr == 2).sweep t.core false fun e => e.pinned || (e.ver == t.ver && e.subv == t.subv)

/-- DISPATCH (R244, R193): the first READY task of the highest priority takes a slot, its frame loaded from its record; a
malformed frame is never dispatched (R27). A task's entry is checked as a target at its first fetch (R39: `tgt` is set
when the task is made); its start is an acquire point (R298). A slot just filled counts as having issued then, the model's
choice (log 56). -/
def eventDispatch (pos : Nat) (s : State) : Option State :=
  if s.halted pos then none
  else
    match s.firstIn pos .ready, s.emptiestCore pos with
    | some id, some k =>
      match s.loadFrame id with
      | none => none
      | some t =>
        let slot := s.freeSlot k
        let s := ((s.changeCore id k).acquire k).setTask id
          { t.tileRegs with loom := .running, slot := slot, core := k, stamp := s.seq, issued := s.seq, passed := 0, tiles := [] }
        some ({ s with seq := s.seq + 1 }.sampleCycles (s.task id).lease 5 k)
    | _, _ => none

/-- The row DISPATCH: `eventDispatch`, or nothing (assumption log 4). -/
def execDispatch (pos : Nat) (s : State) : Out := happens s (eventDispatch pos s)

/-- AGING (R245): a task that has waited 2^AGE cycles at one priority rises one level, keeping its place in time. -/
def eventAging (id : Nat) (s : State) : Option State :=
  let t := s.task id
  let age := (s.lease t.lease).age
  let waits := t.loom == .queued || t.loom == .prefetching || t.loom == .ready
  if t.live && waits && age != 0 && t.prio != 3 &&
      decide (2 ^ age * 1000 ≤ (s.now - t.agedAt).toNat * s.device.clockMHz) then
    some ((s.onTask id fun t => { t with prio := t.prio + 1, agedAt := s.now }).refreshFrame id)
  else none

/-- The row AGING: `eventAging`, or nothing (assumption log 4). -/
def execAging (id : Nat) (s : State) : Out := happens s (eventAging id s)

/-- The tasks of a cluster that the Gleaner counts (R253). -/
def State.gleanCount (s : State) (pos : Nat) : Nat :=
  (s.liveTasks.filter fun e => e.2.pos == pos && (e.2.loom == .queued || e.2.loom == .prefetching || e.2.loom == .ready)).length

/-- The cluster with the best count, the lowest on a tie (R253). -/
def bestCluster (better : Nat → Nat → Bool) (l : List (Nat × Nat)) : Option (Nat × Nat) :=
  l.foldl (fun b e => match b with
    | none => some e
    | some x => if better e.2 x.2 then some e else some x) none

/-- The task that the Gleaner moves next from a cluster (R253, R254): a QUEUED one from the tail of the lowest
priority, else the most recently parked frame of the lowest priority; never an activation (R361). -/
def State.gleanPick (s : State) (pos : Nat) (except : List Nat) : Option Nat :=
  let free := s.liveTasks.filter fun e => e.2.pos == pos && !e.2.stay && e.2.act.isNone && !except.contains e.1
  let last (l : List (Nat × Task)) : Option Nat :=
    (l.foldl (fun (b : Option (Nat × Task)) e => match b with
      | none => some e
      | some x => if queuedBefore x.2 e.2 then some e else some x) none).map (·.1)
  match last (free.filter fun e => e.2.loom == .queued) with
  | some id => some id
  | none => last (free.filter fun e => e.2.loom == .parked && s.unacked e.1 == 0)

/-- GLEANER_MOVE (R254): the task's new cluster; the cluster it left keeps a forwarding entry. -/
def State.gleanMove (s : State) (src dst id : Nat) : State :=
  (s.onTask id fun t => { t with pos := dst }).onCluster src fun c => { c with forward := c.forward.put id dst }

/-- The Gleaner's moves of one interval (R253, R254). -/
def State.gleanMoves (s : State) (src dst : Nat) : Nat → List Nat → State
  | 0, _ => s
  | n + 1, moved =>
    if 4096 ≤ (s.cluster src).forward.length then s
    else
      match s.gleanPick src moved with
      | none => s
      | some id => State.gleanMoves (s.gleanMove src dst id) src dst n (id :: moved)

/-- GLEANER_INTERVAL (R253). -/
def eventGleanerInterval (lease : Nat) (s : State) : Option State :=
  let l := s.lease lease
  if !l.live || s.stop != .no then none
  else
    let counts := l.positions.map fun p => (p, s.gleanCount p)
    match bestCluster (fun a b => decide (b < a)) counts, bestCluster (fun a b => decide (a < b)) counts with
    | some (p, hi), some (q, lo) =>
      if hi < lo + 2 then some s else some (s.gleanMoves p q (Nat.min 16 ((hi - lo) / 2)) [])
    | _, _ => some s

/-- The row GLEANER_INTERVAL: `eventGleanerInterval`, or nothing (assumption log 4). -/
def execGleanerInterval (lease : Nat) (s : State) : Out := happens s (eventGleanerInterval lease s)

end Sys2Proof.Machine
end

