-- ==== Sys2Proof/Machine/Record.lean ====
section
/-! DEFINITION. Recorded mode and replay (R345 to R347, R428): which instructions communicate, when a chunk is over, the
log, and when a task may issue. -/
namespace Sys2Proof.Machine

open Sys2Proof

/-- The requests of a load or store of class 3 (R126 to R130). -/
def accessReqs (i : Instr) (s : State) : List Req :=
  match i with
  | .ld f | .st f => [Req.plain (effAddr f s) (widBytes f.mod) 0 0]
  | .ldv f => [Req.vector (effAddr f s) (2 ^ 64 - 1)]
  | .stv f => [Req.vector (effAddr f s) (maskOf s.me f.dst)]
  | .ldg f => laneReqs f (maskOf s.me f.c.reg) s
  | .stg f => laneReqs f (maskOf s.me f.dst) s
  | .ldt f =>
    let p := s.pat s.me.lease (pxOf f)
    let n := if fld f.imm 9 0 = 0 then 2048 / Nat.max 1 (patBits p) else fld f.imm 9 0
    ldtReqs p (s.sa f).toNat (s.sb f).toNat (bits (s.sc f) 31 0) (bits (s.sc f) 63 32) n
  | _ => []

/-- The addresses of the data that such an instruction names: of every part. -/
def accessed (i : Instr) (s : State) : List Word := (accessReqs i s).flatMap fun r => r.parts.map fun p => p.1

/-- An address of a scratchpad window, or of a page that is neither PRIVATE nor READONLY (R345). -/
def State.sharedAddr (s : State) (a : Word) : Bool :=
  match s.resolveFor s.cur s.me a with
  | .ok ⟨.mem attr, _, _, _⟩ _ _ => attr != 0 && attr != 1
  | .ok ⟨.host attr, _, _, _⟩ _ _ => attr != 0 && attr != 1
  | .ok _ _ _ => true
  | _ => false

/-- A special register whose value a replay takes from the log (R345): `id.*`, `time.*` and `mon.*`. -/
def loggedSr (n : Nat) : Bool := decide (n ≤ 5) || n == 0x40 || (decide (0x80 ≤ n) && decide (n < 0xC0))

/-- An instruction whose guard is full and false takes no effect (R48): it neither communicates nor returns a value. -/
def skipped (i : Instr) (s : State) : Bool :=
  match partsOf i with
  | some (_, _, .x f) => guardTest f.guard s.me == some false
  | some (_, _, .l f) => guardTest f.guard s.me == some false
  | none => false

/-- The instruction communicates (R345, R298): by its class and operation, and for loads and stores by their pages. -/
def communicates (i : Instr) (s : State) : Bool :=
  if skipped i s then false else
  match i with
  | .getsr f => loggedSr (fld f.imm 8 0)
  | _ =>
    match partsOf i with
    | some (3, _, _) => (accessed i s).any s.sharedAddr
    | some (4, op, _) => op != 24
    | some (5, _, _) => true
    | some (8, _, _) => true
    | some (9, _, _) => true
    | some (10, op, _) => op == 1 || op == 2 || op == 4 || op == 6 || decide (8 ≤ op)
    | _ => false

/-- The register that a GETSR of R345 writes. -/
def srDest (i : Instr) (s : State) : Option Reg :=
  match i with
  | .getsr f => if loggedSr (fld f.imm 8 0) && !skipped i s then some f.dst else none
  | _ => none

/-- SEQ, TASK, COUNT, WHY and KIND of a chunk record (R346). -/
def chunkSeq (r : BitVec 128) : Nat := fld r 127 64
def chunkTask (r : BitVec 128) : Nat := fld r 63 32
def chunkCount (r : BitVec 128) : Nat := fld r 31 16
def chunkWhy (r : BitVec 128) : Nat := fld r 15 12
def chunkKind (r : BitVec 128) : Nat := fld r 11 8

/-- A log as records, each with the value that may follow it (R346). -/
def parseLog : List (BitVec 128) → List (BitVec 128 × Option Word)
  | [] => []
  | [r] => [(r, none)]
  | r :: v :: l => if chunkKind r = 1 then (r, some (v.setWidth 64)) :: parseLog l else (r, none) :: parseLog (v :: l)

/-- The next record of a task in the log (R347): `engine` for that of an engine chunk. -/
def State.nextChunk (s : State) (id : Nat) (engine : Bool) : Option (BitVec 128 × Option Word) :=
  (parseLog s.replayLog).find? fun r =>
    chunkTask r.1 == id % 2 ^ 32 && decide (s.order.toNat ≤ chunkSeq r.1) && (chunkKind r.1 == 2) == engine

/-- Why the chunk of a task is over after an issue (R345, R346), if it is, but for its length: a trap, its leaving the slot, or an
instruction that communicates. -/
def State.chunkBreaks (before after : State) (id : Nat) (i : Option Instr) : Option (BitVec 4) :=
  let t := before.task id
  let u := after.task id
  let talks := (i.any fun i => communicates i before) || decide (u.touched.length < t.touched.length)
  let waits := match u.wait with | .answer _ => true | _ => false
  if (u.inh && !t.inh) || before.dumps.length != after.dumps.length || (u.due == some 3 && t.due.isNone) then some 3
  else if !u.live || u.slot.isNone then some 4
  else if talks && (waits || u.chunk != t.chunk) then some 1
  else none

/-- Why the chunk of a task is over after an issue (R345, R347): for the reasons above, or at its length; under replay that is the
logged count, where the log's own reason holds if it was the length or a stop. -/
def State.chunkOver (before after : State) (id : Nat) (i : Option Instr) : Option (BitVec 4) :=
  let u := after.task id
  match before.chunkBreaks after id i with
  | some w => some w
  | none =>
    if before.replays id then
      (before.nextChunk id false).bind fun r =>
        if u.chunk < chunkCount r.1 then none else some (if chunkWhy r.1 = 5 then 5 else 2)
    else if (after.lease u.lease).chunk ≤ u.chunk then some 2
    else none

/-- What the issue of a task of a recorded launch leaves beside the instruction's own effect (R345): the end of its chunk is
due. -/
def State.afterIssue (before after : State) (id : Nat) (i : Option Instr) : State :=
  if !before.recorded id then after
  else
    match before.chunkOver after id i with
    | none => after
    | some w => after.onTask id fun t => { t with due := some w, lastSr := i.bind fun i => srDest i before }

/-- The next issue of a task may be the last of its chunk under replay: its number in the order, if it must wait for
it. -/
def State.lastOfChunk (s : State) (id : Nat) : Option Nat :=
  if !s.replays id then none
  else match s.nextChunk id false with
    | none => none
    | some (r, _) => if (s.task id).chunk + 1 < chunkCount r then none else some (chunkSeq r)

/-- A chunk of a task that has ended takes its number next (R345); under replay an engine's waits for the number in the log (R347). -/
def State.chunkTakes (s : State) (id : Nat) : Bool :=
  let t := s.task id
  t.chunkDue && !(s.replays id && !t.ended.isEmpty && t.due.isNone &&
    (s.nextChunk id true).any fun r => chunkSeq r.1 != s.order.toNat)

/-- A task of a recorded launch may issue (R345, R347): no chunk is waiting to take its number, and in a replay the last
instruction of a chunk waits for the chunk's number. -/
def State.chunkOpen (s : State) (id : Nat) : Bool :=
  !s.recorded id || ((s.tasks.all fun e => !s.chunkTakes e.1) && (match s.lastOfChunk id with
    | none => true
    | some n => n == s.order.toNat))

/-- The task is about to perform the chunk before which a debugger asked to stop (R428). -/
def State.stopsHere (s : State) (id : Nat) : Bool :=
  s.recorded id && (match s.lastOfChunk id, s.chunkStop with
    | some n, some m => n == m
    | _, _ => false)

end Sys2Proof.Machine
end

