-- ==== Sys2Proof/Machine/CommEvents.lean ====
section
/-! DEFINITION. The events of sends, messages, mailboxes and barriers at their targets (R17, R208, R209, R212 to R219,
R354 to R366). -/
namespace Sys2Proof.Machine

open Sys2Proof

/-- What an add-mode send puts into a register (R208, R357): FP32 sums under F, else integer ones. -/
def addSent (r : Reg) (fp : Bool) (old x : VWord) : VWord :=
  let sum (a b : Nat) : Nat :=
    if fp then Fmt.fp32.round .rne ((Fmt.fp32.decode a).add false (Fmt.fp32.decode b)) else a + b
  match r with
  | .v _ => vecOf 32 ((List.range 64).map fun i => sum (lane old 32 i) (lane x 32 i))
  | _ => if fp then BitVec.ofNat 2048 (sum (lane old 32 0) (lane x 32 0)) else ((old + x).setWidth 64).setWidth 2048

/-- The value that a send writes by its register's file (R208). -/
def sentValue (r : Reg) (x : VWord) : VWord :=
  match r with
  | .q _ => if x = 0 then 0 else 1
  | _ => x

/-- A send changes its register at the target (R208, R356): filling it ends a wait on it, and after a release send its
first read is an acquire point (R298). -/
def State.deliver (s : State) (id : Nat) (r : Reg) (x : VWord) (rel : Bool) : State :=
  let s := s.landReg id r x
  s.onTask id fun t =>
    let t := if rel then { t with touched := r :: t.touched } else t
    if t.wait == .reg r then { t with wait := .no, loom := if t.loom == .waiting then .running else t.loom } else t

/-- The arm of a register removed (R359). -/
def State.disarm (s : State) (id : Nat) (r : Reg) : State :=
  s.onCluster (id / 65536) fun c => { c with arms := c.arms.filter fun a => a != (id % 65536, r) }

/-- A send applied by its mode (R208): the state, and whether it was delivered. -/
def State.applySend (s : State) (n : Word) (x : VWord) (fp rel : Bool) : State × Bool :=
  let id := nTask n
  let r := nReg n
  let t := s.task id
  let full := t.full r
  match nMode n with
  | 0 => if !full && s.armed id r then ((s.deliver id r (sentValue r x) rel).disarm id r, true) else (s, false)
  | 1 => if !full then (s.deliver id r (sentValue r x) rel, true) else (s, false)
  | 2 => (s.deliver id r (sentValue r x) rel, true)
  | _ => if full then (s.deliver id r (addSent r fp (t.value r) x) rel, true) else (s, false)

/-- The status of a send on its way back under the send's number (R209). -/
def State.sendBack (s : State) (f : Flight) (status : BitVec 8) (n : Word) (dst : Reg) (trap : Bool) : State :=
  s.sendBody ⟨f.id, f.task, f.dst, f.src, 1, .sendStatus status n dst trap⟩

/-- A send that its target held is applied once the register's own value has landed (R17). -/
def State.heldSend (s : State) (k : Nat) : Option (Nat × Flight) :=
  firstSome (fun (e : Nat × Task) =>
    match e.2.held.find? fun f => f.id == k with
    | some f => some (e.1, f)
    | none => none) s.tasks

/-- The instruction at a task's PC reads a register. -/
def State.nextReads (s : State) (id : Nat) (r : Reg) : Bool :=
  let t := s.task id
  match { s with cur := id }.fetchAt t t.pc false with
  | .got w lw => match decodeIn (fld lw 22 10 != 0) w with
    | .ok i => (instrReads i).contains r
    | .error _ => false
  | _ => false

/-- An instruction that waited for a register whose value has landed, or that reads it and has still to issue for the first
time, reads it before a send that came later is applied (R16, R17). -/
def State.readsFirst (s : State) (id : Nat) (r : Reg) : Bool :=
  let t := s.task id
  t.live && t.slot.isSome && t.full r && !s.halted (t.core / 8) && s.chunkOpen id &&
    (t.wait == .reg r || (t.wait == .no && s.nextReads id r))

/-- SEND_DELIVERY (R354 to R358, R17): the send is refused as GONE, held behind the register's own producer, or
applied by its mode; the status goes back. A send that follows a REL comes after it (R144). -/
def eventSendDelivery (k : Nat) (s : State) : Option State :=
  match s.heldSend k with
  | some (id, f) =>
    match f.body with
    | .send n x _ fp rel dst trap =>
      let earlier := (s.task id).held.takeWhile fun g => g.id != k
      let same (g : Flight) : Bool := match g.body with | .send m .. => nReg m == nReg n | _ => false
      if s.pendingOn id (nReg n) || s.readsFirst id (nReg n) || earlier.any same then none
      else
        let s := s.onTask id fun t => { t with held := t.held.filter fun g => g.id != k }
        let r := s.applySend n x fp rel
        some (r.1.sendBack f (if r.2 then 0 else 0x90) n dst trap)
    | _ => none
  | none =>
    match s.arriving k with
    | some ⟨_, task, src, dst, vc, .send n x vec fp rel reg trap⟩ =>
      let f : Flight := ⟨k, task, src, dst, vc, .send n x vec fp rel reg trap⟩
      if s.behindRelease task k then none
      else
        let s := s.land k
        let t := s.task (nTask n)
        let r := nReg n
        let same (g : Flight) : Bool := match g.body with | .send m .. => nReg m == r | _ => false
        if !t.live || t.gen != nGen n || t.loom == .retiring then some (s.sendBack f 0x91 n reg trap)
        else if s.pendingOn (nTask n) r || s.readsFirst (nTask n) r || t.held.any same then
          some (s.onTask (nTask n) fun t => { t with held := t.held ++ [f] })
        else
          let a := s.applySend n x fp rel
          some (a.1.sendBack f (if a.2 then 0 else 0x90) n reg trap)
    | _ => none

/-- The row SEND_DELIVERY: `eventSendDelivery`, or nothing (assumption log 4). -/
def execSendDelivery (k : Nat) (s : State) : Out := happens s (eventSendDelivery k s)

/-- A status reaches its sender (R209, R212): with TRAP the task waits for it, and a status other than DELIVERED traps
there. -/
def State.status (s : State) (id k : Nat) (cause status : BitVec 8) (addr : Word) (dst : Reg) (trap : Bool) : State :=
  if !trap then s.landReg id dst (status.setWidth 2048)
  else
    let t := s.task id
    if !t.live || t.wait != .answer k then s
    else if status = 0 then (s.fillReg id dst 0).advance id
    else s.takeTrap id cause t.pc addr (status.setWidth 64)

/-- SEND_STATUS (R209). -/
def eventSendStatus (k : Nat) (s : State) : Option State :=
  match s.arriving k with
  | some ⟨_, task, _, _, _, .sendStatus st n dst trap⟩ => some ((s.land k).status task k 0x25 st n dst trap)
  | _ => none

/-- The row SEND_STATUS: `eventSendStatus`, or nothing (assumption log 4). -/
def execSendStatus (k : Nat) (s : State) : Out := happens s (eventSendStatus k s)

/-- The messages that hold places in a core's inbox (R351): one keeps its place until its activation retires. -/
def Core.inboxUsed (c : Core) : Nat := c.inbox.length + bit c.activation.isSome

/-- MESSAGE (R212, R351, R360): accepted in the order of arrival, or refused by a full inbox. -/
def eventMessage (k : Nat) (s : State) : Option State :=
  match s.arriving k with
  | some ⟨_, task, src, dst, _, .message core m pos reg trap⟩ =>
    if s.behindRelease task k then none
    else
      let s := s.land k
      let l := (s.cluster (core / 8)).lease
      let back (s : State) (st : BitVec 8) : State :=
        s.sendBody ⟨k, task, dst, src, 1, .messageStatus st pos reg trap⟩
      if (s.lease l).inbox ≤ (s.core core).inboxUsed then some (back s 0x90)
      else
        let s := s.sample l 0x02 core (s.now - m.sent)
        let keep := match s.launch? m.ver.toNat with
          | some x => !x.killed && x.cause.isNone
          | none => false
        let m := { m with accepted := s.now, bound := (s.core core).handlers.get m.id }
        some (back (if keep then s.onCore core fun c => { c with inbox := c.inbox ++ [m] } else s) 0)
  | _ => none

/-- The row MESSAGE: `eventMessage`, or nothing (assumption log 4). -/
def execMessage (k : Nat) (s : State) : Out := happens s (eventMessage k s)

/-- MESSAGE_STATUS (R212). -/
def eventMessageStatus (k : Nat) (s : State) : Option State :=
  match s.arriving k with
  | some ⟨_, task, _, _, _, .messageStatus st pos dst trap⟩ => some ((s.land k).status task k 0x28 st pos dst trap)
  | _ => none

/-- The row MESSAGE_STATUS: `eventMessageStatus`, or nothing (assumption log 4). -/
def execMessageStatus (k : Nat) (s : State) : Out := happens s (eventMessageStatus k s)

/-- The registers of a handler activation (R212): s1 to s4 and v0. -/
def activationRegs (m : Msg) : Regs :=
  (argRegs [m.addr, m.sender.setWidth 64, m.sent, w64 m.id.val]).setValue (.v 0) (m.payload.setWidth 2048)

/-- The place of a core among the cores of its lease (R242). -/
def State.coreIndex (s : State) (k : Nat) : Nat :=
  ((s.lease (s.cluster (k / 8)).lease).positions.takeWhile fun p => p != k / 8).length * 8 + k % 8

/-- The frame record of a core's activations (R242). -/
def State.activationRecord (s : State) (k : Nat) : Nat :=
  let l := s.lease (s.cluster (k / 8)).lease
  l.frameArea + (l.spoolCount + s.coreIndex k) * 6144

/-- HANDLER_ACTIVATION_START (R212, R360): the oldest message whose id is bound starts in a free slot, when no other
activation of the core is live; the start is an acquire point. Its record holds no arguments and no child (R242). A slot in
which one starts counts as having issued then, the model's choice (log 56). -/
def eventHandlerActivationStart (core : Nat) (s : State) : Option State :=
  let c := s.core core
  let pos := core / 8
  match c.inbox.find? fun m => m.bound != 0, s.freeSlot core, s.takeIndex pos with
  | some m, some slot, some (s', id, g) =>
    if c.activation.isSome || s.halted pos then none
    else
      let l := (s.cluster pos).lease
      let t : Task := { Task.none with
        live := true, regs := activationRegs m, pc := m.bound, loom := .running, prio := 3, ver := m.ver, gen := g
        lease := l, pos := pos, core := core, slot := .some slot, entry := m.bound, act := .some ⟨core, m, s.now⟩
        record := s.activationRecord core, stamp := s.seq, issued := s.seq, agedAt := s.now, tgt := .some 0 }
      let s := (s'.acquire core).sample l 0x03 core (s.now - m.accepted)
      let s := { s.setTask id t with seq := s.seq + 1 }.clearRecord id
      some (s.onCore core fun c => { c with activation := some id, inbox := c.inbox.erase m })
  | _, _, _ => none

/-- The row HANDLER_ACTIVATION_START: `eventHandlerActivationStart`, or nothing (assumption log 4). -/
def execHandlerActivationStart (core : Nat) (s : State) : Out := happens s (eventHandlerActivationStart core s)

/-- Of two posts, the first ranks above the second (R214): priority, then tag, then arrival. -/
def postAbove (a b : Post) : Bool :=
  decide (b.prio.toNat < a.prio.toNat) || (a.prio == b.prio && decide (a.tag.toNat ≤ b.tag.toNat))

/-- An arriving post ranked among those present: below every one that ranks with it (R214). -/
def rankPost (p : Post) : List Post → List Post
  | [] => [p]
  | q :: l => if postAbove q p then q :: rankPost p l else p :: q :: l

/-- POST (R214, R362): the post is ranked; past the depth the lowest is dropped and counted. -/
def eventPostFlit (k : Nat) (s : State) : Option State :=
  match s.arriving k with
  | some ⟨_, task, src, dst, vc, .post core b p reg⟩ =>
    if s.behindRelease task k then none
    else
      let s := s.land k
      let c := s.core core
      let old := c.boxes.get b
      let depth := c.depths.get b
      let ranked := rankPost p old
      let place := (old.takeWhile fun q => postAbove q p).length
      let full := decide (depth < ranked.length)
      let s := s.onCore core fun c => { c with boxes := c.boxes.set b (ranked.take depth) }
      let s := if full then s.countDrops core 1 else s
      let st : BitVec 8 := if full && decide (depth ≤ place) then 0x96 else 0
      some (s.sendBody ⟨k, task, dst, src, 1, .postStatus st reg⟩)
  | _ => none

/-- The row POST_FLIT: `eventPostFlit`, or nothing (assumption log 4). -/
def execPostFlit (k : Nat) (s : State) : Out := happens s (eventPostFlit k s)

/-- POST_STATUS (R214). -/
def eventPostStatus (k : Nat) (s : State) : Option State :=
  match s.arriving k with
  | some ⟨_, task, _, _, _, .postStatus st dst⟩ => some ((s.land k).landReg task dst (st.setWidth 2048))
  | _ => none

/-- The row POST_STATUS: `eventPostStatus`, or nothing (assumption log 4). -/
def execPostStatus (k : Nat) (s : State) : Out := happens s (eventPostStatus k s)

/-- A flip on its way to a child node (R365). -/
def State.flipChild (s : State) (n child : Nat) : State :=
  s.fly 0 (coreEnd (coreOfKey n)) (coreEnd (coreOfKey child)) 2 (.flip child (BitVec.ofNat 32 (s.nodePhase n)))

/-- A node flips (R218, R365): its children are answered in the order in which they were counted, then the waits whose
tokens have passed; a root may have reached the phase of a BASTE (R348). -/
def State.flipNode (s : State) (n : Nat) : State :=
  let s := s.setNode n (s.nodeTarget n) 0 ((s.nodePhase n + 1) % 2 ^ 32)
  let x := s.node n
  let s := s.onNode n fun y => { y with complete := false, children := [], waiters := y.waiters.filter fun w => !tokenPassed (s.nodePhase n) w.token.toNat }
  let s := x.children.foldl (fun s c => s.flipChild n c) s
  let s := (x.waiters.filter fun w => tokenPassed (s.nodePhase n) w.token.toNat).foldl
    (fun s w => s.answerNode n w.client (barrierWord (s.nodePhase n) w.token.toNat false)) s
  s.basteAt n

/-- A node whose count is reached (R218): a root flips, any other sends its one arrival to its parent. -/
def State.completeNode (s : State) (n : Nat) : State :=
  if s.nodeParent n = 0 then s.flipNode n
  else
    let p := s.nodeParent n
    (s.onNode n fun x => { x with complete := true }).fly 0 (coreEnd (coreOfKey n)) (coreEnd (coreOfKey p)) 2
      (.arrive p (.child n) (.child n))

/-- One more arrival counted (R218). -/
def State.countArrival (s : State) (n : Nat) : State :=
  let a := s.nodeArrived n + 1
  let s := s.setNode n (s.nodeTarget n) a (s.nodePhase n)
  if a = s.nodeTarget n then s.completeNode n else s

/-- One request applied at a node that is not complete (R218, R219). -/
def State.applyArrival (s : State) (n : Nat) : HeldArrival → State
  | .barr c => (s.answerNode n c (w64 (s.nodePhase n))).countArrival n
  | .barw c => (s.onNode n fun x => { x with waiters := x.waiters ++ [⟨BitVec.ofNat 32 (s.nodePhase n), c, true⟩] }).countArrival n
  | .child m => (s.onNode n fun x => { x with children := x.children ++ [m] }).countArrival n
  | .blink c d =>
    let t : Int := (s.nodeTarget n : Int) + d.toInt
    if t < 1 || 65535 < t then s.answerNode n c 0x1A
    else
      let s := (s.setNode n t.toNat (s.nodeArrived n) (s.nodePhase n)).answerNode n c (w64 (t.toNat <<< 16))
      if t.toNat ≤ s.nodeArrived n then s.completeNode n else s

/-- Requests applied in order; those that find the node complete are held for the next phase (R218). -/
def applyArrivals (n : Nat) : List HeldArrival → State → State
  | [], s => s
  | h :: l, s =>
    if (s.node n).complete then applyArrivals n l (s.onNode n fun x => { x with held := x.held ++ [h] })
    else applyArrivals n l (s.applyArrival n h)

/-- The held arrivals of the next phase applied after a flip (R218). -/
def State.applyHeld (s : State) (n : Nat) : State :=
  let h := (s.node n).held
  applyArrivals n h (s.onNode n fun x => { x with held := [] })

/-- A request of R218 as a node holds it. -/
def heldOf (op : ArriveOp) (c : NodeClient) : HeldArrival :=
  match op with
  | .barr => .barr c
  | .barw => .barw c
  | .blink d => .blink c d
  | .child m => .child m

/-- The answer to a request at words that are no node (R218, R219): nothing changes. -/
def State.noNode (s : State) (n : Nat) (op : ArriveOp) (c : NodeClient) : State :=
  match op with
  | .blink _ => s.answerNode n c (w64 (0x1A + 1 <<< 33))
  | .child _ => s
  | _ => s.answerNode n c (w64 (1 <<< 33))

/-- ARRIVE (R218, R219): an arrival is counted, or held at a complete node while its bank's list has room (R135). -/
def eventArrive (k : Nat) (s : State) : Option State :=
  match s.arriving k with
  | some ⟨_, _, _, _, _, .arrive n op c⟩ =>
    if !s.tagK n then some ((s.land k).noNode n op c)
    else
      let lists := (s.node n).complete || (match op with | .barw => true | .child _ => true | _ => false)
      if lists && 32 ≤ s.bankLoad (bankOf n) then none
      else some (applyArrivals n [heldOf op c] (s.land k))
  | _ => none

/-- The row ARRIVE: `eventArrive`, or nothing (assumption log 4). -/
def execArrive (k : Nat) (s : State) : Out := happens s (eventArrive k s)

/-- FLIP (R365): the child of a parent's flip flips, and applies what it held. An answer to a node that is no longer
complete is discarded (R217). -/
def eventFlip (k : Nat) (s : State) : Option State :=
  match s.arriving k with
  | some ⟨_, _, _, _, _, .flip n _⟩ =>
    let s := s.land k
    if s.tagK n && (s.node n).complete then some ((s.flipNode n).applyHeld n) else some s
  | _ => none

/-- The row FLIP: `eventFlip`, or nothing (assumption log 4). -/
def execFlip (k : Nat) (s : State) : Out := happens s (eventFlip k s)

/-- NODE_WAIT (R218, R366): answered at once when its token has passed, else queued. A child that re-registers adds no
arrival. -/
def eventNodeWait (k : Nat) (s : State) : Option State :=
  match s.arriving k with
  | some ⟨_, _, _, _, _, .nodeWait n tok c⟩ =>
    if !s.tagK n then some ((s.land k).answerNode n c (w64 (1 <<< 33)))
    else
      let passed := tokenPassed (s.nodePhase n) tok.toNat
      match c with
      | .child m =>
        if passed then some ((s.land k).flipChild n m)
        else some ((s.land k).onNode n fun x =>
          { x with children := if x.children.contains m then x.children else x.children ++ [m] })
      | _ =>
        if passed then some ((s.land k).answerNode n c (barrierWord (s.nodePhase n) tok.toNat false))
        else if 32 ≤ s.bankLoad (bankOf n) then none
        else some ((s.land k).onNode n fun x => { x with waiters := x.waiters ++ [⟨tok, c, false⟩] })
  | _ => none

/-- The row NODE_WAIT: `eventNodeWait`, or nothing (assumption log 4). -/
def execNodeWait (k : Nat) (s : State) : Out := happens s (eventNodeWait k s)

/-- NODE_ANSWER (R218): a token or status reaches its register; the end of a BWAIT or BARW is an acquire point. -/
def eventNodeAnswer (k : Nat) (s : State) : Option State :=
  match s.arriving k with
  | some ⟨_, _, _, _, _, .nodeAnswer (.task id dst w) word⟩ =>
    let s := s.land k
    match w with
    | none => some (s.landReg id dst (word.setWidth 2048))
    | some a =>
      if (s.task id).wait == .answer a then
        let s := (s.acquireFor id).onTask id fun t => { t with waitObj := 0 }
        some ((s.fillReg id dst (word.setWidth 2048)).answered id a)
      else some s
  | _ => none

/-- The row NODE_ANSWER: `eventNodeAnswer`, or nothing (assumption log 4). -/
def execNodeAnswer (k : Nat) (s : State) : Out := happens s (eventNodeAnswer k s)

end Sys2Proof.Machine
end

