-- ==== Sys2Proof/Machine/Flags.lean ====
section
/-! DEFINITION. What comparisons write into guards (R105, R110, R121). -/
namespace Sys2Proof.Machine

open Sys2Proof

/-- The condition CC of CMP on two operands (R105). -/
def cmpHolds (cc : Nat) (a b : Int) : Bool :=
  match cc with
  | 0 => decide (a = b)
  | 1 => decide (a ≠ b)
  | 2 => decide (a < b)
  | 3 => decide (a ≤ b)
  | 4 => decide (b < a)
  | _ => decide (b ≤ a)

/-- The condition CC of TST on two patterns (R105). -/
def tstHolds (cc a b : Nat) : Bool := if cc = 0 then a &&& b == 0 else a &&& b != 0

/-- The truth table of QLOG (R121). -/
def qlogBit (tbl : Nat) (a b : Bool) : Bool := tbl.testBit (2 * bit a + bit b)

/-- The condition of a comparison of two floating-point values that are no NaN, by the sign of their difference; with a
NaN only `.ne` and `.un` hold (R110). -/
def fcmpHolds (cc : Nat) (order : Option Ordering) : Bool :=
  match order with
  | none => cc == 1 || cc == 6
  | some o =>
    match cc with
    | 0 => o == .eq
    | 1 => o != .eq
    | 2 => o == .lt
    | 3 => o != .gt
    | 4 => o == .gt
    | 5 => o != .lt
    | _ => false

end Sys2Proof.Machine
end

