-- ==== Sys2Proof/Machine/Float.lean ====
section
/-! DEFINITION. Class 0x1: scalar floating point (R106 to R113). -/
namespace Sys2Proof.Machine

open Sys2Proof

/-- A format code of class 0x1 (R106). -/
def scalarFmt (c : Nat) : Fmt :=
  match c with
  | 0 => .fp64
  | 1 => .fp32
  | 2 => .fp16
  | _ => .bf16

/-- FT (R106). -/
def ftOf (m : BitVec 8) : Fmt := scalarFmt (fld m 1 0)

/-- The rounding that MOD[7:5] selects (R47, R73): 7 is the dynamic mode. -/
def roundOf (m : BitVec 8) (t : Task) (n : Nat) : Round :=
  ⟨if fld m 7 5 = 7 then t.fpMode.toNat else fld m 7 5, t.fpSeed, n, false⟩

/-- An operand at its format: the bits above are ignored (R107). -/
def fpBits (f : Fmt) (x : Word) : Nat := x.toNat % 2 ^ f.width

/-- The value of a scalar operand. -/
def fpVal (f : Fmt) (x : Word) : Num := f.decode (fpBits f x)

/-- The mode rounds down, for the sign of an exact zero sum (R71). -/
def Round.isRdn (r : Round) : Bool := r.mode == 2

/-- An operation of class 0x1 whose result goes to DST (R107). -/
def floatOp (f : Fields) (op : Fmt → Round → Word → Word → Word → Nat) (s : State) : Out :=
  instr f (fun s => .ok (s.put f.dst (w64 (op (ftOf f.mod) (roundOf f.mod s.me 0) (s.sa f) (s.sb f) (s.sc f))))) s

/-- FADD (R108). -/
def execFadd (f : Fields) (s : State) : Out :=
  floatOp f (fun t r a b _ => t.round r ((fpVal t a).add r.isRdn (fpVal t b))) s
/-- FSUB (R108). -/
def execFsub (f : Fields) (s : State) : Out :=
  floatOp f (fun t r a b _ => t.round r ((fpVal t a).add r.isRdn (fpVal t b).neg)) s
/-- FMUL (R108). -/
def execFmul (f : Fields) (s : State) : Out :=
  floatOp f (fun t r a b _ => t.round r ((fpVal t a).mul (fpVal t b))) s
/-- FFMA (R108): one rounding. -/
def execFfma (f : Fields) (s : State) : Out :=
  floatOp f (fun t r a b c => t.round r (((fpVal t a).mul (fpVal t b)).add r.isRdn (fpVal t c))) s
/-- FDIV (R108). -/
def execFdiv (f : Fields) (s : State) : Out := floatOp f (fun t r a b _ => t.div r (fpVal t a) (fpVal t b)) s
/-- FSQRT (R108). -/
def execFsqrt (f : Fields) (s : State) : Out := floatOp f (fun t r a _ _ => t.sqrt r (fpVal t a)) s
/-- FMIN (R109). -/
def execFmin (f : Fields) (s : State) : Out := floatOp f (fun t _ a b _ => t.minmax false (fpBits t a) (fpBits t b)) s
/-- FMAX (R109). -/
def execFmax (f : Fields) (s : State) : Out := floatOp f (fun t _ a b _ => t.minmax true (fpBits t a) (fpBits t b)) s

/-- FCMP (R110). -/
def execFcmp (f : Fields) (s : State) : Out :=
  instr f (fun s =>
    let t := ftOf f.mod
    .ok (s.putQ f.dst (fcmpHolds (fld f.mod 4 2) ((fpVal t (s.sa f)).compare (fpVal t (s.sb f)))))) s

/-- FCLASS (R111). -/
def execFclass (f : Fields) (s : State) : Out := floatOp f (fun t _ a _ _ => 2 ^ t.classBit (fpBits t a)) s

/-- FSGN's result (R109): a's magnitude with the sign chosen; a NaN becomes canonical. Where b is a NaN its sign bit is
used as it stands: R69 says nothing of FSGN's operand b (the model's choice, log 56). -/
def fsgnBits (t : Fmt) (how a b : Nat) : Nat :=
  let top := t.width - 1
  let sa := a.testBit top
  let sb := b.testBit top
  let neg := match how with
    | 0 => sb
    | 1 => !sb
    | _ => sa != sb
  if t.decode a = .nan then t.nan else a % 2 ^ top + bit neg * 2 ^ top

/-- FSGN (R109). -/
def execFsgn (f : Fields) (s : State) : Out :=
  floatOp f (fun t _ a b _ => fsgnBits t (fld f.mod 3 2) (fpBits t a) (fpBits t b)) s

/-- FCVT (R112). -/
def execFcvt (f : Fields) (s : State) : Out :=
  floatOp f (fun t r a _ _ => t.convert (scalarFmt (fld f.mod 3 2)) r (fpBits t a)) s

/-- The integer width W of FTOI and ITOF (R108). -/
def fiWidth (m : BitVec 8) : Nat :=
  match fld m 3 2 with
  | 0 => 64
  | 1 => 32
  | 2 => 16
  | _ => 8

/-- The format code with which FTOI draws (R112). -/
def ftoiCode (w : Nat) (sg : Bool) : Nat :=
  if w = 8 then (if sg then 0x03 else 0x04) else if w = 16 then 0x05 else if w = 32 then 0x06 else 0x07

/-- FTOI (R112). -/
def execFtoi (f : Fields) (s : State) : Out :=
  let w := fiWidth f.mod
  let sg := f.mod.getLsbD 4
  floatOp f (fun t r a _ _ => (extend sg w (wrap w ((fpVal t a).toInt r (ftoiCode w sg) w sg))).toNat) s

/-- ITOF (R112). -/
def execItof (f : Fields) (s : State) : Out :=
  let w := fiWidth f.mod
  floatOp f (fun t r a _ _ => t.round r (Num.ofInt (interp (f.mod.getLsbD 4) w a))) s

end Sys2Proof.Machine
end

