-- ==== Sys2Proof/Machine/Engine.lean ====
section
/-! DEFINITION. What every engine shares: the issue of a command (R46, R49, R274), its queue, its token (R146), access
by an engine to memory (R147, R149, R305), tiles and their footprints (R87, R151, R154). -/
namespace Sys2Proof.Machine

open Sys2Proof

/-- The queue of an engine. -/
def State.jobs (s : State) : EngineUnit → List Command
  | .copy p => (s.cluster p).jobs
  | .slice k => (s.core k).queue
  | .thresher p => (s.cluster p).thresher

/-- The state with an engine's queue changed; a channel whose command has gone is free. -/
def State.onJobs (s : State) (u : EngineUnit) (f : List Command → List Command) : State :=
  match u with
  | .copy p => s.onCluster p fun c =>
      let js := f c.jobs
      { c with
        jobs := js
        channels := c.channels.map fun ch => ch.bind fun k => if js.any (fun c => c.id == k) then some k else none }
  | .slice k => s.onCore k fun c => { c with queue := f c.queue }
  | .thresher p => s.onCluster p fun c => { c with thresher := f c.thresher }

/-- A command of an engine by its number. -/
def State.job? (s : State) (u : EngineUnit) (k : Nat) : Option Command := (s.jobs u).find? fun c => c.id == k

/-- One command of an engine changed. -/
def State.onJob (s : State) (u : EngineUnit) (k : Nat) (f : Command → Command) : State :=
  s.onJobs u (listUpdate (fun c => c.id == k) f)

/-- A command gone from its queue. -/
def State.dropJob (s : State) (u : EngineUnit) (k : Nat) : State := s.onJobs u fun l => l.filter fun c => c.id != k

/-- The bytes of a tile buffer whose copy did not end OK are free values (R193, assumption log 3). -/
def State.spoilTile (s : State) (x : TileArg) : State :=
  match x.buffer with
  | none => s
  | some b =>
    let bytes := (List.range (x.blocks * 2048)).map fun i => Config.undefinedTile s.fresh i
    { s.freshen with spad := s.spad.write (b - windowBase) bytes }

/-- A command ends: its token is written, where it has one, and it leaves its queue (R146, R149); copy commands and TMVs
sample their latency (R424); in recorded mode it is a chunk (R345). A tile copy's token
stays with the task's tile argument (R193). -/
def State.endJob (s : State) (u : EngineUnit) (c : Command) (status : BitVec 8) (info : Nat) : State :=
  let s := s.dropJob u c.id
  let w := tokenWord status info
  let s := s.endChunk c.task c.ordinal
  let t := s.task c.task
  let s := match u with
    | .copy _ => s.sampleCycles t.lease 6 t.core
    | .thresher _ => s.sampleCycles t.lease 7 t.core
    | .slice _ => s
  match c.op with
  | .tileCopy j =>
    let s := match (s.task c.task).tiles[j]? with
      | some x => if status = 0 then s else s.spoilTile x
      | none => s
    let s := s.onTask c.task fun t =>
      { t with tiles := (t.tiles.zip (List.range t.tiles.length)).map fun e =>
          if e.2 = j then { e.1 with token := some w } else e.1 }
    s.onTask c.task fun t => if t.loom == .prefetching && (t.tiles.all fun x => x.token.isSome) then { t with loom := .ready } else t
  | _ => s.writeToken c.task c.dst w

/-- A command as issued (R49, R89): operands, pattern copies, seed and mode are read now. -/
def State.newCommand (s : State) (f : Fields) (op : EngineOp) (held : Option (Bool × Fin 8)) : Command :=
  let t := s.me
  { id := s.seq, task := s.cur, op := op, mod := f.mod, dst := f.dst, ex := exOf f
    acc := match f.a.reg, f.dst with | .z n, _ => n | _, .z n => n | _, _ => 0
    a := s.sa f, b := s.sb f, c := s.sc f
    px := s.pat t.lease (pxOf f), py := s.pat t.lease (pyOf f), pz := s.pat t.lease (pzOf f)
    seed := t.fpSeed, mode := t.fpMode, held := held, heldValue := none, started := false, progress := 0, gathered := []
    status := none, granules := 0, permit := none, rows := [], written := [], reads := [], xcodes := [], inits := [], pxn := pxOf f
    ordinal := t.enqueued, member := t.core }

/-- A command enqueued: its token register is empty (R46, R49). The PRIVATE lines of the issuing core are evicted then, so
that the command finds what its task stored (R149, assumption log 53). -/
def State.enqueue (s : State) (u : EngineUnit) (c : Command) : State :=
  ((({ s with seq := s.seq + 1 }.evictPrivate s.me.core).onJobs u fun l => l ++ [c]).onMe fun t => { t with enqueued := t.enqueued + 1 }).emptyDst c.dst

/-- A task still waits for a producer of a command's token register (R17). -/
def tokenPending (f : Fields) (s : State) : Bool := s.pendingOn s.cur f.dst

/-- The issue of an engine command (R49): with its guard full and 0 it writes DISCARDED and is not enqueued; with its
guard empty it is enqueued held. -/
def engineIssue (f : Fields) (work : Option (Bool × Fin 8) → State → Res) (s : State) : Res :=
  let guard : List Reg := if f.guard.en then [.q f.guard.q] else []
  match guardTest f.guard s.me with
  | some false => if tokenPending f s then .wait .place s else unspoilt s guard (.ok (s.put f.dst (tokenWord 0x80 0)))
  | g =>
    match emptySource s (sourcesOf f) with
    | some r => r
    | none =>
      let sources := (sourcesOf f).map fun (e : Nat × Src) => e.2.reg
      if tokenPending f s then .wait .place s
      else
        unspoilt s (if g.isNone then sources else guard ++ sources)
          (work (if g.isNone then some (f.guard.neg, f.guard.q) else none) (s.touch sources))

/-- An engine command that waits for a walk or for firmware (R149, R278). -/
def State.commandWaits (s : State) (k : Nat) : Bool :=
  (s.walks ++ s.faults).any fun w => w.who.any fun r => match r with
    | .command _ id _ => id == k
    | _ => false

/-- Engines of a cluster move while it is not stopped (R327, R328). -/
def State.enginesRun (s : State) (pos : Nat) : Bool := !s.halted pos

/-- What an engine's access came to. -/
inductive EngineRes (α : Type) where
  | ok (s : State) (x : α)
  | miss (va : Nat) (a : Word)
  | fail (status : BitVec 8) (a : Nat)

/-- An engine of a cluster reads `n` bytes for a task (R147, R149, R305). -/
def State.engineRead (s : State) (t : Task) (pos : Nat) (a n : Nat) : EngineRes (List Byte) :=
  match s.resolveEngine t pos (w64 a) with
  | .miss v => .miss v (w64 a)
  | .fault _ => .fail 0x10 a
  | .ok p _ _ =>
    if s.isMarked p n then .fail 0x40 a
    else
      let r := s.engineLoad t.lease t.ver.toNat t.subv p n
      .ok r.1 r.2

/-- The status that forbids an engine's write to a place (R147). -/
def State.engineForbids (s : State) (p : Place) (n : Nat) : Option (BitVec 8) :=
  match s.forbids .write p n with
  | some 0x14 => some 0x11
  | x => x

/-- An engine writes bytes for a task. -/
def State.engineWrite (s : State) (t : Task) (pos : Nat) (a : Nat) (bs : List Byte) : EngineRes Unit :=
  match s.resolveEngine t pos (w64 a) with
  | .miss v => .miss v (w64 a)
  | .fault _ => .fail 0x10 a
  | .ok p _ _ =>
    match s.engineForbids p bs.length with
    | some c => .fail c a
    | none => .ok (s.engineStore t.lease t.ver.toNat t.subv p bs) ()

/-- One after another. -/
def EngineRes.bind {α β : Type} (r : EngineRes α) (f : State → α → EngineRes β) : EngineRes β :=
  match r with
  | .ok s x => f s x
  | .miss v a => .miss v a
  | .fail c a => .fail c a

/-- The code of an element read (R67, R86): a nibble of its byte for 4-bit formats. -/
def State.readElem (s : State) (t : Task) (pos : Nat) (p : PatWord) (i0 i1 i2 i3 : Nat) : EngineRes Nat :=
  (s.engineRead t pos (elemAddr p i0 i1 i2 i3) (patBytes p)).bind fun s bs =>
    .ok s (if patBits p = 4 then leNat bs >>> (4 * (i0 % 2)) % 16 else leNat bs)

/-- The place to which an engine may write an element (R147, R149): the other nibble of its byte is read. -/
def State.placeElem (s : State) (t : Task) (pos : Nat) (p : PatWord) (i0 i1 i2 i3 : Nat) : EngineRes Place :=
  let a := elemAddr p i0 i1 i2 i3
  match s.resolveEngine t pos (w64 a) with
  | .miss v => .miss v (w64 a)
  | .fault _ => .fail 0x10 a
  | .ok l _ _ =>
    if patBits p = 4 && s.isMarked l 1 then .fail 0x40 a
    else
      match s.engineForbids l (patBytes p) with
      | some c => .fail c a
      | none => .ok s l

/-- The code of an element written at its place: a nibble keeps the other of its byte. -/
def State.putElem (s : State) (t : Task) (p : PatWord) (i0 : Nat) (x : Place × Nat) : State :=
  if patBits p = 4 then
    let r := s.engineLoad t.lease t.ver.toNat t.subv x.1 1
    r.1.engineStore t.lease t.ver.toNat t.subv x.1 (leBytes 1 (setLane (BitVec.ofNat 8 (leNat r.2)) 4 (i0 % 2) x.2).toNat)
  else s.engineStore t.lease t.ver.toNat t.subv x.1 (leBytes (patBytes p) x.2)

/-- The code of an element written by an engine. -/
def State.writeElem (s : State) (t : Task) (pos : Nat) (p : PatWord) (i0 i1 i2 i3 x : Nat) : EngineRes Unit :=
  (s.placeElem t pos p i0 i1 i2 i3).bind fun s l => .ok (s.putElem t p i0 (l, x)) ()

/-- What stops an engine on its way: a page to walk, or a status with its address. -/
abbrev EngineStop := Sum (Nat × Word) (BitVec 8 × Nat)

/-- Elements gathered from the `k`-th on, at most `n` (R150): each with its place, last first. -/
def gather (f : Nat → State → EngineRes (Place × Nat)) :
    Nat → Nat → List (Place × Nat) → State → State × List (Place × Nat) × Option EngineStop
  | 0, _, got, s => (s, got, none)
  | n + 1, k, got, s =>
    match f k s with
    | .ok s x => gather f n (k + 1) (x :: got) s
    | .miss v a => (s, got, some (.inl (v, a)))
    | .fail st a => (s, got, some (.inr (st, a)))

/-- One granule of a command that writes pattern `p` (R150, R183): up to `per` of its `total` elements, computed by `f`, with
the column of each. Its bytes are written together, once every element and every place is there; until then the command
stands at the boundary before. Where a row must have arrived whole (`row` elements, R386), the rest of the last row is gathered
too, and kept for the next granule. -/
def State.granule (s : State) (u : EngineUnit) (c : Command) (p : PatWord) (per total row : Nat) (col : Nat → Nat)
    (f : Nat → State → EngineRes (Place × Nat)) : State × Option EngineStop :=
  let n := Nat.min per (total - c.progress)
  let ahead := Nat.min total ((c.progress + n + row - 1) / row * row) - c.progress
  let r := gather f (ahead - c.gathered.length) (c.progress + c.gathered.length) c.gathered s
  match r.2.2 with
  | some x => (r.1.onJob u c.id fun c => { c with gathered := r.2.1 }, some x)
  | none =>
    let put (s : State) (e : (Place × Nat) × Nat) : State := s.putElem (s.task c.task) p (col e.2) e.1
    let l := r.2.1.reverse
    let s := ((l.take n).zip ((List.range n).map (c.progress + ·))).foldl put r.1
    (s.onJob u c.id fun c => { c with progress := c.progress + n, gathered := (l.drop n).reverse, granules := c.granules + 1 }, none)

/-- A command that stopped: it waits for a walk, or ends with a status. -/
def State.stopJob (s : State) (u : EngineUnit) (c : Command) : EngineStop → State
  | .inl (v, a) => s.joinWalk (s.task c.task).lease v 3 (.command u c.id a)
  | .inr (st, a) => s.endJob u c st a

/-- A tile: its origin and clipped extents in dimensions 0 and 1 (R87). -/
structure Box where
  o0 : Nat
  o1 : Nat
  o2 : Nat
  o3 : Nat
  cols : Nat
  rows : Nat

/-- Lowest and highest byte of a box of a pattern (R154). -/
def boxSpan (p : PatWord) (b : Box) : Nat × Nat :=
  (elemAddr p b.o0 b.o1 b.o2 b.o3,
   elemAddr p (b.o0 + b.cols - 1) (b.o1 + b.rows - 1) b.o2 b.o3 + patBytes p - 1)

/-- Lowest and highest byte of a whole pattern (R154). -/
def patSpan (p : PatWord) : Nat × Nat :=
  (elemAddr p 0 0 0 0, elemAddr p (patE p 0 - 1) (patE p 1 - 1) (patE p 2 - 1) (patE p 3 - 1) + patBytes p - 1)

/-- The origin lies inside the pattern (R151). -/
def originOk (p : PatWord) (i0 i1 i2 i3 : Nat) : Bool :=
  decide (i0 < patE p 0) && decide (i1 < patE p 1) && decide (i2 < patE p 2) && decide (i3 < patE p 3)

/-- A number that is no position: what an unpopulated window offset lies in. -/
def noPosition : Nat := 2 ^ 32

/-- The cluster whose scratchpad holds an address, through a window or a remap row; none for memory (R152, R281). -/
def State.clusterOf (s : State) (t : Task) (pos a : Nat) : Option Nat :=
  let x := wideAddr pos a
  if windowBase ≤ x then some (if (x - windowBase) % 2 ^ 24 < 0x600000 then posOfKey (x - windowBase) else noPosition)
  else if (s.remapOf t.lease x).isSome then
    match s.resolveNow t.lease pos (w64 x) with
    | .ok ⟨.spad, k, _, _⟩ _ _ => some (posOfKey k)
    | _ => none
  else none

/-- A whole pattern lies in the scratchpad of one cluster that a test accepts, or in memory (R152). -/
def State.liesIn (s : State) (t : Task) (pos : Nat) (p : PatWord) (ok : Option Nat → Bool) : Bool :=
  let x := patSpan p
  let a := s.clusterOf t pos x.1
  let b := s.clusterOf t pos x.2
  ok a && ok b && a == b

/-- A rounding mode of a command: `.dyn` is the mode read at enqueue (R47, R73). -/
def Command.round (c : Command) (code n : Nat) (sat : Bool) : Round :=
  ⟨if code = 7 then c.mode.toNat else code, c.seed, n, sat⟩

end Sys2Proof.Machine
end

