-- ==== Sys2Proof/Machine/Copy.lean ====
section
/-! DEFINITION. Class 0x5: the copy unit's commands at issue, the checks made before any byte moves, and the movement of
one granule (R145 to R156, R383). -/
namespace Sys2Proof.Machine

open Sys2Proof

/-- The commands that a task has in a queue. -/
def jobsOf (l : List Command) (id : Nat) : Nat := (l.filter fun c => c.task == id).length

/-- A command of class 0x5 enters its cluster's job queue, or waits for room (R148); enqueue is a release point (R298). -/
def copyEnqueue (f : Fields) (op : EngineOp) (permit : Option Permit) (held : Option (Bool × Fin 8)) (s : State) : Res :=
  let u : EngineUnit := .copy s.me.pos
  if 64 ≤ (s.jobs u).length || 16 ≤ jobsOf (s.jobs u) s.cur then .wait .place s
  else released (fun s => .ok (s.enqueue u { s.newCommand f op held with permit := permit })) s

/-- GET, PUT, LAYOUT, CFILL and PERMIT at issue. -/
def copyOp (f : Fields) (op : EngineOp) (s : State) : Out :=
  run (engineIssue f (copyEnqueue f op none)) s

/-- GET (R152). -/
def execGet (f : Fields) (s : State) : Out := copyOp f .get s
/-- PUT (R152). -/
def execPut (f : Fields) (s : State) : Out := copyOp f .put s
/-- LAYOUT (R155). -/
def execLayout (f : Fields) (s : State) : Out := copyOp f .layout s
/-- CFILL (R156). -/
def execCfill (f : Fields) (s : State) : Out := copyOp f .cfill s
/-- PERMIT (R154). -/
def execPermit (f : Fields) (s : State) : Out := copyOp f .permit s

/-- Source and destination origins of a command (R151). -/
def srcOrigin (c : Command) : Nat × Nat × Nat × Nat := (bits c.a 31 0, bits c.a 63 32, bits c.c 15 0, bits c.c 31 16)
def dstOrigin (c : Command) : Nat × Nat × Nat × Nat := (bits c.b 31 0, bits c.b 63 32, bits c.c 47 32, bits c.c 63 48)

/-- The clipped source tile of a command (R151, R87). -/
def srcBox (c : Command) : Box :=
  let (i0, i1, i2, i3) := srcOrigin c
  ⟨i0, i1, i2, i3, clipCols c.px i0, clipRows c.px i1⟩

/-- LOP of LAYOUT (R145): 0 `.cvt`, 1 `.tr`, 2 `.i2c`. -/
def Command.lop (c : Command) : Nat := if c.op = .layout then fld c.mod 1 0 else 0

/-- The kernel word of `.i2c` (R155). -/
structure Kernel where
  kw : Nat
  kh : Nat
  sx : Nat
  sy : Nat
  px : Nat
  py : Nat

/-- The kernel word of a command (R155). -/
def Command.kernel (c : Command) : Kernel :=
  ⟨bits c.c 7 0, bits c.c 15 8, bits c.c 23 16, bits c.c 31 24, bits c.c 39 32, bits c.c 47 40⟩

/-- OW of `.i2c` (R155). -/
def Kernel.ow (k : Kernel) (w : Nat) : Int := ((w : Int) + 2 * k.px - k.kw) / k.sx + 1

/-- The box written in the destination (R151, R155): the source tile's extents, swapped for `.tr`; for `.i2c` the
remaining columns and the rows of PX's tile from the destination origin (assumption log 22). -/
def dstBox (c : Command) : Box :=
  match c.op with
  | .cfill => srcBox c
  | .tileCopy _ => ⟨0, 0, 0, 0, (srcBox c).cols, (srcBox c).rows⟩
  | _ =>
    let (i0, i1, i2, i3) := dstOrigin c
    let b := srcBox c
    if c.lop = 2 then ⟨i0, i1, 0, 0, patE c.py 0 - i0, Nat.min (patTrows c.px) (patE c.py 1 - i1)⟩
    else if c.lop = 1 then ⟨i0, i1, i2, i3, b.rows, b.cols⟩
    else ⟨i0, i1, i2, i3, b.cols, b.rows⟩

/-- The pattern that a command writes. -/
def dstPat (c : Command) : PatWord := if c.op = .cfill then c.px else c.py

/-- The command reads a second pattern. -/
def Command.two (c : Command) : Bool :=
  match c.op with
  | .get | .put | .push | .layout => true
  | _ => false

/-- The formats of a command are accepted (R90, R152, R155). -/
def copyFormatOk (c : Command) : Bool :=
  let x := fld c.px 63 56
  let y := fld c.py 63 56
  match c.op with
  | .layout => patBits c.px != 4 && decide (0x01 ≤ x) && decide (x ≤ 0x14) && decide (0x03 ≤ y) && decide (y ≤ 0x14)
  | .get | .put | .push => x != 0x15 && y != 0x15 && x == y
  | _ => x != 0x15

/-- The spaces that a command accepts (R152, R154). -/
def copyPlaceOk (s : State) (t : Task) (pos : Nat) (c : Command) : Bool :=
  let mine (p : PatWord) : Bool := s.liesIn t pos p fun x => x == some pos
  match c.op with
  | .get => mine c.py
  | .put => mine c.px && s.liesIn t pos c.py Option.isNone
  | .push => mine c.px && s.liesIn t pos c.py fun x => match x with
      | some q => q != pos && s.populated q
      | none => false
  | .permit =>
    let x := patSpan c.px
    let k := c.member
    s.liesIn t pos c.px (fun x => x == some (k / 8)) && decide (coreOfKey (wideAddr pos x.1 - windowBase) = k) &&
      decide (coreOfKey (wideAddr pos x.2 - windowBase) = k)
  | _ => true

/-- Origins and written tile lie inside their patterns (R151, R155). A kernel word with bits [63:48] set ends BOUNDS too: R155 wants
zero there and gives no status (assumption log 51). -/
def copyBoundsOk (c : Command) : Bool :=
  let (i0, i1, i2, i3) := srcOrigin c
  let (j0, j1, j2, j3) := dstOrigin c
  let b := dstBox c
  let inside : Bool := decide (b.o0 + b.cols ≤ patE c.py 0) && decide (b.o1 + b.rows ≤ patE c.py 1)
  match c.op with
  | .permit => true
  | .cfill => originOk c.px i0 i1 i2 i3
  | .tileCopy _ => originOk c.px i0 i1 i2 i3 && decide (c.ex = 0)
  | .layout =>
    if c.lop = 2 then
      let k := c.kernel
      k.kw != 0 && k.kh != 0 && k.sx != 0 && k.sy != 0 && bits c.c 63 48 == 0 && patE c.py 0 == patE c.px 0 * k.kw * k.kh &&
        originOk c.py j0 j1 0 0 && decide (0 < k.ow (patE c.px 1))
    else originOk c.px i0 i1 i2 i3 && originOk c.py j0 j1 j2 j3 && inside
  | _ => originOk c.px i0 i1 i2 i3 && originOk c.py j0 j1 j2 j3 && inside

/-- The source that overlaps: the tile, or for `.i2c` the whole image. -/
def copyOverlaps (pos : Nat) (c : Command) : Bool :=
  if !c.two then false
  else
    let x := if c.lop = 2 then patSpan c.px else boxSpan c.px (srcBox c)
    let y := boxSpan c.py (dstBox c)
    decide (wideAddr pos x.1 ≤ wideAddr pos y.2) && decide (wideAddr pos y.1 ≤ wideAddr pos x.2)

/-- The status of the checks made before any byte moves, in their order (R147). A grantee register with bits above 31 set names no
task: R154 wants zero there and gives no status (assumption log 51). -/
def copyPrecheck (s : State) (pos : Nat) (c : Command) : Option (BitVec 8) :=
  let t := s.task c.task
  if patEmpty c.px || (c.two && patEmpty c.py) then some 0x81
  else if !copyFormatOk c then some 0x82
  else if c.op != .permit && patTrows c.px = 0 then some 0x83
  else if !copyPlaceOk s t pos c then some 0x85
  else if c.lop = 2 && !patPin c.py then some 0x86
  else if !copyBoundsOk c then some 0x1A
  else if copyOverlaps pos c then some 0x84
  else if c.op == .permit && (c.a >>> 32 != 0 || !(s.task (bits c.a 31 0)).live) then some 0x88
  else none

/-- An element converted by LAYOUT (R155, R76): between floating-point formats; from one of those into an integer, clamped
(assumption log 53); from an integer into an integer, which wraps or, under SAT, saturates. -/
def layoutConvert (c : Command) (n x : Nat) : Nat :=
  match patFmt c.px, patFmt c.py with
  | some a, some b =>
    let sat := c.mod.getLsbD 2
    let r := c.round (fld c.mod 5 3) n (sat && (b == .e4m3 || b == .e5m2))
    let v : Num := if a.isFp then a.decode x else .ofInt (if a.isSigned then sgn a.width x else (x % 2 ^ a.width : Nat))
    if b.isFp then b.round r v
    else
      match v, sat with
      | .fin g m e, false => if a.isFp then wrap b.width (v.toInt r b.code b.width b.isSigned) else wrap b.width (roundInt r b.code g m e)
      | v, _ => wrap b.width (v.toInt r b.code b.width b.isSigned)
  | _, _ => 0

/-- The code that a command writes as its `k`-th element, at a destination coordinate (R151, R155, R156). -/
def copyElement (s : State) (t : Task) (pos : Nat) (c : Command) (dc dr : Nat) : EngineRes Nat :=
  let b := srcBox c
  let d := dstBox c
  let n := flatIndex c.py (d.o0 + dc) (d.o1 + dr) d.o2 d.o3
  match c.op with
  | .cfill => .ok s (c.b.toNat % 2 ^ patBits c.px)
  | .layout =>
    if c.lop = 2 then
      let k := c.kernel
      let ch := patE c.px 0
      let j := d.o0 + dc
      let r := d.o1 + dr
      let ow := (k.ow (patE c.px 1)).toNat
      let x : Int := ((r % ow * k.sx + j / ch % k.kw : Nat) : Int) - k.px
      let y : Int := ((r / ow * k.sy + j / (ch * k.kw) : Nat) : Int) - k.py
      if 0 ≤ x ∧ x < patE c.px 1 ∧ 0 ≤ y ∧ y < patE c.px 2 then
        (s.readElem t pos c.px (j % ch) x.toNat y.toNat 0).bind fun s v => .ok s (layoutConvert c n v)
      else .ok s (layoutConvert c n 0)
    else
      let (sc, sr) := if c.lop = 1 then (dr, dc) else (dc, dr)
      (s.readElem t pos c.px (b.o0 + sc) (b.o1 + sr) b.o2 b.o3).bind fun s v => .ok s (layoutConvert c n v)
  | _ => s.readElem t pos c.px (b.o0 + dc) (b.o1 + dr) b.o2 b.o3

/-- The `k`-th element of a command, with the place that it goes to. -/
def copyPlaced (t : Task) (pos : Nat) (c : Command) (k : Nat) (s : State) : EngineRes (Place × Nat) :=
  let d := dstBox c
  (copyElement s t pos c (k % d.cols) (k / d.cols)).bind fun s v =>
    (s.placeElem t pos (dstPat c) (d.o0 + k % d.cols) (d.o1 + k / d.cols) d.o2 d.o3).bind fun s l => .ok s (l, v)

/-- Elements in one granule of written data (R150). -/
def granuleElems (c : Command) : Nat := 16384 / patBits (dstPat c)

/-- Elements that a command writes in all. -/
def copyTotal (c : Command) : Nat := (dstBox c).cols * (dstBox c).rows

/-- One granule of a copy command (R150); `.i2c` writes a row once all of its elements have arrived (R386). -/
def State.copyGranule (s : State) (pos : Nat) (c : Command) : State × Option EngineStop :=
  s.granule (.copy pos) c (dstPat c) (granuleElems c) (copyTotal c) (if c.lop = 2 then Nat.max 1 (dstBox c).cols else 1) (fun k => (dstBox c).o0 + k % (dstBox c).cols)
    (copyPlaced (s.task c.task) pos c)

/-- Bytes that a command writes in all. -/
def copyBytes (c : Command) : Nat := (copyTotal c * patBits (dstPat c) + 7) / 8

/-- The destination bytes of a PUSH: lowest and highest (R153). -/
def pushSpan (s : State) (f : Fields) : Nat × Nat :=
  let c := s.newCommand f .push none
  let x := boxSpan c.py (dstBox c)
  (wideAddr s.me.pos x.1, wideAddr s.me.pos x.2)

/-- A permit's region contains every byte from one window address to another, with a count left (R153). -/
def Permit.covers (p : Permit) (id : Nat) (x : Nat × Nat) : Bool :=
  p.idx == id && p.count != 0 && decide (windowBase ≤ x.1) && decide (x.1 ≤ x.2) &&
    coreOfKey (x.1 - windowBase) == p.granter && coreOfKey (x.2 - windowBase) == p.granter &&
    decide (p.first ≤ (x.1 - windowBase) % 2 ^ 24 % 0xC0000) && decide ((x.2 - windowBase) % 2 ^ 24 % 0xC0000 ≤ p.last)

/-- One permit's count changed in the table of its grantee's home cluster (R363). -/
def State.countPermit (s : State) (p : Permit) (g : Nat → Nat) : State :=
  let same (x : Permit) : Bool := x.idx == p.idx && x.granter == p.granter && x.first == p.first && x.last == p.last
  s.onCluster (p.idx / 65536) fun c =>
    { c with permits := listUpdate same (fun x => { x with count := g x.count }) c.permits }

/-- PUSH (R152, R153): a permit is taken before it enqueues. Of several that cover the destination the first of the table is taken:
the spec does not choose (assumption log 51). A PUSH with an empty entry (R90) has no destination bytes; the permit check is made
at address 0 of the pattern of zeros, so such a command traps PERMIT_NONE (the model's choice, log 56). -/
def execPush (f : Fields) (s : State) : Out :=
  run (engineIssue f (fun held s =>
    match (s.cluster (s.cur / 65536)).permits.find? fun p => p.covers s.cur (pushSpan s f) with
    | none => .trap 0x27 (w64 (boxSpan (s.newCommand f .push none).py (dstBox (s.newCommand f .push none))).1) 0
    | some p =>
      match copyEnqueue f .push (some p) held s with
      | .ok s' => .ok (s'.countPermit p fun n => n - 1)
      | r => r)) s

/-- The word that CQUERY answers for a task of a core (R156). -/
def cqueryWord (s : State) (id : Nat) : Word :=
  let t := s.task id
  let js := s.jobs (.copy t.pos)
  w64 (jobsOf js id <<< 8 + (64 - js.length) <<< 16 + Nat.min 65535 (s.core t.core).retp <<< 48)

/-- CQUERY answered (R156): its token is filled, and the read clears RETP. -/
def State.cquery (s : State) (id : Nat) (dst : Reg) : State :=
  let w := cqueryWord s id
  ((s.landReg id dst (w.setWidth 2048)).onTask id fun t => { t with touched := dst :: t.touched }).onCore (s.task id).core
    fun c => { c with retp := 0 }

/-- A held command of a task stands in a queue before the command of a number (R49). -/
def heldBefore (l : List Command) (id k : Nat) : Bool := l.any fun e => e.task == id && decide (e.id < k) && e.held.isSome

/-- CQUERY (R156): answered without entering the queue, unless its guard is empty or an earlier command of the task is held
(R49). -/
def execCquery (f : Fields) (s : State) : Out :=
  run (engineIssue f (fun held s =>
    if held.isNone && !heldBefore (s.jobs (.copy s.me.pos)) s.cur s.seq then .ok (s.cquery s.cur f.dst)
    else copyEnqueue f .cquery none held s)) s

end Sys2Proof.Machine
end

