-- ==== Sys2Proof/Machine/CopyEvents.lean ====
section
/-! DEFINITION. The events of the copy unit, of held commands, of the Loom's tile copies and of permits (R50, R145 to
R156, R193, R243, R363, R364, R383, R384). -/
namespace Sys2Proof.Machine

open Sys2Proof

/-- HELD_COMMAND_RELEASE (R49, R50): the guard has filled; the command runs, or is discarded and a PUSH gives back the
count it took (R153). A CQUERY is answered once no earlier command of its task is held (R49, R156). -/
def eventHeldCommandRelease (u : EngineUnit) (k : Nat) (s : State) : Option State :=
  match s.job? u k with
  | none => none
  | some c =>
    let answers := c.op == .cquery && !heldBefore (s.jobs u) c.task k
    match c.held, c.heldValue with
    | none, _ => if answers then some ((s.dropJob u k).cquery c.task c.dst) else none
    | some _, none => none
    | some _, some true =>
      if c.op == .cquery then if answers then some ((s.dropJob u k).cquery c.task c.dst) else none
      else some (s.onJob u k fun c => { c with held := none, heldValue := none })
    | some _, some false =>
      let s := match c.permit with
        | some p => s.countPermit p fun n => Nat.min 65535 (n + 1)
        | none => s
      some (s.endJob u c 0x80 0)

/-- The row HELD_COMMAND_RELEASE: `eventHeldCommandRelease`, or nothing (assumption log 4). -/
def execHeldCommandRelease (u : EngineUnit) (k : Nat) (s : State) : Out := happens s (eventHeldCommandRelease u k s)

/-- The command on a channel. -/
def Cluster.channel (c : Cluster) (chan : Nat) : Option Nat := c.channels.toList.getD chan none

/-- A command that may take a channel (R383, R145): first of its task that has not started, not held, past its `.after`
wait; one that gave up its channel competes again. -/
def eligibleCopy (cl : Cluster) (c : Command) : Bool :=
  let mine := cl.jobs.filter fun x => x.task == c.task && decide (x.id < c.id)
  c.held.isNone && c.op != .cquery && !cl.channels.toList.contains (some c.id) && !(c.op == .permit && c.started) &&
    (c.started || (mine.all (fun x => x.started) && (fld c.mod 7 6 = 0 || mine.isEmpty)))

/-- The time a task was last served; never counts as the earliest (R383). -/
def Cluster.servedAt (cl : Cluster) (id : Nat) : Nat := (cl.served.find id).getD 0

/-- Of two eligible commands the first to be taken (R383). -/
def State.copyBefore (s : State) (cl : Cluster) (x y : Command) : Bool :=
  let px := (s.task x.task).prio.toNat
  let py := (s.task y.task).prio.toNat
  decide (py < px) || (px == py && (decide (cl.servedAt x.task < cl.servedAt y.task) ||
    (cl.servedAt x.task == cl.servedAt y.task && decide (x.id ≤ y.id))))

/-- The command that a free channel takes (R383). -/
def State.nextCopy (s : State) (pos : Nat) : Option Command :=
  let cl := s.cluster pos
  (cl.jobs.filter (eligibleCopy cl)).foldl (fun b c => match b with
    | none => some c
    | some x => if s.copyBefore cl x c then some x else some c) none

/-- The grant of a PERMIT sent to its grantee's home (R154). -/
def State.sendGrant (s : State) (c : Command) : State :=
  let span := patSpan c.px
  let off (a : Nat) : Nat := (wideAddr (c.member / 8) a - windowBase) % 2 ^ 24 % 0xC0000
  let grantee := bits c.a 31 0
  s.fly c.task (copyEnd (c.member / 8)) (copyEnd (grantee / 65536)) 0 (.grant c.id ⟨grantee, c.member, off span.1, off span.2, c.ex⟩)

/-- COPY_CHANNEL_TAKE (R383): a free channel takes the first eligible command. The checks made before any byte moves end
it at once (R147); a PERMIT sends its grant and needs no channel. -/
def eventCopyChannelTake (pos chan : Nat) (s : State) : Option State :=
  if !s.enginesRun pos || (s.cluster pos).channel chan != none || 4 ≤ chan then none
  else
    match s.nextCopy pos with
    | none => none
    | some c =>
      let u : EngineUnit := .copy pos
      let s := { s.onCluster pos (fun cl => { cl with served := cl.served.put c.task s.seq }) with seq := s.seq + 1 }
      if c.started then
        some (s.onCluster pos fun cl => { cl with channels := cl.channels.setIfInBounds chan (some c.id) })
      else
        match copyPrecheck s pos c with
        | some st => some (s.endJob u c st 0)
        | none =>
          let s := s.onJob u c.id fun c => { c with started := true }
          if c.op = .permit then some (s.sendGrant c)
          else some (s.onCluster pos fun cl => { cl with channels := cl.channels.setIfInBounds chan (some c.id) })

/-- The row COPY_CHANNEL_TAKE: `eventCopyChannelTake`, or nothing (assumption log 4). -/
def execCopyChannelTake (pos chan : Nat) (s : State) : Out := happens s (eventCopyChannelTake pos chan s)

/-- COPY_GRANULE (R150): one granule of the command on a channel; the last one writes the token. A missing translation
goes to the walker and the channel waits (R149). -/
def eventCopyGranule (pos chan : Nat) (s : State) : Option State :=
  let u : EngineUnit := .copy pos
  match ((s.cluster pos).channel chan).bind fun k => s.job? u k with
  | none => none
  | some c =>
    match c.status with
    | some (st, a) => some (s.endJob u c st a)
    | none =>
      if !s.enginesRun pos || s.commandWaits c.id || 16 ≤ c.granules then none
      else
        let r := s.copyGranule pos c
        match r.2 with
        | some x => some (r.1.stopJob u c x)
        | none => if copyTotal c ≤ c.progress + granuleElems c then some (r.1.endJob u c 0 (copyBytes c)) else some r.1

/-- The row COPY_GRANULE: `eventCopyGranule`, or nothing (assumption log 4). -/
def execCopyGranule (pos chan : Nat) (s : State) : Out := happens s (eventCopyGranule pos chan s)

/-- CHANNEL_YIELD (R383): after 16 granules the channel is given up, unless nothing else is eligible. -/
def eventChannelYield (pos chan : Nat) (s : State) : Option State :=
  let u : EngineUnit := .copy pos
  match ((s.cluster pos).channel chan).bind fun k => s.job? u k with
  | none => none
  | some c =>
    if c.granules < 16 then none
    else
      let s := s.onJob u c.id fun c => { c with granules := 0 }
      if (s.nextCopy pos).isNone then some s
      else some (s.onCluster pos fun cl => { cl with channels := cl.channels.setIfInBounds chan none })

/-- The row CHANNEL_YIELD: `eventChannelYield`, or nothing (assumption log 4). -/
def execChannelYield (pos chan : Nat) (s : State) : Out := happens s (eventChannelYield pos chan s)

/-- The 2 KiB blocks of a tile's buffer (R193, R243): rows packed at TCOLS elements. -/
def tileBlocks (x : TileRef) : Nat :=
  if originOk x.pat x.i0 x.i1 x.i2 x.i3 && patTrows x.pat != 0 then
    (clipRows x.pat x.i1 * patTcols x.pat * patBits x.pat / 8 + 2047) / 2048
  else 0

/-- The tile area of a core has a free run of blocks from a block on (R243). -/
def runFree (used : List (Nat × Nat × Nat × Nat)) (core b n : Nat) : Bool :=
  decide (b + n ≤ 64) && !used.any fun u => u.2.1 == core && decide (u.2.2.1 < b + n) && decide (b < u.2.2.1 + u.2.2.2)

/-- First fit (R243): the lowest core with a free run, and the lowest block at which one starts. -/
def firstFit (used : List (Nat × Nat × Nat × Nat)) (n : Nat) : Option (Nat × Nat) :=
  ((List.range 8).flatMap fun c => (List.range 64).map fun b => (c, b)).find? fun e => runFree used e.1 e.2 n

/-- Buffers for a task's tiles in argument order, together or not at all (R243). -/
def placeTiles (id : Nat) : List TileArg → List (Nat × Nat × Nat × Nat) → Option (List (Option (Nat × Nat) × Nat) × List (Nat × Nat × Nat × Nat))
  | [], used => some ([], used)
  | x :: xs, used =>
    let n := tileBlocks x.tile
    if n = 0 || 64 < n then (placeTiles id xs used).map fun r => ((none, n) :: r.1, r.2)
    else (firstFit used n).bind fun e =>
      (placeTiles id xs (used ++ [(id, e.1, e.2, n)])).map fun r => ((some e, n) :: r.1, r.2)

/-- A packed destination pattern for a tile copy (R193): rows of TCOLS elements from the buffer's base. -/
def packedPat (p : PatWord) (rows base : Nat) : PatWord :=
  BitVec.ofNat 512 (base + fld p 63 56 <<< 56 + patTcols p <<< 64 + rows <<< 96 + (patTcols p * patBits p / 8) <<< 232)

/-- A tile copy as a command of its task (R193, R384). -/
def tileCommand (s : State) (id j : Nat) (x : TileRef) (base : Nat) (tooLarge : Bool) : Command :=
  let t := s.task id
  { id := s.seq, task := id, op := .tileCopy j, mod := 0, dst := .s 0, ex := bit tooLarge, acc := 0
    a := w64 (x.i0 + x.i1 <<< 32), b := 0, c := w64 (x.i2 + x.i3 <<< 16), px := x.pat, py := packedPat x.pat (clipRows x.pat x.i1) base
    pz := 0, seed := t.fpSeed, mode := t.fpMode, held := none, heldValue := none, started := false, progress := 0, gathered := []
    status := none, granules := 0, permit := none, rows := [], written := [], reads := [], xcodes := [], inits := [], pxn := 0
    ordinal := t.enqueued, member := t.core }

/-- A tile argument of a task changed. -/
def Task.onTile (t : Task) (j : Nat) (f : TileArg → TileArg) : Task :=
  { t with tiles := (t.tiles.zip (List.range t.tiles.length)).map fun y => if y.2 = j then f y.1 else y.1 }

/-- A task's buffers are placed (R243): it is PREFETCHING. -/
def Task.placed (t : Task) (pos : Nat) (places : List (Option (Nat × Nat) × Nat)) : Task :=
  let put (e : TileArg × Option (Nat × Nat) × Nat) : TileArg :=
    { e.1 with buffer := e.2.1.map fun b => windowAddr (pos * 8 + b.1) (0xA0000 + b.2 * 2048), blocks := e.2.2 }
  { t with tiles := (t.tiles.zip places).map put, loom := .prefetching }

/-- The tile copies of a PREFETCHING task enter the job queue one by one, as far as it has room (R384); a tile without room in
the tile area ends BOUNDS at once (R243). -/
def State.startTiles (s : State) (pos id : Nat) : List Nat → State
  | [] => s
  | j :: js =>
    match (s.task id).tiles[j]? with
    | none => s
    | some x =>
      if x.entered then State.startTiles s pos id js
      else if 64 ≤ (s.cluster pos).jobs.length then s
      else
        let c := tileCommand s id j x.tile (x.buffer.getD 0) (decide (64 < x.blocks))
        let s := { s with seq := s.seq + 1 }.onJobs (.copy pos) fun l => l ++ [c]
        let s := s.onTask id fun t => { t.onTile j (fun y => { y with entered := true }) with enqueued := t.enqueued + 1 }
        State.startTiles (if 64 < x.blocks then s.endJob (.copy pos) c 0x1A 0 else s) pos id js

/-- A PREFETCHING task of a cluster that has tiles not yet in the job queue (R384). -/
def State.unentered (s : State) (pos : Nat) : Option Nat :=
  (s.liveTasks.find? fun e => e.2.pos == pos && e.2.loom == .prefetching && e.2.tiles.any fun x => !x.entered).map (·.1)

/-- TILE_COPY_START (R243): the next copies of a PREFETCHING task that found the job queue full (R384); else the first QUEUED
task in the order of dispatch, when its buffers fit, at most 8 tasks at a time. -/
def eventTileCopyStart (pos : Nat) (s : State) : Option State :=
  let cl := s.cluster pos
  if !s.enginesRun pos || 64 ≤ cl.jobs.length then none
  else
    match s.unentered pos with
    | some id => some (s.startTiles pos id (List.range (s.task id).tiles.length))
    | none =>
      match s.firstIn pos .queued with
      | none => none
      | some id =>
        let t := s.task id
        let busy := (s.liveTasks.filter fun e => e.2.pos == pos && e.2.loom == .prefetching).length
        if 8 ≤ busy then none
        else
          match placeTiles id t.tiles cl.tiles with
          | none => none
          | some (places, used) =>
            let s := (s.onCluster pos fun c => { c with tiles := used }).onTask id fun t => t.placed pos places
            some (s.startTiles pos id (List.range t.tiles.length))

/-- The row TILE_COPY_START: `eventTileCopyStart`, or nothing (assumption log 4). -/
def execTileCopyStart (pos : Nat) (s : State) : Out := happens s (eventTileCopyStart pos s)

/-- A PERMIT's token is written (R154, R146). -/
def State.endPermit (s : State) (k : Nat) (w : Word) : State :=
  match s.clusters.find? fun e => e.2.jobs.any fun c => c.id == k with
  | none => s
  | some e =>
    match e.2.jobs.find? fun c => c.id == k with
    | none => s
    | some c => s.endJob (.copy e.1) c (BitVec.ofNat 8 (bits w 7 0)) (bits w 63 16)

/-- GRANT (R154, R364): merged into the entry of the same granter and region, or put into a free one. -/
def eventGrantFlit (k : Nat) (s : State) : Option State :=
  match s.arriving k with
  | some ⟨_, task, src, dst, _, .grant cmd p⟩ =>
      let s := s.land k
      let home := p.idx / 65536
      let mine := (s.cluster home).permits.filter fun x => x.idx == p.idx
      let same (x : Permit) : Bool := x.idx == p.idx && x.granter == p.granter && x.first == p.first && x.last == p.last
      let reply (s : State) (w : Word) : State := s.fly task dst src 1 (.grantStatus cmd w)
      if !(s.task p.idx).live then some (reply s (tokenWord 0x88 0))
      else if mine.any same then
        some (reply (s.countPermit p fun n => Nat.min 65535 (n + p.count)) (tokenWord 0 p.count))
      else if 16 ≤ mine.length || 1024 ≤ (s.cluster home).permits.length then some (reply s (tokenWord 0x87 0))
      else some (reply (s.onCluster home fun c => { c with permits := c.permits ++ [p] }) (tokenWord 0 p.count))
  | _ => none

/-- The row GRANT_FLIT: `eventGrantFlit`, or nothing (assumption log 4). -/
def execGrantFlit (k : Nat) (s : State) : Out := happens s (eventGrantFlit k s)

/-- GRANT_STATUS (R154): the token word returns to the granting task. -/
def eventGrantStatus (k : Nat) (s : State) : Option State :=
  match s.arriving k with
  | some ⟨_, _, _, _, _, .grantStatus cmd w⟩ => some ((s.land k).endPermit cmd w)
  | _ => none

/-- The row GRANT_STATUS: `eventGrantStatus`, or nothing (assumption log 4). -/
def execGrantStatus (k : Nat) (s : State) : Out := happens s (eventGrantStatus k s)

/-- PERMIT_RETURN (R364, R156): unused counts go to the granting core's RETP. -/
def eventPermitReturn (k : Nat) (s : State) : Option State :=
  match s.arriving k with
  | some ⟨_, _, _, _, _, .permitReturn core n⟩ =>
    some ((s.land k).onCore core fun c => { c with retp := Nat.min 65535 (c.retp + n) })
  | _ => none

/-- The row PERMIT_RETURN: `eventPermitReturn`, or nothing (assumption log 4). -/
def execPermitReturn (k : Nat) (s : State) : Out := happens s (eventPermitReturn k s)

end Sys2Proof.Machine
end

