-- ==== Sys2Proof/Machine/Launch.lean ====
section
/-! DEFINITION. Launches: records, versions, starts, completion and the end (R256 to R262, R286, R311, R312, R396 to R400). -/
namespace Sys2Proof.Machine

open Sys2Proof

/-- The 8-byte word of a launch record at an offset (R260). -/
def LaunchRecord.word (r : LaunchRecord) (off : Nat) : Word := r.bits.extractLsb' (8 * off) 64

/-- A launch record with the 8-byte word at an offset replaced. -/
def LaunchRecord.setWord (r : LaunchRecord) (off : Nat) (x : Word) : LaunchRecord :=
  { r with bits := setLane r.bits 64 (off / 8) x.toNat }

/-- A record of a lease's pool; one that nothing has written is IDLE and zero (R260). -/
def Lease.record (l : Lease) (i : Nat) : LaunchRecord := (l.records.find i).getD LaunchRecord.idle

/-- A record of a lease changed by a function. -/
def State.onRecord (s : State) (lease i : Nat) (f : LaunchRecord → LaunchRecord) : State :=
  s.onLease lease fun l => { l with records := l.records.put i (f (l.record i)) }

/-- The offsets of a record that LPATCH may write (R260). -/
def patchable (off : Nat) : Bool :=
  [0x00, 0x08, 0x10, 0x18, 0x20, 0x28, 0x30, 0x58, 0x60].contains off

/-- A version is older than another (R311). -/
def olderVer (a b : Nat) : Bool :=
  let d := (b + 65536 - a % 65536) % 65536
  decide (1 ≤ d) && decide (d < 32768)

/-- A launch that has neither committed nor finally aborted (R311, R316). -/
def Launch.open' (l : Launch) : Bool := l.state == .starting || l.state == .running || l.state == .aborting

/-- A version can be assigned to a launch of a lease (R311). -/
def State.versionFree (s : State) (lease : Nat) : Bool :=
  let u := s.launches.filter fun e => e.2.open'
  decide ((u.filter fun e => e.2.lease == lease).length < 256) &&
    (u.all fun e => decide ((s.nextVer.toNat + 65536 - e.1) % 65536 < 32768)) && (s.launches.find s.nextVer.toNat).isNone

/-- The next version of the job taken (R311). -/
def State.takeVersion (s : State) : State × Nat := ({ s with nextVer := s.nextVer + 1 }, s.nextVer.toNat)

/-- A launch as its record describes it (R260). -/
def Lease.launchOf (l : Lease) (lease i : Nat) : Launch :=
  let r := l.record i
  { Launch.none with
    lease := lease, recIx := some i, entry := r.word 0, data := r.word 8, payload := r.bits.extractLsb' 128 320
    quota := (r.word 0x40).toNat, retries := bits (r.word 0x48) 3 0, flags := r.word 0x50
    phase := (r.word 0x58).setWidth 16, completion := r.word 0x60, trapVec := r.word 0x38, state := .starting }

/-- Bytes that the device writes at a job-virtual address of a lease, past every cache and launch. -/
def State.deviceWrite (s : State) (lease : Nat) (va : Word) (bs : List Byte) : State :=
  match s.resolveNow lease ((s.lease lease).positions.headD 0) va with
  | .ok ⟨.host _, a, _, _⟩ _ _ => { s with host := s.host.write a bs }
  | .ok ⟨.mem _, a, _, _⟩ _ _ => { s with mem := s.mem.write a bs }
  | .ok ⟨.spad, a, _, _⟩ _ _ => { s with spad := s.spad.write a bs }
  | _ => s

/-- COMPLETION_RECORD (R262): 32 bytes at `completion`, a job-virtual address for a record and a host address for a
direct command (R399); `ended` is the time of launch end. -/
def State.complete (s : State) (l : Launch) (outcome : BitVec 8) (value ended : Word) : State :=
  if l.completion = 0 then s
  else
    let w0 := l.ver % 65536 + ((l.recIx.getD 0xFFF) % 4096) <<< 16
    let bs := leBytes 8 w0 ++ leBytes 8 outcome.toNat ++ leBytes 8 value.toNat ++ leBytes 8 ended.toNat
    match l.recIx with
    | some _ => s.deviceWrite l.lease l.completion bs
    | none => { s with host := s.host.write l.completion.toNat bs }

/-- A host queue of a lease. -/
def State.hostQueue (s : State) (lease q : Nat) : HostQueue := (s.lease lease).queues.toList.getD q HostQueue.reset

/-- A host queue of a lease changed by a function. -/
def State.onQueue (s : State) (lease q : Nat) (f : HostQueue → HostQueue) : State :=
  s.onLease lease fun l => { l with queues := l.queues.setIfInBounds q (f (l.queues.toList.getD q HostQueue.reset)) }

/-- COMPLETION_COUNT_WAKE (R400): the count, its write to WAKEA, and MSI-X unless masked, in that order. -/
def State.notify (s : State) (lease q : Nat) : State :=
  let s := s.onQueue lease q fun x => { x with done := x.done + 1 }
  let x := s.hostQueue lease q
  let s := if x.wakea = 0 then s else { s with host := s.host.putNum x.wakea.toNat 8 x.done.toNat }
  if x.qctl.getLsbD 1 then s else { s with msix := s.msix ++ [(lease, bits x.qctl 10 8)] }

/-- An entry of a queue is taken (R398): the consumer index advances and is written to CIDXA. -/
def State.consumeEntry (s : State) (lease q : Nat) : State :=
  let s := s.onQueue lease q fun x => { x with cidx := x.cidx + 1 }
  let x := s.hostQueue lease q
  if x.cidxa = 0 then s else { s with host := s.host.putNum x.cidxa.toNat 8 x.cidx.toNat }

/-- PHASE_CHANGE_CLEAN (R259, R286, R296): the lease's cores clean their PHASED and PRIVATE lines, self-invalidate the PHASED
ones and drop the READONLY ones. -/
def State.phaseClean (s : State) (lease : Nat) : State :=
  (s.lease lease).cores.foldl (fun s k =>
    (s.sweep k false fun e => e.attr == 0 || e.attr == 2).onCore k fun c => { c with l1 := c.l1.filter fun e => e.attr != 2 && e.attr != 1 }) s

/-- The core that owns a launch's data address (R257): none where it does not translate or lies in the own-cluster
window. -/
def State.rootCore (s : State) (l : Launch) : Option Nat :=
  let pos := (s.lease l.lease).positions.headD 0
  let a := l.data.toNat
  if ownBase ≤ a && a < windowBase then none
  else if s.translates l.lease pos l.data then some (s.ownerCore pos l.data) else none

/-- The registers of a root (R258). -/
def rootRegs (data ver : Word) (payload : BitVec 320) : Regs :=
  (argRegs [data, ver]).setValue (.v 0) (payload.setWidth 2048)

/-- The start holds a version already: LARM assigned it (R225). -/
def Launch.versioned (l : Launch) : Bool := l.queue.isNone && !l.again

/-- The phase number that a start is compared with (R259), and the state in which it is that queue's last. -/
def State.lastPhaseOf (s : State) (l : Launch) : BitVec 16 :=
  match l.queue with
  | some q => (s.lease l.lease).lastPhase.toList.getD q 0
  | none => (s.lease l.lease).lastRecordPhase

/-- The phase number of a start kept as its queue's last (R259). -/
def State.keepPhase (s : State) (l : Launch) : State :=
  s.onLease l.lease fun x => match l.queue with
    | some q => { x with lastPhase := x.lastPhase.setIfInBounds q l.phase }
    | none => { x with lastRecordPhase := l.phase }

/-- The trap vector of a record written to every lease of the job (R258). -/
def State.setTrapVec (s : State) (v : Word) : State :=
  if v = 0 then s else { s with leases := s.leases.map fun e => (e.1, { e.2 with trapVec := v }) }

/-- The root put into a slot of its core, or queued READY with its frame in its record where none is free (R258, R242, R244). -/
def State.placeRoot (s : State) (id core : Nat) (t : Task) : State :=
  let s := s.acquire core
  let slot := s.freeSlot core
  let t := { t with
    live := true, pos := core / 8, core := core, slot := slot, loom := if slot.isSome then .running else .ready
    stamp := s.seq, issued := s.seq, agedAt := s.now, tgt := some 0 }
  let s := { s.setTask id t with seq := s.seq + 1 }.clearRecord id
  if slot.isSome then s else s.saveFrame id

/-- A launch starts (R258, R259, R311): its entry is allocated, its version taken, its snapshot made and its root
dispatched. None: it must still wait. -/
def State.startLaunch (s : State) (l : Launch) (core : Nat) : Option State :=
  let pos := core / 8
  let lx := (s.cluster pos).lease
  let die := dieOf pos
  if !l.versioned && !s.versionFree l.lease then none
  else if s.freeCount (s.lease lx) die < 1 || 65536 ≤ s.indicesUsed pos then none
  else
    let r := if l.versioned then (s, l.ver) else s.takeVersion
    let v := r.2
    (r.1.allocate lx die 0 { Entry.free with live := true, ver := BitVec.ofNat 16 v }).bind fun (s, h, key) =>
      (s.takeIndex pos).map fun (s, id, g) =>
        let s := s.setEntry key { s.entry key with bound := id }
        let s := if l.again || s.lastPhaseOf l != l.phase then s.phaseClean l.lease else s
        let s := (s.keepPhase l).setTrapVec l.trapVec
        let s := match l.recIx with
          | some i => s.onRecord l.lease i fun r => { r with state := .running, ver := BitVec.ofNat 16 v }
          | none => s
        let l : Launch := { l with
          ver := v, state := .running, root := h, rootTask := id, base := s.committed false, hostBase := s.committed true, waits := false }
        let s := { s with launches := s.launches.put v l }
        s.placeRoot id core { Task.none with
          regs := rootRegs l.data (w64 v) l.payload, pc := l.entry, prio := 3, ver := BitVec.ofNat 16 v
          recIx := BitVec.ofNat 12 (l.recIx.getD 0xFFF), self := h, gen := g, lease := lx, entry := l.entry
          record := (s.lease lx).frameOf (key % 65536) }

/-- A start that is refused (R257, R261, R399): its completion record is written, and the queue's entry is taken and
counted. A command that is refused takes no version: its completion record holds version 0 (the model's choice, log 56). -/
def State.refuseStart (s : State) (l : Launch) (outcome : BitVec 8) : State :=
  let s := match l.queue with
    | some q => if l.again then s else s.consumeEntry l.lease q
    | none => s
  let s := s.complete { l with ver := if l.versioned then l.ver else 0 } outcome 0 s.now
  match l.queue with
  | some q => s.notify l.lease q
  | none => s

/-- Every entry of a launch is free at its end (R237); those that become free together count as freed in ascending die and index (the
model's choice, log 56). -/
def State.freeEntries (s : State) (ver : Nat) : State :=
  (s.spool.filter fun e => e.2.ver.toNat == ver && e.2.state != .free).foldl (fun s e => s.freeEntry e.1) s

/-- The records that a launch armed return to IDLE and their versions are given up (R391). -/
def State.disarmAll (s : State) (ver : Nat) : State :=
  let mine := s.leases.flatMap fun e =>
    (e.2.records.filter fun r => r.2.state == .armed && r.2.armer == some ver).map fun r => (e.1, r.1, r.2.ver.toNat)
  mine.foldl (fun s x =>
    let s := s.onRecord x.1 x.2.1 fun r => { r with state := .idle, armer := none }
    let s := s.onLease x.1 fun l => { l with armed := l.armed.filter fun i => i != x.2.1 }
    { s with launches := s.launches.drop x.2.2, starts := s.starts.filter fun e => !(e.2.versioned && e.2.ver == x.2.2) }) s

/-- The end of a launch (R237, R261, R398): its entries are FREE, its record is IDLE and out of the record queue, and its queue's next
entry may be taken. A basting point lapses at
the next commit of any launch, and at the end of its own (R349). -/
def State.launchOver (s : State) (l : Launch) (commits : Bool) : State :=
  let s := s.freeEntries l.ver
  let s := match l.recIx with
    | some i => s.onRecord l.lease i fun r => { r with state := .idle }
    | none => s
  let s := s.onLease l.lease fun x => { x with armed := if l.queue.isNone then x.armed.filter fun j => some j != l.recIx else x.armed }
  let s := match l.queue with
    | some q => s.onQueue l.lease q fun x => { x with busy := x.busy.filter fun i => i != l.slotIx }
    | none => s
  if commits || s.basted.any fun b => b.ver == l.ver then { s with basted := none } else s

/-- A dead launch leaves the device (R318, R319): its shadow granules leave the slices with it, and its lines the L1 caches
(R291, R307): what is dirty there is void, and no later launch of that number finds them. -/
def State.dropLaunch (s : State) (ver : Nat) : State :=
  let s := { s with
    launches := s.launches.drop ver
    cores := s.cores.map fun (e : Nat × Core) => (e.1, { e.2 with l1 := e.2.l1.filter fun x => x.ver.toNat != ver || x.pinned }) }
  s.freeWays fun n => n / 4096 == ver

/-- What the host is told of a launch that has ended (R262, R400). -/
def State.launchReport (s : State) (l : Launch) (outcome : BitVec 8) (value ended : Word) : State :=
  let s := s.complete l outcome value ended
  match l.queue with
  | some q => s.notify l.lease q
  | none => s

/-- The end of a launch that leaves nothing to copy, and its report (R237, R262). -/
def State.launchEnd (s : State) (l : Launch) (outcome : BitVec 8) (value : Word) : State :=
  (s.launchOver l false).launchReport l outcome value s.now

end Sys2Proof.Machine
end

