-- ==== Sys2Proof/Machine/Routing.lean ====
section
/-! DEFINITION. Remap windows, route slots and their drains, pinned windows (R281, R295, R388 to R390). -/
namespace Sys2Proof.Machine

open Sys2Proof

/-- A remap window as its descriptor gives it (R281). -/
def windowOf (x : BitVec 256) : RemapWindow :=
  ⟨x != 0, x.extractLsb' 0 64, fld x 95 64, fld x 99 96, x.extractLsb' 128 64, x.extractLsb' 192 16⟩

/-- The fields of a descriptor are ones that firmware sets (R281). -/
def windowFieldsOk (x : BitVec 256) : Bool :=
  let w := windowOf x
  decide (w.base.toNat < ownBase) && w.base.toNat % 2097152 == 0 && decide (1 ≤ w.rows) && decide (w.rows ≤ 65536) &&
    decide (w.k ≤ 8) && fld x 127 100 == 0 && decide (w.table.toNat < 2 ^ 56) && w.table.toNat % 8 == 0 && fld x 255 208 == 0

/-- A page of a span is mapped in the lease's table (R281). -/
def State.mapsSpan (s : State) (lease a n : Nat) : Bool :=
  (List.range ((n + 65535) / 65536)).any fun i => match s.walk lease (a + i * 65536) with
    | .leaf .. => true
    | .stop .. => false

/-- A row table lies in a pinned window of the lease's die (R281, R388). -/
def State.tablePinned (s : State) (lease : Nat) (a : Word) : Bool :=
  match s.resolveNow lease ((s.lease lease).positions.headD 0) a with
  | .ok ⟨.mem _, p, _, _⟩ _ _ => s.leases.any fun e => e.2.pinned.any fun w =>
      w.vdev * 8 + w.die == s.leaseDie lease && decide (memKey w.vdev w.pa ≤ p) && decide (p < memKey w.vdev w.pa + w.size)
  | _ => false

/-- REMAP_WINDOW_WRITE (R281): firmware sets a window at the lease's request, or refuses it; a descriptor of zeros
removes it (assumption log 31). -/
def eventRemapWindowWrite (lease win : Nat) (x : BitVec 256) (s : State) : Option State :=
  let l := s.lease lease
  if !l.live || 16 ≤ win then none
  else
    let w := windowOf x
    let meets := ((List.range 16).zip l.remap.toList).any fun e =>
      e.1 != win && e.2.valid && spansMeet w.base.toNat w.span e.2.base.toNat e.2.span
    let bad := x != 0 && (!windowFieldsOk x || meets || s.mapsSpan lease w.base.toNat w.span || !s.tablePinned lease w.table)
    if bad then some s
    else some (s.onLease lease fun l => { l with remap := l.remap.setIfInBounds win w })

/-- The row REMAP_WINDOW_WRITE: `eventRemapWindowWrite`, or nothing (assumption log 4). -/
def execRemapWindowWrite (lease win : Nat) (x : BitVec 256) (s : State) : Out := happens s (eventRemapWindowWrite lease win x s)

/-- The reserved bits of a route slot, which read zero and whose writes are ignored (R388, R5). -/
def slotReserved : BitVec 256 :=
  (BitVec.allOnes 15).setWidth 256 <<< 241 ||| (0xFF#256 <<< 184) ||| (0xFFFF#256 <<< 112) ||| 0xF0#256

/-- An address lies in a scratchpad window (R28, R29, R388). -/
def State.inScratchpad (s : State) (pos a : Nat) : Bool :=
  inWindow a && (match s.windowPlace pos a (w64 a) with
    | .ok .. => true
    | _ => false)

/-- ROUTE_SLOT_WRITE (R388): refused while the slot is armed, with a drain word outside the scratchpad windows, or with a
row table that is none; reserved bits are not written. -/
def eventRouteSlotWrite (lease slot : Nat) (x : BitVec 256) (s : State) : Option State :=
  let l := s.lease lease
  if !l.live || 8 ≤ slot then none
  else
    let x := x &&& ~~~slotReserved
    let d := slotDrain x
    let outside := !s.inScratchpad (l.positions.headD 0) d || d % 8 != 0
    let noTable := slotArm x && (slotNewrt x % 8 != 0 || !s.tablePinned lease (w64 (slotNewrt x)))
    if slotArm (l.routes.toList.getD slot 0) || outside || noTable then some s
    else some (s.onLease lease fun l => { l with routes := l.routes.setIfInBounds slot x })

/-- The row ROUTE_SLOT_WRITE: `eventRouteSlotWrite`, or nothing (assumption log 4). -/
def execRouteSlotWrite (lease slot : Nat) (x : BitVec 256) (s : State) : Out := happens s (eventRouteSlotWrite lease slot x s)

/-- The places at which the accesses of the job that have not performed will perform (R390): on their way, at a bank, and those of
the granules that engines gather. -/
def State.pendingPlaces (s : State) : List (Nat × Place) :=
  s.flight.flatMap (fun f => match f.body with
    | .access a => a.parts.map fun p => (f.task, p.loc)
    | .tagged _ loc _ _ _ => [(f.task, loc)]
    | .resend _ loc _ _ => [(f.task, loc)]
    | _ => []) ++ (s.bank.map fun w => (w.task, w.loc)) ++
  (s.clusters.flatMap fun e => e.2.jobs.flatMap fun c => c.gathered.map fun g => (c.task, g.1)) ++
  s.cores.flatMap fun e => e.2.queue.flatMap fun c => c.gathered.map fun g => (c.task, g.1)

/-- A row, or an access that carries its table and version, is of the table that a slot switches to (R389). -/
def ofNewTable (x : BitVec 256) (table : Word) (ver : BitVec 16) : Bool := table.toNat == slotNewrt x && ver.toNat == slotNewv x

/-- An access of the lease through a slot's window that was resolved under the old table (R389, R390). -/
def State.resolvedOld (s : State) (lease : Nat) (x : BitVec 256) (e : Nat × Place) : Bool :=
  (s.task e.1).lease == lease && (match e.2.via with
    | some v => v.win == slotWin x && !ofNewTable x v.table v.ver
    | none => false)

/-- Cores of a lease with a task in a slot. -/
def State.busyCore (s : State) (k : Nat) : Bool := s.tasks.any fun e => e.2.live && e.2.core == k && e.2.slot.isSome

/-- The drain of a slot is complete (R390). -/
def State.drainDone (s : State) (lease : Nat) (x : BitVec 256) : Bool :=
  let win := slotWin x
  slotArm x && s.switched x && !(s.pendingPlaces.any (s.resolvedOld lease x)) &&
    (s.lease lease).cores.all fun k => !s.busyCore k ||
      (s.core k).rows.all fun r => r.lease != lease || r.win != win || ofNewTable x r.table r.ver

/-- DRAIN_COMPLETE (R390): the new table enters the descriptor, ARM clears, and the old version goes to the drain word, or
the miss is counted. -/
def eventDrainComplete (lease slot : Nat) (s : State) : Option State :=
  let l := s.lease lease
  let x := l.routes.toList.getD slot 0
  if 8 ≤ slot || !s.drainDone lease x then none
  else
    let win := slotWin x
    let w := l.remap.toList.getD win ⟨false, 0, 0, 0, 0, 0⟩
    let s := s.onLease lease fun l => { l with
      remap := l.remap.setIfInBounds win { w with table := w64 (slotNewrt x), version := BitVec.ofNat 16 (slotNewv x) }
      routes := l.routes.setIfInBounds slot (x &&& ~~~(1#256 <<< 240)) }
    let s : State := { s with cores := s.cores.map fun (e : Nat × Core) => (e.1, { e.2 with
      rows := e.2.rows.filter fun r => r.lease != lease || r.win != win || ofNewTable x r.table r.ver }) }
    let a := wideAddr (l.positions.headD 0) (slotDrain x) - windowBase
    if s.tagK a then
      let core := coreOfKey a
      some ((s.onLease lease fun l => { l with drainMisses := l.drainMisses + 1 }).sample lease 0x0D core 1)
    else
      let s := { s with spad := s.spad.putNum a 8 w.version.toNat }.setTag a true false
      some (s.serve a (s.bank.length + 1))

/-- The row DRAIN_COMPLETE: `eventDrainComplete`, or nothing (assumption log 4). -/
def execDrainComplete (lease slot : Nat) (s : State) : Out := happens s (eventDrainComplete lease slot s)

/-- The ways of a slice that are pinned on a die (R295, R407). -/
def State.pinnedWays (s : State) (die slice : Nat) : Nat :=
  let ws := s.leases.flatMap fun e => e.2.pinned.filter fun w => w.vdev * 8 + w.die == die && w.slices.contains slice
  (ws.flatMap fun w => maskList 16 w.ways.toNat).length

/-- Firmware pins a window (R295, R407): a new number, whole ways of 512 KiB, none pinned already, at most 8 of a slice's
16, at most 8 windows of the lease, and a backing that no other window has. -/
def State.pinOk (s : State) (l : Lease) (w : PinnedReq) : Bool :=
  let die := w.vdev * 8 + w.die
  let n := (maskList 16 w.ways.toNat).length
  let taken := s.leases.any fun e => e.2.pinned.any fun p =>
    p.vdev * 8 + p.die == die && (p.ways &&& w.ways) != 0 && w.slices.any p.slices.contains
  l.live && decide (l.pinned.length < 8) && !(l.pinned.any fun p => p.win == w.win) && !taken && decide (w.die < 8) &&
    (w.slices.all fun i => decide (i < 64) && decide (s.pinnedWays die i + n ≤ 8)) && w.slices.eraseDups.length == w.slices.length &&
    w.size == w.slices.length * n * 524288 && decide (w.size ≠ 0) && w.pa % 65536 == 0 && decide (w.pa + w.size ≤ hbmBytes) &&
    !(s.leases.any fun e => e.2.pinned.any fun p => p.vdev == w.vdev && spansMeet p.pa p.size w.pa w.size)

/-- PINNED_WINDOW (R295): the ways leave every fill, and the window reads as its backing does. -/
def eventPinnedWindow (lease : Nat) (w : PinnedReq) (s : State) : Option State :=
  if !s.pinOk (s.lease lease) w then none
  else
    let die := w.vdev * 8 + w.die
    let s := s.onLease lease fun l => { l with pinned := l.pinned ++ [⟨w.win, w.vdev, w.die, w.pa, w.size, w.slices, w.ways⟩] }
    some { s with ways := s.ways.filter fun y => !(y.die == die && w.slices.contains y.slice && w.ways.getLsbD y.way) }

/-- The row PINNED_WINDOW: `eventPinnedWindow`, or nothing (assumption log 4). -/
def execPinnedWindow (lease : Nat) (w : PinnedReq) (s : State) : Out := happens s (eventPinnedWindow lease w s)

/-- The bytes of a pinned window that L1 lines hold reach it, and the lines go (R295). -/
def State.flushPinned (s : State) (w : PinnedWindow) : State :=
  s.cores.foldl (fun (s : State) (e : Nat × Core) => s.sweep e.1 true fun x =>
    !x.host && decide (memKey w.vdev w.pa < x.line * 64 + 64) && decide (x.line * 64 < memKey w.vdev w.pa + w.size)) s

/-- UNPINNING (R295): the window is written back to its backing, and its ways return to the fills. -/
def eventUnpinning (lease win : Nat) (s : State) : Option State :=
  match (s.lease lease).pinned.find? fun w => w.win == win with
  | none => none
  | some w => some ((s.flushPinned w).onLease lease fun l => { l with pinned := l.pinned.filter fun y => y.win != win })

/-- The row UNPINNING: `eventUnpinning`, or nothing (assumption log 4). -/
def execUnpinning (lease win : Nat) (s : State) : Out := happens s (eventUnpinning lease win s)

end Sys2Proof.Machine
end

