-- ==== Sys2Proof/Machine/Commit.lean ====
section
/-! DEFINITION. How a launch ends: rounds between dies, its commit point, the copying after it, and its abort, kill and
relaunch (R311 to R325, R248, R251, R286, R307, R308, R391). -/
namespace Sys2Proof.Machine

open Sys2Proof

/-- The participants of a launch (R323): the dies of the job, which may hold its tasks, and those that home its directory
entries. -/
def State.diesOf (s : State) (l : Launch) : List Nat :=
  (s.positions.map dieOf ++ l.shadow.map fun e => homeDie (s.leaseDev l.lease) e.host (e.granule * 2048)).eraseDups

/-- A launch has read a granule that an older commit changed before (log 6), by an agent whose reads stay in its read set: those
of unfolded sub-versions leave it at the commit (R322). -/
def Launch.staleNow (l : Launch) : Bool :=
  l.stale.any fun g => l.shadow.any fun e => e.subv == 0 && e.rd && e.host == g.1 && e.granule == g.2

/-- A launch has one participant: it needs no round. -/
def State.oneDie (s : State) (l : Launch) : Bool := decide ((s.diesOf l).length ≤ 1)

/-- Something of a task that counts in its unacknowledged operations (R24), or a load that has not returned, is on its
way. -/
def pendingBody : Body' → Bool
  | .value .. => true
  | b => counts b || (match b with | .access _ => true | .tagged .. => true | .resend .. => true | _ => false)

/-- A participant has no live agent, no pending activation and no outstanding operation of a launch (R316, R323). -/
def State.quietAt (s : State) (ver die : Nat) : Bool :=
  let mine (id : Nat) : Bool := (s.task id).ver.toNat == ver && dieOf (s.task id).pos == die
  !(s.tasks.any fun e => e.2.live && mine e.1) &&
    !(s.cores.any fun e => dieOf (e.1 / 8) == die && e.2.inbox.any fun m => m.ver.toNat == ver) &&
    !(s.flight.any fun f => pendingBody f.body && mine f.task) &&
    !(s.heldSends.any fun f => mine f.task) &&
    !(s.commands.any fun c => mine c.task)

/-- The launch is quiet on every die. -/
def State.quiet (s : State) (l : Launch) : Bool := (s.diesOf l).all fun d => s.quietAt l.ver d

/-- Operations of a launch that a die has sent to others (R323). -/
def Launch.sentBy (l : Launch) (die : Nat) : Nat :=
  (l.sent.filter fun e => e.1 / 65536 == die).foldl (fun n e => n + e.2) 0

/-- Operations of a launch that a die has accepted from others (R323): sent to it and no longer on their way. -/
def State.acceptedBy (s : State) (l : Launch) (die : Nat) : Nat :=
  (l.sent.filter fun e => e.1 % 65536 == die).foldl (fun n e => n + e.2) 0 -
    (s.flight.filter fun f => isOperation f.body && (s.task f.task).ver.toNat == l.ver &&
      dieOf (endPos f.dst) == die && dieOf (endPos f.src) != die).length

/-- Every older launch of the job has committed or finally aborted (R316). -/
def State.oldestOpen (s : State) (ver : Nat) : Bool :=
  !s.launches.any fun e => e.2.open' && olderVer e.1 ver

/-- The root's entry. -/
def State.rootEntry (s : State) (l : Launch) : Entry := s.entry (hKey l.root)

/-- What the coordinator itself sees of R316 and R324: the root RESOLVED and no older launch open. -/
def State.mayDecide (s : State) (l : Launch) : Bool :=
  l.state == .running && l.cause.isNone && (s.rootEntry l).state == .resolved && s.oldestOpen l.ver

/-- A control message between Granaries (R323, R325). -/
def State.ctrl (s : State) (src dst : Nat) (m : Ctrl) : State := s.fly 0 (granaryEnd src) (granaryEnd dst) 3 (.ctrl m)

/-- A round starts (R324): PREPARE to every participant. -/
def State.startRound (s : State) (l : Launch) : State :=
  let n := l.round + 1
  let s := s.onLaunch l.ver fun l => { l with round := n, answered := [], retracted := false }
  (s.diesOf l).foldl (fun s d => s.ctrl l.coordinator d (.prepare l.ver n d)) s

/-- A commit aborts a launch (R317): it may be tried again. -/
def State.conflictLaunch (s : State) (ver : Nat) : State :=
  s.onLaunch ver fun l => if l.cause.isSome then l else { l with cause := some 0x50, conflict := true }

/-- Granules of a read or write set (R314). -/
def Launch.grans (l : Launch) (p : Shadow → Bool) : List (Bool × Nat) := (l.shadow.filter p).map fun e => (e.host, e.granule)

/-- Granules with REDUCE records. -/
def Launch.reduceGrans (l : Launch) : List (Bool × Nat) := l.reduce.map fun r => (r.host, granuleOf r.addr)

/-- ABORT_YOUNGER (R317): a younger launch meets a committing one's sets. -/
def meetsSets (l y : Launch) : Bool :=
  ((y.grans fun e => e.rd || e.wr).any fun g => (l.grans fun e => e.wr).contains g) ||
    (y.grans fun e => e.rd).any fun g => l.reduceGrans.contains g

/-- The kinds of REDUCE records in the order of R321. -/
def reduceOrder : AtomicOp → Nat
  | .add => 0 | .fadd => 1 | .and => 2 | .or => 3 | .xor => 4 | .min => 5 | .max => 6 | _ => 7

/-- The place of a record in the merge (R321): ascending address, 32-bit before 64-bit, then by kind. -/
def ReduceRec.rank (r : ReduceRec) : Nat := ((r.addr * 16 + r.bytes) * 8 + reduceOrder r.op) * 2 + bit r.signed

/-- A record put among ranked ones. -/
def insertRec (r : ReduceRec) : List ReduceRec → List ReduceRec
  | [] => [r]
  | x :: l => if r.rank ≤ x.rank then r :: x :: l else x :: insertRec r l

/-- The exact value of an AFADD record (R321). -/
def ReduceRec.num (r : ReduceRec) : Num :=
  if r.nan || (r.posInf && r.negInf) then .nan
  else if r.posInf then .inf false
  else if r.negInf then .inf true
  else .fin (decide (r.mant < 0) || (r.mant == 0 && r.negZero)) r.mant.natAbs r.exp

/-- REDUCE_MERGE (R321) of one record into a committed value. -/
def ReduceRec.merge (r : ReduceRec) (c : Nat) : Nat :=
  let w := 8 * r.bytes
  match r.op with
  | .add => wrap w ((c : Int) + r.mant)
  | .fadd =>
    let f : Fmt := if w = 32 then .fp32 else .fp64
    f.round .rne ((f.decode c).add false r.num)
  | .and => c &&& r.mant.toNat
  | .or => c ||| r.mant.toNat
  | .xor => c ^^^ r.mant.toNat
  | .min => extremeOf false r.signed w c r.mant.toNat
  | .max => extremeOf true r.signed w c r.mant.toNat
  | _ => c

/-- The records of a launch merged over committed memory, as slots to be copied home (R318, R321). -/
def mergedSlots (m : Memory) (rs : List ReduceRec) : List Shadow :=
  let step (x : Memory × List Shadow) (r : ReduceRec) : Memory × List Shadow :=
    let bs := leBytes r.bytes (r.merge (x.1.num r.addr r.bytes))
    let cells : Store Byte := (List.range r.bytes).map fun i => (r.addr + i, bs.getD i 0)
    (x.1.write r.addr bs, x.2 ++ [{ Shadow.fresh r.host (granuleOf r.addr) 0 with wr := true, bytes := cells }])
  (rs.foldl step (m, [])).2

/-- The L1 bytes of a launch written back under their tags (R291). -/
def State.flushLaunch (s : State) (ver : Nat) : State :=
  s.cores.foldl (fun s e => s.sweep e.1 false fun x => x.ver.toNat == ver && x.dirty != 0) s

/-- Sub-versions that are still unfolded are discarded (R322). -/
def State.discardUnfolded (s : State) (l : Launch) : State :=
  (l.subvs.filter fun e => e.2 == .live || e.2 == .kept).foldl (fun s e => s.discard l.ver (BitVec.ofNat 12 e.1)) s

/-- The copying of every older launch is done. -/
def State.olderCopied (s : State) (ver : Nat) : Bool :=
  !s.launches.any fun o => olderVer o.1 ver && o.2.state == .committed && !o.2.toCopy.isEmpty

/-- The last of a commit (R318, R262): the completion record and what follows it; then the slots and entries are free. -/
def State.reportCommit (s : State) (l : Launch) : State := (s.launchReport l 0 l.result l.endedAt).dropLaunch l.ver

/-- When nothing is left to copy, here or of an older launch, the participants report DONE (R318, R323). -/
def State.afterCopy (s : State) (ver : Nat) : State :=
  match s.launch? ver with
  | none => s
  | some l =>
    if !l.toCopy.isEmpty || !s.olderCopied ver then s
    else if s.oneDie l then s.reportCommit l
    else
      let others := (s.diesOf l).filter fun d => d != l.coordinator
      others.foldl (fun s d => s.ctrl d l.coordinator (.done ver d)) (s.onLaunch ver fun l => { l with doneSent := true })

/-- A commit meets the younger launches (R317): it aborts those whose sets it meets, and the others keep in mind what it
wrote (assumption log 6). -/
def State.meetYounger (s : State) (l : Launch) : State :=
  let wrote := (l.grans fun e => e.wr) ++ l.reduceGrans
  s.launches.foldl (fun s e =>
    if e.2.state == .running && olderVer l.ver e.1 then
      if meetsSets l e.2 then
        let s := s.conflictLaunch e.1
        if e.2.coordinator == l.coordinator then s
        else s.ctrl l.coordinator e.2.coordinator (.abortq e.1 l.coordinator 0x50)
      else s.onLaunch e.1 fun y => { y with laterCommits := wrote ++ y.laterCommits }
    else s) s

/-- The commit point of a launch and what follows in the same step (R316 to R318, R321, R308): launch end. The copying and
the completion record follow. -/
def State.commitPoint (s : State) (ver : Nat) : State :=
  match s.launch? ver with
  | none => s
  | some l0 =>
    let s := (s.discardUnfolded l0).flushLaunch ver
    match s.launch? ver with
    | none => s
    | some l =>
      let value := (s.rootEntry l).value
      let s := s.meetYounger l
      let slots : List Shadow := l.shadow.filter fun (e : Shadow) => e.wr && e.subv == 0
      let host : List Shadow := slots.filter fun (e : Shadow) => e.host
      let device : List Shadow := slots.filter fun (e : Shadow) => !e.host
      let merged := mergedSlots (overlay (s.committed false) (device.flatMap fun (e : Shadow) => e.bytes))
        ((l.reduce.filter fun r => r.subv == 0).foldl (fun rs r => insertRec r rs) [])
      let s : State := { s with host := host.foldl (fun m (e : Shadow) => overlay m e.bytes) s.host }
      let s : State := s.onLaunch ver fun l =>
        { l with state := .committed, toCopy := device ++ merged, copied := [l.coordinator], result := value, endedAt := s.now }
      let s := s.launchOver l true
      let clear (r : LaunchRecord) : LaunchRecord := if r.armer == some ver then { r with armer := none } else r
      let s := { s with leases := s.leases.map fun (e : Nat × Lease) => (e.1, { e.2 with records := e.2.records.map fun (r : Nat × LaunchRecord) => (r.1, clear r.2) }) }
      s.afterCopy ver

/-- LAUNCH_COMMIT (R316, R324): with one die, the conditions are met and the commit point is reached; with several, a
first round starts, and the commit point comes when every participant has recorded COMMIT. A launch that read a granule
which an older commit had changed is aborted instead (assumption log 6). -/
def eventLaunchCommit (ver : Nat) (s : State) : Option State :=
  match s.launch? ver with
  | none => none
  | some l =>
    if s.stop != .no || !s.mayDecide l then none
    else if l.decided then
      (if (s.diesOf l).all fun d => l.applied.contains d then some (s.commitPoint ver) else none)
    else if l.staleNow then some (s.conflictLaunch ver)
    else if s.oneDie l then (if s.quiet l then some (s.commitPoint ver) else none)
    else if l.round = 0 then some (s.startRound l)
    else none

/-- The row LAUNCH_COMMIT: `eventLaunchCommit`, or nothing (assumption log 4). -/
def execLaunchCommit (ver : Nat) (s : State) : Out := happens s (eventLaunchCommit ver s)

/-- The job's images are being written, or are all that is left of it (R334): nothing of it moves. -/
def State.imaged (s : State) : Bool := s.stop == .cut || s.stop == .quiescent

/-- SHADOW_GRANULE_COPY (R318): one granule is copied home, after every older launch's copy of it; with none left, what
follows the copying, in version order. -/
def eventShadowGranuleCopy (ver : Nat) (s : State) : Option State :=
  match s.launch? ver with
  | none => none
  | some l =>
    match l.state, l.toCopy with
    | .committed, e :: rest =>
      let before := s.imaged || s.launches.any fun o => olderVer o.1 ver && o.2.toCopy.any fun x => x.granule == e.granule
      if before then none
      else
        let s := { s with mem := overlay s.mem e.bytes }.onLaunch ver fun l => { l with toCopy := rest }
        some (s.afterCopy ver)
    | .committed, [] =>
      if l.doneSent || s.imaged || !s.olderCopied ver then none else some (s.afterCopy ver)
    | _, _ => none

/-- The row SHADOW_GRANULE_COPY: `eventShadowGranuleCopy`, or nothing (assumption log 4). -/
def execShadowGranuleCopy (ver : Nat) (s : State) : Out := happens s (eventShadowGranuleCopy ver s)

/-- The control message that an arriving flight carries (R367). -/
def State.ctrlOf (s : State) (k : Nat) : Option Ctrl :=
  (s.arriving k).bind fun f => match f.body with
    | .ctrl m => some m
    | _ => none

/-- PREPARE (R323, R325): a participant answers once its own agents are done; one of a round that is over is dropped. -/
def eventPrepareMsg (k : Nat) (s : State) : Option State :=
  match s.ctrlOf k with
  | some (.prepare v n d) =>
    match s.launch? v with
    | none => some (s.land k)
    | some l =>
      if l.round != n || l.cause.isSome then some (s.land k)
      else if !s.quietAt v d then none
      else some ((s.land k).ctrl d l.coordinator (.prepared v n d (l.sentBy d) (s.acceptedBy l d)))
  | _ => none

/-- The row PREPARE_MSG: `eventPrepareMsg`, or nothing (assumption log 4). -/
def execPrepareMsg (k : Nat) (s : State) : Out := happens s (eventPrepareMsg k s)

/-- PREPARED (R324): once every participant has answered, the coordinator decides, or starts a new round. -/
def eventPreparedMsg (k : Nat) (s : State) : Option State :=
  match s.ctrlOf k with
  | some (.prepared v n d sent taken) =>
    let s := s.land k
    match s.launch? v with
    | none => some s
    | some l =>
      if l.round != n || l.decided || l.cause.isSome then some s
      else
        let l := { l with answered := (d, sent, taken) :: l.answered.filter fun a => a.1 != d }
        let s := s.onLaunch v fun _ => l
        let all := (s.diesOf l).all fun d => l.answered.any fun a => a.1 == d
        let sums := l.answered.foldl (fun (x : Nat × Nat) a => (x.1 + a.2.1, x.2 + a.2.2)) (0, 0)
        if !all then some s
        else if sums.1 == sums.2 && !l.retracted && s.mayDecide l && !l.staleNow && s.stop == .no then
          let s := s.onLaunch v fun l => { l with decided := true, applied := [] }
          some ((s.diesOf l).foldl (fun s d => s.ctrl l.coordinator d (.commit v d)) s)
        else some (s.startRound l)
  | _ => none

/-- The row PREPARED_MSG: `eventPreparedMsg`, or nothing (assumption log 4). -/
def execPreparedMsg (k : Nat) (s : State) : Out := happens s (eventPreparedMsg k s)

/-- RETRACT (R323, R324): the round will not decide. -/
def eventRetractMsg (k : Nat) (s : State) : Option State :=
  match s.ctrlOf k with
  | some (.retract v _) => some ((s.land k).onLaunch v fun l => { l with retracted := true })
  | _ => none

/-- The row RETRACT_MSG: `eventRetractMsg`, or nothing (assumption log 4). -/
def execRetractMsg (k : Nat) (s : State) : Out := happens s (eventRetractMsg k s)

/-- COMMIT (R323): a participant records the decision. -/
def eventCommitMsg (k : Nat) (s : State) : Option State :=
  match s.ctrlOf k with
  | some (.commit v d) => some ((s.land k).onLaunch v fun l => { l with applied := d :: l.applied })
  | _ => none

/-- The row COMMIT_MSG: `eventCommitMsg`, or nothing (assumption log 4). -/
def execCommitMsg (k : Nat) (s : State) : Out := happens s (eventCommitMsg k s)

/-- An abort takes place on one die (R319, R248, R286): tasks and activations retire CANCELLED at their next
instruction boundary, messages leave the inboxes, dirty L1 bytes are discarded, and stores on their way write nothing. -/
def State.abortAt (s : State) (ver die : Nat) : State :=
  let there (pos : Nat) : Bool := dieOf pos == die
  let clean (c : Core) : Core :=
    { c with
      inbox := c.inbox.filter fun m => m.ver.toNat != ver
      l1 := c.l1.filter fun x => x.ver.toNat != ver || x.pinned }
  let s : State := { s with cores := s.cores.map fun (e : Nat × Core) => (e.1, if there (e.1 / 8) then clean e.2 else e.2) }
  let ids := (s.liveTasks.filter fun e => e.2.ver.toNat == ver && there e.2.pos && e.2.loom != .retiring).map (·.1)
  ((ids.foldl (fun s id => if (s.task id).live then s.cancelTask id else s) s).dropStores fun t =>
    t.ver.toNat == ver && there t.pos).onLaunch ver fun l => { l with applied := die :: l.applied }

/-- The launch is tried again after its abort (R320). -/
def Launch.retried (l : Launch) : Bool := l.conflict && l.retries != 0 && !l.killed

/-- A launch that ends ABORTED or GRANARY_FULL has its root poisoned with that cause (R315, R320). -/
def State.poisonRoot (s : State) (l : Launch) : State :=
  let c := l.cause.getD 0
  let e := s.entry (hKey l.root)
  if l.retried || l.killed || !(c == 0x50 || c == 0x51) || e.isSettled || e.gen != hGen l.root then s
  else s.settle (hKey l.root) l.root .poisoned 0 c 0 none 0

/-- The coordinator decides on an abort (R319, R323): it takes place at once on one die, and by ABORT on several. -/
def State.beginAbort (s : State) (l : Launch) : State :=
  let s := (s.onLaunch l.ver fun l => { l with state := .aborting, applied := [] }).poisonRoot l
  if s.oneDie l then (s.diesOf l).foldl (fun s d => s.abortAt l.ver d) s
  else (s.diesOf l).foldl (fun s d => s.ctrl l.coordinator d (.abort l.ver d (l.cause.getD 0))) s

/-- A launch that is aborted is tried again under a new version (R320, R286). -/
def Launch.retry (l : Launch) (retries : Nat) : Launch :=
  { Launch.none with
    lease := l.lease, recIx := l.recIx, queue := l.queue, slotIx := l.slotIx, entry := l.entry, data := l.data
    payload := l.payload, quota := l.quota, retries := retries, flags := l.flags, phase := l.phase
    completion := l.completion, trapVec := l.trapVec, state := .starting, again := true }

/-- A start joins those that wait. -/
def State.addStart (s : State) (l : Launch) : State :=
  { s with starts := s.starts.put s.seq l, seq := s.seq + 1 }

/-- The final part of an abort (R319, R320, R237, R391): what the launch held is free; it is tried again after a
conflict while retries are left, else its completion record is written. -/
def State.finishAbort (s : State) (l : Launch) : State :=
  let s := s.disarmAll l.ver
  let gone (s : State) : State := s.dropLaunch l.ver
  if l.retried then gone ((s.freeEntries l.ver).addStart (l.retry (l.retries - 1)))
  else gone (s.launchEnd l (l.cause.getD 0) 0)

/-- LAUNCH_ABORT (R319): it begins when the cause is known to the coordinator, and it is final when every die to which ABORT
went has applied it and nothing of the launch is left on any die. -/
def eventLaunchAbort (ver : Nat) (s : State) : Option State :=
  match s.launch? ver with
  | none => none
  | some l =>
    let told := !s.flight.any fun f => match f.body with
      | .ctrl (.abortq v _ _) => v == ver
      | _ => false
    let dumping := s.dumps.any fun d => (s.task d.task).ver.toNat == ver
    if l.cause.isNone || l.decided || !told || s.imaged then none
    else
      match l.state with
      | .running => some (s.beginAbort l)
      | .aborting =>
        let telling := s.flight.any fun f => match f.body with
          | .ctrl (.abort v _ _) => v == ver
          | _ => false
        if !telling && s.quiet l && !dumping then some (s.finishAbort l)
        else none
      | _ => none

/-- The row LAUNCH_ABORT: `eventLaunchAbort`, or nothing (assumption log 4). -/
def execLaunchAbort (ver : Nat) (s : State) : Out := happens s (eventLaunchAbort ver s)

/-- ABORT (R323): a participant applies the coordinator's decision. -/
def eventAbortMsg (k : Nat) (s : State) : Option State :=
  match s.ctrlOf k with
  | some (.abort v d _) => some ((s.land k).abortAt v d)
  | _ => none

/-- The row ABORT_MSG: `eventAbortMsg`, or nothing (assumption log 4). -/
def execAbortMsg (k : Nat) (s : State) : Out := happens s (eventAbortMsg k s)

/-- ABORTQ (R323): the coordinator learns that a participant aborted the launch. -/
def eventAbortqMsg (k : Nat) (s : State) : Option State :=
  match s.ctrlOf k with
  | some (.abortq v _ c) => some ((s.land k).failLaunch v c)
  | _ => none

/-- The row ABORTQ_MSG: `eventAbortqMsg`, or nothing (assumption log 4). -/
def execAbortqMsg (k : Nat) (s : State) : Out := happens s (eventAbortqMsg k s)

/-- DONE (R323): after the last participant's, the launch is gone. -/
def eventDoneMsg (k : Nat) (s : State) : Option State :=
  match s.ctrlOf k with
  | some (.done v d) =>
    let s := (s.land k).onLaunch v fun l => { l with copied := d :: l.copied }
    match s.launch? v with
    | none => some s
    | some l => some (if (s.diesOf l).all fun d => l.copied.contains d then s.reportCommit l else s)
  | _ => none

/-- The row DONE_MSG: `eventDoneMsg`, or nothing (assumption log 4). -/
def execDoneMsg (k : Nat) (s : State) : Out := happens s (eventDoneMsg k s)

/-- A launch that has not started is given up (R248): its record returns to IDLE and its version is finally aborted. -/
def State.killStart (s : State) (l : Launch) : State :=
  let s := match l.recIx with
    | some i => s.onLease l.lease fun x => { x with armed := x.armed.filter fun j => j != i }
    | none => s
  let s := { s with launches := s.launches.drop l.ver, starts := s.starts.filter fun e => !(e.2.versioned && e.2.ver == l.ver) }
  s.launchEnd l 0x52 0

/-- A launch is killed (R248): every task of it stops, and it ends KILLED. -/
def State.kill (s : State) (l : Launch) : State :=
  match l.state with
  | .starting => s.killStart l
  | .running =>
    let s := s.onLaunch l.ver fun l => { l with killed := true, cause := some 0x52, conflict := false }
    s.beginAbort { l with killed := true, cause := some 0x52, conflict := false }
  | .aborting => s.onLaunch l.ver fun l => { l with killed := true, cause := some 0x52, conflict := false }
  | _ => s

/-- LAUNCH_KILL (R248). -/
def eventLaunchKill (ver : Nat) (s : State) : Option State :=
  match s.launch? ver with
  | some l => if l.open' && !l.decided then some (s.kill l) else none
  | none => none

/-- The row LAUNCH_KILL: `eventLaunchKill`, or nothing (assumption log 4). -/
def execLaunchKill (ver : Nat) (s : State) : Out := happens s (eventLaunchKill ver s)

/-- Every launch that a test accepts is killed; relaunches that wait are given up (R330, R409). -/
def State.killAll (s : State) (p : Launch → Bool) : State :=
  let s := (s.launches.filter fun e => p e.2 && e.2.open' && !e.2.decided).foldl (fun s e => match s.launch? e.1 with
    | some l => s.kill l
    | none => s) s
  let again := s.starts.filter fun e => e.2.again && p e.2
  let s := { s with starts := s.starts.filter fun e => !(e.2.again && p e.2) }
  again.foldl (fun s e => s.launchEnd e.2 0x52 0) s

end Sys2Proof.Machine
end

