-- ==== Sys2Proof/Machine/Matrix.lean ====
section
/-! DEFINITION. Class 0x8: matrix commands and TMV at issue, and the sums that MMA and TMV share (R77 to R84, R173 to
R186, R374). -/
namespace Sys2Proof.Machine

open Sys2Proof

/-- The token register of the task's pending MGANG, on whichever core it asked for it (R176). -/
def State.gangToken (s : State) (id : Nat) : Option Reg :=
  firstSome (fun (e : Nat × Core) => match e.2.pending with
    | some (i, _, d) => if i == id then some d else none
    | none => none) s.cores

/-- The number of a task's pending MGANG among its commands (R346). -/
def State.gangOrdinal (s : State) (id : Nat) : Nat :=
  (firstSome (fun (e : Nat × Core) => match e.2.pending with
    | some (i, _, _) => if i == id then some e.2.pendingOrdinal else none
    | none => none) s.cores).getD 0

/-- A command that its issue starts or ends at once counts among its task's (R346). -/
def State.countCommand (s : State) : State := s.onMe fun t => { t with enqueued := t.enqueued + 1 }

/-- The task's MGANG is pending (R176). -/
def State.gangPending (s : State) (id : Nat) : Bool := (s.gangToken id).isSome

/-- The z specifier that a command names (R268): 0 where SC is unused. -/
def zSpec (f : Fields) : Word :=
  match f.c.reg with
  | .z n => w64 (0x60 + n.val)
  | _ => 0

/-- The accumulator that SC names (R173). -/
def zOf (f : Fields) : Fin 2 :=
  match f.c.reg with
  | .z n => n
  | _ => 0

/-- A matrix command enters its slice's queue of 8 (R174); enqueue is a release point. -/
def matrixEnqueue (f : Fields) (op : EngineOp) (held : Option (Bool × Fin 8)) (s : State) : Res :=
  let u : EngineUnit := .slice s.me.core
  if 8 ≤ (s.jobs u).length then .wait .place s
  else released (fun s => .ok (s.enqueue u { s.newCommand f op held with acc := zOf f })) s

/-- A command of the holder of the accumulators (R174, R186). An instruction that meets both a full queue and accumulators that
its slot does not hold waits first, and traps when the queue has room: the spec gives no order (assumption log 51). -/
def matrixOp (f : Fields) (work : Option (Bool × Fin 8) → State → Res) (s : State) : Out :=
  run (engineIssue f fun held s =>
    if 8 ≤ (s.jobs (.slice s.me.core)).length then .wait .place s
    else if !s.holds s.cur then .trap 0x26 0 (zSpec f)
    else work held s) s

/-- MLDB (R178). -/
def execMldb (f : Fields) (s : State) : Out := matrixOp f (matrixEnqueue f .mldb) s
/-- MMA (R180). -/
def execMma (f : Fields) (s : State) : Out := matrixOp f (matrixEnqueue f .mma) s
/-- MZERO (R183). -/
def execMzero (f : Fields) (s : State) : Out := matrixOp f (matrixEnqueue f .mzero) s
/-- MRDZ (R183). -/
def execMrdz (f : Fields) (s : State) : Out := matrixOp f (matrixEnqueue f .mrdz) s
/-- MWRZ (R183). -/
def execMwrz (f : Fields) (s : State) : Out := matrixOp f (matrixEnqueue f .mwrz) s

/-- A block scale is valid (R80). -/
def validScale (x : Nat) : Bool :=
  match Fmt.fp32.decode x with
  | .fin false m _ => m != 0
  | _ => false

/-- MSCALE (R179): both scales are checked at issue. -/
def execMscale (f : Fields) (s : State) : Out :=
  matrixOp f (fun held s =>
    let a := bits (s.sa f) 31 0
    let b := bits (s.sb f) 31 0
    if validScale a && validScale b then matrixEnqueue f .mscale held s else .trap 0x19 0 (w64 (a + b <<< 32))) s

/-- A gang forms (R176): each member holds its core's accumulators, whose contents are undefined, its buffers are empty,
and every token receives OK in the same step. A member that has retired since it issued its MGANG releases them once its commands
have completed (R19, R177). -/
def State.formGang (s : State) (pos : Nat) (mask : BitVec 8) : State :=
  (maskList 8 mask.toNat).foldl (fun s i =>
    let k := pos * 8 + i
    match (s.core k).pending with
    | none => s
    | some (id, _, dst) =>
      let e := s.fresh
      let n := (s.core k).pendingOrdinal
      let s := (s.freshen).onCore k fun c =>
        { c with holder := some id, pending := none, acc := Vector.replicate 2 (Acc.fresh e)
                 buf := Vector.replicate 2 none, gang := mask, gangStep := 0, broken := false
                 release := !(s.task id).live }
      (s.endChunk id n).writeToken id dst (tokenWord 0 0)) s

/-- An MGANG starts (R176): refused, pending, or, for a mask of one core, formed at once. `n` is its number among its task's
commands. -/
def State.startGang (s : State) (id : Nat) (k : Nat) (mask : BitVec 8) (dst : Reg) (n : Nat) : State :=
  let c := s.core k
  if c.holder.isSome || c.pending.isSome then (s.endChunk id n).writeToken id dst (tokenWord 0x26 0)
  else if !mask.getLsbD (k % 8) then (s.endChunk id n).writeToken id dst (tokenWord 0x1A 0)
  else
    let s := s.onCore k fun c => { c with pending := some (id, mask, dst), pendingOrdinal := n }
    if maskList 8 mask.toNat = [k % 8] then s.formGang (k / 8) mask else s

/-- MGANG (R176): it needs no accumulators. With room in the queue and no earlier matrix command of its task there it starts at
once. -/
def execMgang (f : Fields) (s : State) : Out :=
  run (engineIssue f fun held s =>
    let k := s.me.core
    if 8 ≤ (s.jobs (.slice k)).length then .wait .place s
    else if held.isNone && (s.core k).queue.all (fun c => c.task != s.cur) then
      released (fun s => .ok ((s.countCommand.emptyDst f.dst).startGang s.cur k (BitVec.ofNat 8 (exOf f)) f.dst s.me.enqueued)) s
    else matrixEnqueue f .mgang held s) s

/-- An MREL that finds its task's MGANG pending withdraws it (R177): the MGANG's token receives DISCARDED. -/
def State.discardGang (s : State) (id : Nat) : State :=
  match s.gangToken id with
  | some d => ((s.withdrawGang id).endChunk id (s.gangOrdinal id)).writeToken id d (tokenWord 0x80 0)
  | none => s

/-- MREL (R177, R49): issued while its task's MGANG is pending, it withdraws that, at once unless it is held or an earlier
command of the task is in the queue; else it is a command of the holder. -/
def execMrel (f : Fields) (s : State) : Out :=
  run (engineIssue f fun held s =>
    if 8 ≤ (s.jobs (.slice s.me.core)).length then .wait .place s
    else if s.gangPending s.cur then
      (if held.isNone && (s.core s.me.core).queue.all (fun c => c.task != s.cur) then
        released (fun s => .ok (((s.countCommand.discardGang s.cur).endChunk s.cur s.me.enqueued).writeToken s.cur f.dst (tokenWord 0 0))) s
      else matrixEnqueue f .mrelPending held s)
    else if !s.holds s.cur then .trap 0x26 0 (zSpec f)
    else matrixEnqueue f .mrel held s) s

/-- TMV (R184, R185): the port of a cluster queues 16 commands, 4 of a task. -/
def execTmv (f : Fields) (s : State) : Out :=
  run (engineIssue f fun held s =>
    let u : EngineUnit := .thresher s.me.pos
    if 16 ≤ (s.jobs u).length || 4 ≤ jobsOf (s.jobs u) s.cur then .wait .place s
    else released (fun s => .ok (s.enqueue u (s.newCommand f .tmv held))) s) s

/-- The value of an element's code (R66 to R68, R77). -/
def Fmt.value (f : Fmt) (x : Nat) : Num :=
  if f.isFp then f.decode x else .ofInt (if f.isSigned then sgn f.width x else (x % 2 ^ f.width : Nat))

/-- A format accepted as B (R178). -/
def isB (f : Fmt) : Bool :=
  match f with
  | .e4m3 | .e5m2 | .fp16 | .bf16 | .i8 | .u8 | .i4 | .u4 | .q8g | .q4g => true
  | _ => false

/-- The accumulator kind of a pair of formats, A first; none for a pair that R180 does not list. -/
def pairKind (a b : Fmt) : Option AccKind :=
  let fp8 (f : Fmt) : Bool := f == .e4m3 || f == .e5m2
  let int8 (f : Fmt) : Bool := f == .i8 || f == .u8
  if fp8 a && fp8 b then some .fp32
  else if (a == .fp16 && b == .fp16) || (a == .bf16 && b == .bf16) then some .fp32
  else if int8 a && (int8 b || b == .i4 || b == .u4) then some .int32
  else if (int8 a || fp8 a) && (b == .q8g || b == .q4g) then some .fp32
  else none

/-- The segments of a run of K indices (R81): it is cut at every multiple of the group size. -/
def segments (g : Nat) : Nat → Nat → Nat → List (Nat × Nat)
  | 0, _, _ => []
  | n + 1, lo, hi =>
    if hi ≤ lo then []
    else
      let e := if g = 0 then hi else Nat.min hi ((lo / g + 1) * g)
      (lo, e) :: segments g n e hi

/-- The exact sum of the products of `n` indices from `k` (R82): each weight less the zero point. -/
def dotFrom (a w : Nat → Num) (zero : Int) : Nat → Nat → Num → Num
  | 0, _, p => p
  | n + 1, k, p => dotFrom a w zero n (k + 1) (p.add false ((a k).mul ((w k).add false (.ofInt (-zero)))))

/-- The exact sum of a segment (R82). -/
def segmentSum (a w : Nat → Num) (zero : Int) (seg : Nat × Nat) : Num :=
  dotFrom a w zero (seg.2 - seg.1) seg.1 (.fin false 0 0)

/-- One segment of R82: the scaled sum rounded, then the accumulator rounded. -/
def stepFp (acc : Nat) (p : Num) : Nat :=
  let t := Fmt.fp32.round .rne p
  Fmt.fp32.round .rne ((Fmt.fp32.decode acc).add false (Fmt.fp32.decode t))

/-- An exact integer sum as an integer. -/
def Num.int : Num → Int
  | .fin n m e => scaled n m e 0
  | _ => 0

/-- One K step of R83 on an accumulator: it wraps, or saturates. -/
def stepInt (sat : Bool) (acc : Nat) (p : Int) : Nat :=
  let x := sgn 32 acc + p
  if sat then wrap 32 (if x < intMin 32 true then intMin 32 true else if intMax 32 true < x then intMax 32 true else x)
  else wrap 32 x

/-- The step of one output over a run of K indices (R82, R83): `group k` is the scale and zero point of a group, and
`block k` the product of the block scales. -/
def stepOutput (kind : AccKind) (sat : Bool) (g : Nat) (a w : Nat → Num) (group : Nat → Option (Num × Int))
    (block : Nat → Num) (lo hi acc : Nat) : Nat :=
  match kind with
  | .int32 => stepInt sat acc (segmentSum a w 0 (lo, hi)).int
  | _ =>
    (segments g (hi - lo) lo hi).foldl (fun acc seg =>
      match group seg.1 with
      | some (sc, z) => stepFp acc (((segmentSum a w z seg).mul sc).mul (block seg.1))
      | none => stepFp acc ((segmentSum a w 0 seg).mul (block seg.1))) acc

/-- 1.0. -/
def Num.one : Num := .fin false 1 0

/-- A word written at a row and column. -/
def Acc.setCell (a : Acc) (r n : Nat) (x : BitVec 32) : Acc := { a with cells := a.cells.put (r * 96 + n) x }

/-- The scale product of an accumulator as a number (R179). -/
def Acc.product (a : Acc) : Num := .fin false a.productMant a.productExp

/-- The format that a B buffer holds. -/
def BBuf.format (b : BBuf) : Fmt := (Fmt.ofCode b.fmt.toNat).getD .i8

/-- An element of a B buffer (R178): zero beyond EXT0. -/
def BBuf.elem (b : BBuf) (k n : Nat) : Num := b.format.value ((Store.find b.codes (k * 96 + n)).getD 0)

/-- The scale and zero point of a buffer's group (R178, R77). -/
def BBuf.group (b : BBuf) (k n : Nat) : Option (Num × Int) :=
  if b.grp = 0 then none
  else
    let i := k / groupSize b.grp.toNat * 96 + n
    some (Fmt.fp16.decode ((Store.find b.scales i).getD 0), sgn 8 ((Store.find b.zeros i).getD 0))

/-- One row of an MMA step on one slice (R180): present columns only. -/
def applyRow (c : Command) (b : BBuf) (kind : AccKind) (fa : Fmt) (bsc : Bool) (kend r : Nat) (row : List Nat) (a : Acc) :
    Acc :=
  (List.range b.columns).foldl (fun a n =>
    let block := if bsc || b.bsc then a.product else Num.one
    let v := stepOutput kind (c.mod.getLsbD 4) (groupSize b.grp.toNat) (fun k => fa.value (row.getD (k - b.k0) 0))
      (fun k => b.elem k n) (fun k => b.group k n) (fun _ => block) b.k0 kend (a.cell c.acc r n).toNat
    a.setCell r n (BitVec.ofNat 32 v)) a

end Sys2Proof.Machine
end

