-- ==== Sys2Proof/Machine/MatrixEvents.lean ====
section
/-! DEFINITION. The events of the matrix slices (R174 to R183, R374 to R378, R431): starting a command, gang steps,
finishing, release. -/
namespace Sys2Proof.Machine

open Sys2Proof

/-- The pattern's bytes lie in one pinned window of the cluster's die (R178, R180, R429): page by page. -/
def State.pinnedOnDie (s : State) (lease pos : Nat) (p : PatWord) : Bool :=
  let span := patSpan p
  let pages := span.2 / 65536 - span.1 / 65536 + 1
  s.leases.any fun e => e.2.pinned.any fun w =>
    w.vdev * 8 + w.die == dieOf pos && decide (span.1 ≤ span.2) && decide (pages ≤ w.size / 65536 + 1) &&
      (List.range pages).all fun i =>
        let lo := if i = 0 then span.1 else (span.1 / 65536 + i) * 65536
        match s.resolveNow lease pos (w64 lo) with
        | .ok ⟨.mem _, a, _, _⟩ _ _ =>
          decide (memKey w.vdev w.pa ≤ a) && decide (a < memKey w.vdev w.pa + w.size)
        | _ => false

/-- A pattern lies where MMA and MLDB may read it: the cluster's scratchpad or a pinned window of the die. -/
def State.nearPattern (s : State) (t : Task) (pos : Nat) (p : PatWord) : Bool :=
  s.liesIn t pos p (fun x => x == some pos) || s.pinnedOnDie t.lease pos p

/-- The columns that an MLDB finds (R178). -/
def mldbColumns (c : Command) : Nat := Nat.min 96 (patE c.px 1 - bits c.a 63 32)

/-- The checks of MLDB in their order (R178, R147). -/
def mldbCheck (s : State) (t : Task) (pos : Nat) (c : Command) : Option (BitVec 8) :=
  let k0 := bits c.a 31 0
  let n0 := bits c.a 63 32
  if patEmpty c.px then some 0x81
  else
    match patFmt c.px with
    | none => some 0x82
    | some f =>
      if !isB f then some 0x82
      else if !s.nearPattern t pos c.px then some 0x85
      else if k0 % keOf f != 0 || decide (patE c.px 1 ≤ n0) ||
          (patBsc c.px && n0 / patTrows c.px != (n0 + 95) / patTrows c.px) then some 0x1A
      else none

/-- The kind of an accumulator lets a command of a kind add to it (R180). -/
def AccKind.admits (k need : AccKind) : Bool := k == .either || k == need

/-- The rows that an MMA applies (R180). -/
def mmaRows (c : Command) : Nat := Nat.min (c.ex % 256) (patE c.px 1 - bits c.a 63 32)

/-- The checks of MMA on one slice in their order (R180, R147). -/
def mmaCheck (s : State) (k : Nat) (c : Command) : Option (BitVec 8) :=
  let core := s.core k
  let m0 := bits c.a 63 32
  match core.buf.toList.getD (c.mod.toNat % 2) none with
  | none => some 0x8B
  | some b =>
    if patEmpty c.px then some 0x81
    else
      match (patFmt c.px).bind fun f => pairKind f b.format with
      | none => some 0x82
      | some kind =>
        if !(core.acc.get c.acc).kind.admits kind then some 0x82
        else if !s.nearPattern (s.task c.task) (k / 8) c.px then some 0x85
        else if bits c.a 31 0 != b.k0 || decide (patE c.px 1 ≤ m0) then some 0x1A
        else if patBsc c.px && m0 / patTrows c.px != (m0 + mmaRows c - 1) / patTrows c.px then some 0x1A
        else none

/-- MRDZ's destination formats by the accumulator's kind (R183). -/
def mrdzFormat (k : AccKind) (f : Fmt) : Bool :=
  match k, f with
  | .fp32, .fp32 | .fp32, .fp16 | .fp32, .bf16 | .fp32, .e4m3 | .fp32, .e5m2 => true
  | .int32, .i32 | .int32, .i16 | .int32, .i8 | .int32, .u8 => true
  | _, _ => false

/-- The pattern that MRDZ or MWRZ names. -/
def movePat (c : Command) : PatWord := if c.op = .mrdz then c.py else c.px

/-- The checks of MRDZ and MWRZ (R183). -/
def moveCheck (s : State) (k : Nat) (c : Command) : Option (BitVec 8) :=
  if patEmpty (movePat c) then some 0x81
  else
    match patFmt (movePat c) with
    | none => some 0x82
    | some f =>
      let ok := if c.op = .mrdz then mrdzFormat ((s.core k).acc.get c.acc).kind f else f == .fp32 || f == .i32
      if ok then none else some 0x82

/-- The kind that an MMA gives its accumulator (R180). -/
def State.mmaKind (s : State) (k : Nat) (c : Command) : AccKind :=
  match (s.core k).buf.toList.getD (c.mod.toNat % 2) none with
  | some b => ((patFmt c.px).bind fun f => pairKind f b.format).getD .either
  | none => .either

/-- An MMA starts on a slice whose checks have passed; the accumulator takes its kind (R180). -/
def State.startMma (s : State) (k : Nat) (c : Command) : State :=
  let kind := s.mmaKind k c
  (s.onJob (.slice k) c.id fun c => { c with started := true }).onCore k fun x =>
    { x with acc := x.acc.set c.acc { x.acc.get c.acc with kind := kind } }

/-- An earlier command of the same task lets a command start (R174): an MLDB and an MMA on different buffers run
together. -/
def letsStart (e c : Command) : Bool :=
  e.started && e.mod.getLsbD 0 != c.mod.getLsbD 0 &&
    ((e.op == .mma && c.op == .mldb) || (e.op == .mldb && c.op == .mma))

/-- An MGANG of the command's task is pending on the core: no later command of the task starts before it has formed (R174), but
the MREL that withdraws it (R177) and an MGANG that receives ACC_BUSY for it (R176). -/
def Core.awaitsGang (x : Core) (c : Command) : Bool :=
  c.op != .mrelPending && c.op != .mgang && (match x.pending with
    | some (id, _, _) => id == c.task
    | none => false)

/-- A command may start (R174): in the issue order of its task, not held, and one MLDB at a time (R376). -/
def Core.mayStart (x : Core) (c : Command) : Bool :=
  !c.started && c.held.isNone && (x.queue.all fun e => e.task != c.task || c.id ≤ e.id || letsStart e c) && !x.awaitsGang c &&
    !(c.op == .mldb && x.queue.any fun e => e.op == .mldb && e.started)

/-- The core is in a gang of several cores (R181). -/
def Core.grouped (x : Core) : Bool := decide (1 < (maskList 8 x.gang.toNat).length)

/-- The command that starts next on a slice by itself: an MMA of a gang of several waits for its step (R181). -/
def State.nextMatrix (s : State) (k : Nat) : Option Command :=
  let x := s.core k
  x.queue.find? fun c => x.mayStart c && !(c.op == .mma && x.grouped && !x.broken)

/-- MATRIX_COMMAND_START (R174, R180): the next command is checked and starts, or ends with its status at once. -/
def eventMatrixCommandStart (core : Nat) (s : State) : Option State :=
  let u : EngineUnit := .slice core
  if !s.enginesRun (core / 8) then none
  else
    match s.nextMatrix core with
    | none => none
    | some c =>
      let go (r : Option (BitVec 8)) : Option State := match r with
        | some st => some (s.endJob u c st 0)
        | none => some (s.onJob u c.id fun c => { c with started := true })
      match c.op with
      | .mgang => some (((s.dropJob u c.id)).startGang c.task core (BitVec.ofNat 8 c.ex) c.dst c.ordinal)
      | .mma =>
        if (s.core core).broken then some (s.endJob u c 0x8A 0)
        else
          match mmaCheck s core c with
          | some st => some (s.endJob u c st 0)
          | none => some (s.startMma core c)
      | .mldb => go (mldbCheck s (s.task c.task) (core / 8) c)
      | .mrdz | .mwrz => go (moveCheck s core c)
      | _ => go none

/-- The row MATRIX_COMMAND_START: `eventMatrixCommandStart`, or nothing (assumption log 4). -/
def execMatrixCommandStart (core : Nat) (s : State) : Out := happens s (eventMatrixCommandStart core s)

/-- GANG_FORMS (R176): every core of the mask has a pending MGANG with an equal mask. -/
def eventGangForms (pos : Nat) (mask : BitVec 8) (s : State) : Option State :=
  let ready (i : Nat) : Bool :=
    match (s.core (pos * 8 + i)).pending with
    | some (_, m, _) => m == mask
    | none => false
  if mask != 0 && (maskList 8 mask.toNat).all ready then some (s.formGang pos mask) else none

/-- The row GANG_FORMS: `eventGangForms`, or nothing (assumption log 4). -/
def execGangForms (pos : Nat) (mask : BitVec 8) (s : State) : Out := happens s (eventGangForms pos mask s)

/-- The MMA of a member that has reached the head of its queue (R377). -/
def State.memberMma (s : State) (k : Nat) (mask : BitVec 8) : Option Command :=
  let x := s.core k
  if x.gang == mask && !x.broken && x.holder.isSome then
    x.queue.find? fun c => c.op == .mma && x.mayStart c && x.holder == some c.task
  else none

/-- GANG_STEP_START (R377, R181): every member's next command is an MMA. Commands that do not match all end
GANG_MISMATCH; a member whose own check fails ends alone. -/
def eventGangStepStart (pos : Nat) (mask : BitVec 8) (s : State) : Option State :=
  let cores := (maskList 8 mask.toNat).map (pos * 8 + ·)
  let ms := cores.filterMap fun k => (s.memberMma k mask).map fun c => (k, c)
  if !s.enginesRun pos || cores.length < 2 || ms.length < cores.length then none
  else
    match ms with
    | [] => none
    | (_, l) :: _ =>
      let count (s : State) : State := cores.foldl (fun s k => s.onCore k fun c => { c with gangStep := c.gangStep + 1 }) s
      let same (c : Command) : Bool := c.pxn == l.pxn && c.a == l.a && c.ex == l.ex && fld c.px 63 56 == fld l.px 63 56
      if !ms.all fun m => same m.2 then some (count (ms.foldl (fun s m => s.endJob (.slice m.1) m.2 0x89 0) s))
      else
        let start (s : State) (m : Nat × Command) : State :=
          match mmaCheck s m.1 m.2 with
          | some st => s.endJob (.slice m.1) m.2 st 0
          | none => s.startMma m.1 m.2
        some (count (ms.foldl start s))

/-- The row GANG_STEP_START: `eventGangStepStart`, or nothing (assumption log 4). -/
def execGangStepStart (pos : Nat) (mask : BitVec 8) (s : State) : Out := happens s (eventGangStepStart pos mask s)

/-- Elements of a pattern read at their coordinates, each with a key. -/
def readCells (t : Task) (pos : Nat) (p : PatWord) :
    List (Nat × Nat × Nat) → List (Nat × Nat) → State → EngineRes (List (Nat × Nat))
  | [], got, s => .ok s got.reverse
  | (key, i0, i1) :: l, got, s =>
    match s.readElem t pos p i0 i1 0 0 with
    | .ok s x => readCells t pos p l ((key, x) :: got) s
    | .miss v a => .miss v a
    | .fail c a => .fail c a

/-- Numbers of `n` bytes read at addresses, each with a key. -/
def readBytesAt (t : Task) (pos n : Nat) : List (Nat × Nat) → List (Nat × Nat) → State → EngineRes (List (Nat × Nat))
  | [], got, s => .ok s got.reverse
  | (key, a) :: l, got, s =>
    match s.engineRead t pos a n with
    | .ok s bs => readBytesAt t pos n l ((key, leNat bs) :: got) s
    | .miss v x => .miss v x
    | .fail c x => .fail c x

/-- What an engine's read came to, for a command: the state with the walk joined, or the command ended. -/
def State.afterRead {α : Type} (s : State) (u : EngineUnit) (c : Command) (r : EngineRes α) (ok : State → α → State) :
    State :=
  match r with
  | .ok s x => ok s x
  | .miss v a => s.joinWalk (s.task c.task).lease v 3 (.command u c.id a)
  | .fail st a => s.endJob u c st a

/-- The block of an MLDB read (R178): codes by k*96+n, scales and zero points by group*96+n. -/
def readBlock (t : Task) (pos : Nat) (c : Command) (s : State) : EngineRes BBuf :=
  let p := c.px
  let k0 := bits c.a 31 0
  let n0 := bits c.a 63 32
  let f := (patFmt p).getD .i8
  let kend := Nat.min (k0 + keOf f) (patE p 0)
  let cols := mldbColumns c
  let g := groupSize (patGrp p)
  let codes := (List.range (kend - k0)).flatMap fun k => (List.range cols).map fun n => ((k0 + k) * 96 + n, k0 + k, n0 + n)
  let groups := if g = 0 || kend ≤ k0 then [] else (List.range ((kend - 1) / g + 1 - k0 / g)).flatMap fun i =>
    (List.range cols).map fun n => (k0 / g + i, n)
  (readCells t pos p codes [] s).bind fun s xs =>
    (readBytesAt t pos 2 (groups.map fun e =>
      (e.1 * 96 + e.2, offAddr p (patScale p + 2 * (groupIndex p (e.1 * g) (n0 + e.2) 0 0 : Nat)))) [] s).bind fun s sc =>
      (readBytesAt t pos 1 (groups.map fun e =>
        (e.1 * 96 + e.2, offAddr p (patZero p + (groupIndex p (e.1 * g) (n0 + e.2) 0 0 : Nat)))) [] s).bind fun s zs =>
        .ok s ⟨BitVec.ofNat 8 f.code, BitVec.ofNat 2 (patGrp p), patBsc p, k0, kend, xs, sc, zs, cols⟩

/-- The running MMAs of a core's step: its own, and those of its gang (R181). -/
def State.stepMembers (s : State) (k : Nat) : List (Nat × Command) :=
  ((k :: (if (s.core k).grouped then s.gangMates k else [])).filterMap fun j => (s.core j).running.map fun c => (j, c))

/-- The end of K for a member's step (R180). -/
def State.stepEnd (s : State) (m : Nat × Command) : Nat :=
  match (s.core m.1).buf.toList.getD (m.2.mod.toNat % 2) none with
  | some b => Nat.min (Nat.min (b.k0 + keOf b.format) (patE m.2.px 0)) b.kend
  | none => 0

/-- A row of A read once for the whole step (R181): the codes from k0 up to the largest end among its members (R180). -/
def readARow (t : Task) (pos : Nat) (c : Command) (ms : List (Nat × Command)) (r : Nat) (s : State) : EngineRes (List Nat) :=
  let k0 := bits c.a 31 0
  let m := bits c.a 63 32 + r
  let n := ms.foldl (fun n m => Nat.max n (s.stepEnd m)) 0 - k0
  (readCells t pos c.px ((List.range n).map fun k => (k, k0 + k, m)) [] s).bind fun s l => .ok s (l.map (·.2))

/-- One row applied to a member's accumulator, and counted (R180). -/
def State.applyTo (s : State) (r : Nat) (row : List Nat) (m : Nat × Command) : State :=
  let x := s.core m.1
  match x.buf.toList.getD (m.2.mod.toNat % 2) none, patFmt m.2.px with
  | some b, some fa =>
    let a := applyRow m.2 b (x.acc.get m.2.acc).kind fa (patBsc m.2.px) (s.stepEnd m) r row (x.acc.get m.2.acc)
    (s.onCore m.1 fun x => { x with acc := x.acc.set m.2.acc a }).onJob (.slice m.1) m.2.id fun c => { c with progress := r + 1 }
  | _, _ => s

/-- Up to `n` rows of a step applied from row `r` on, for every member alike (R377). -/
def mmaBlock (t : Task) (pos : Nat) (c : Command) (ms : List (Nat × Command)) : Nat → Nat → State → EngineRes Unit
  | 0, _, s => .ok s ()
  | n + 1, r, s =>
    if mmaRows c ≤ r then .ok s ()
    else (readARow t pos c ms r s).bind fun s row => mmaBlock t pos c ms n (r + 1) (ms.foldl (fun s m => s.applyTo r row m) s)

/-- Up to `n` blocks of 16 rows of a step applied from row `r` on: the state, and what stopped it. A block is never divided
(R182, R378): one that is stopped leaves the step at the boundary before. -/
def mmaAdvance (t : Task) (pos : Nat) (c : Command) (ms : List (Nat × Command)) : Nat → Nat → State → State × Option EngineStop
  | 0, _, s => (s, none)
  | n + 1, r, s =>
    if mmaRows c ≤ r then (s, none)
    else
      match mmaBlock t pos c ms (16 - r % 16) r s with
      | .ok s _ => mmaAdvance t pos c ms n (r + 16 - r % 16) s
      | .miss v a => (s, some (.inl (v, a)))
      | .fail st a => (s, some (.inr (st, a)))

/-- A number converted by MRDZ (R183, R76). -/
def mrdzConvert (c : Command) (kind : AccKind) (f : Fmt) (n : Nat) (x : Nat) : Nat :=
  let sat := c.mod.getLsbD 4
  match kind with
  | .int32 =>
    let v := sgn 32 x
    let lo := intMin f.width f.isSigned
    let hi := intMax f.width f.isSigned
    wrap f.width (if sat then (if v < lo then lo else if hi < v then hi else v) else v)
  | _ => Fmt.fp32.convert f (c.round (fld c.mod 7 5) n (sat && (f == .e4m3 || f == .e5m2))) x

/-- The columns that MRDZ writes and MWRZ reads (R183). -/
def moveCols (c : Command) : Nat := Nat.min 96 (patE (movePat c) 0 - bits c.a 31 0)
/-- The rows of the pattern that MRDZ writes and MWRZ reads (R183). -/
def moveRows (c : Command) : Nat := Nat.min (c.ex % 256) (patE (movePat c) 1 - bits c.a 63 32)

/-- The `i`-th element that MRDZ writes, row by row, with its place (R183). -/
def mrdzElement (t : Task) (pos : Nat) (core : Core) (c : Command) (i : Nat) (s : State) : EngineRes (Place × Nat) :=
  let p := c.py
  let r := i / moveCols c
  let col := i % moveCols c
  let i0 := bits c.a 31 0 + col
  let i1 := bits c.a 63 32 + r
  let a := core.acc.get c.acc
  let v := mrdzConvert c a.kind ((patFmt p).getD .i32) (flatIndex p i0 i1 0 0) (a.cell c.acc r col).toNat
  (s.placeElem t pos p i0 i1 0 0).bind fun s l => .ok s (l, v)

/-- The granules of an MRDZ (R183): up to `n` of them. -/
def mrdzGranules (u : EngineUnit) (core : Nat) : Nat → Command → State → State × Option EngineStop
  | 0, _, s => (s, none)
  | n + 1, c, s =>
    if moveCols c * moveRows c ≤ c.progress then (s, none)
    else
      let r := s.granule u c c.py (16384 / patBits c.py) (moveCols c * moveRows c) 1 (fun i => bits c.a 31 0 + i % moveCols c)
        (mrdzElement (s.task c.task) (core / 8) (s.core core) c)
      match r.2, r.1.job? u c.id with
      | none, some c => mrdzGranules u core n c r.1
      | x, _ => (r.1, x)

/-- Rows loaded by MWRZ from row `r` on (R183): zeros beyond the pattern. -/
def mwrzRows (t : Task) (pos k : Nat) (c : Command) : Nat → Nat → State → State × Nat × Option EngineStop
  | 0, r, s => (s, r, none)
  | n + 1, r, s =>
    if c.ex % 256 ≤ r then (s, r, none)
    else
      let cells := if r < moveRows c then
          (List.range (moveCols c)).map fun i => (i, bits c.a 31 0 + i, bits c.a 63 32 + r) else []
      match readCells t pos c.px cells [] s with
      | .ok s xs =>
        let fill (a : Acc) : Acc := (List.range 96).foldl (fun a i => a.setCell r i (BitVec.ofNat 32 ((Store.find xs i).getD 0))) a
        mwrzRows t pos k c n (r + 1) (s.onCore k fun x => { x with acc := x.acc.set c.acc (fill (x.acc.get c.acc)) })
      | .miss v a => (s, r, some (.inl (v, a)))
      | .fail st a => (s, r, some (.inr (st, a)))

/-- Every member of a step that stopped: the leader's fault is each member's (R181). -/
def State.stopStep (s : State) (ms : List (Nat × Command)) (x : EngineStop) : State :=
  ms.foldl (fun s m => s.stopJob (.slice m.1) m.2 x) s

/-- The started command of a slice that a finish concerns: one that no walk or fault holds. -/
def State.runningJob (s : State) (core : Nat) (f : Command → Bool) : Option Command :=
  (s.core core).queue.find? fun c => c.started && !s.commandWaits c.id && f c

/-- A holder's MREL (R177): the accumulators of a core are released. -/
def State.giveUp (s : State) (core id : Nat) : State := if (s.core core).holder == some id then s.releaseAcc core else s

/-- The rest of a running command's work, and its token (R176 to R183). The members of a gang step end together, in the step in which
its last row is applied (R376, R377). -/
def State.finishMatrix (s : State) (core : Nat) (c : Command) : State :=
  let u : EngineUnit := .slice core
  let pos := core / 8
  let t := s.task c.task
  let z (f : Acc → Acc) (s : State) : State := s.onCore core fun x => { x with acc := x.acc.set c.acc (f (x.acc.get c.acc)) }
  match c.op with
  | .mzero => (z (fun _ => ⟨none, [], .either, 1, 0⟩) s).endJob u c 0 0
  | .mscale =>
    match Fmt.fp32.decode (bits c.a 31 0), Fmt.fp32.decode (bits c.b 31 0) with
    | .fin _ m e, .fin _ k d => (z (fun a => { a with productMant := m * k, productExp := e + d }) s).endJob u c 0 0
    | _, _ => s.endJob u c 0x19 0
  | .mrel => (s.giveUp core c.task).endJob u c 0 0
  | .mrelPending => (if s.gangPending c.task then s.discardGang c.task else s.giveUp core c.task).endJob u c 0 0
  | .mldb =>
    s.afterRead u c (readBlock t pos c s) fun s b =>
      (s.onCore core fun x => { x with buf := x.buf.setIfInBounds (c.mod.toNat % 2) (some b) }).endJob u c 0 0
  | .mma =>
    let ms := s.stepMembers core
    let l := ms.foldl (fun (b : Nat × Command) m => if m.1 < b.1 then m else b) (core, c)
    let r := mmaAdvance (s.task l.2.task) pos c ms 8 c.progress s
    (match r.2 with
     | some x => r.1.stopStep ms x
     | none => ms.foldl (fun s m => s.endJob (.slice m.1) m.2 0 0) r.1)
  | .mrdz =>
    let r := mrdzGranules u core (moveCols c * moveRows c) c s
    (match r.2 with
     | some x => r.1.stopJob u c x
     | none => r.1.endJob u c 0 0)
  | .mwrz =>
    let r := mwrzRows t pos core c 128 c.progress s
    (match r.2.2 with
     | some x => (r.1.onJob u c.id fun c => { c with progress := r.2.1 }).stopJob u c x
     | none =>
       let kind : AccKind := if patFmt c.px == some .fp32 then .fp32 else .int32
       (z (fun a => { a with kind := kind }) r.1).endJob u c 0 0)
  | _ => s.endJob u c 0 0

/-- MATRIX_COMMAND_DONE (R376, R431): a running command ends; a fault that firmware reflected ends it too (R149). -/
def eventMatrixCommandDone (core : Nat) (s : State) : Option State :=
  let u : EngineUnit := .slice core
  match s.runningJob core fun c => c.status.isSome with
  | some c =>
    match c.status with
    | some (st, a) => some (s.endJob u c st a)
    | none => none
  | none =>
    if !s.enginesRun (core / 8) then none
    else
      match s.runningJob core fun _ => true with
      | none => none
      | some c => some (s.finishMatrix core c)

/-- The row MATRIX_COMMAND_DONE: `eventMatrixCommandDone`, or nothing (assumption log 4). -/
def execMatrixCommandDone (core : Nat) (s : State) : Out := happens s (eventMatrixCommandDone core s)

/-- ACCUMULATOR_RELEASE (R19): the matrix commands of a holder that retired have completed. -/
def eventAccumulatorRelease (core : Nat) (s : State) : Option State :=
  let c := s.core core
  match c.holder with
  | none => none
  | some id =>
    if c.release && c.queue.all (fun x => x.task != id) then some (s.releaseAcc core) else none

/-- The row ACCUMULATOR_RELEASE: `eventAccumulatorRelease`, or nothing (assumption log 4). -/
def execAccumulatorRelease (core : Nat) (s : State) : Out := happens s (eventAccumulatorRelease core s)

end Sys2Proof.Machine
end

