-- ==== Sys2Proof/Machine/Thresher.lean ====
section
/-! DEFINITION. The events of the Threshers: what a TMV checks, how its rows are dealt, computed and written (R80, R184,
R185, R379 to R382). -/
namespace Sys2Proof.Machine

open Sys2Proof

/-- n0 of a TMV (R184). -/
def tmvFirst (c : Command) : Nat := bits c.a 31 0

/-- The row after the last (R184): a count of 0 means to the end of W. -/
def tmvEnd (c : Command) : Nat := if bits c.a 63 32 = 0 then patE c.px 1 else tmvFirst c + bits c.a 63 32

/-- The rows of a TMV. -/
def tmvRows (c : Command) : List Nat := (List.range (tmvEnd c - tmvFirst c)).map (tmvFirst c + ·)

/-- The length of a row (R184). -/
def tmvK (c : Command) : Nat := patE c.px 0

/-- The accumulator kind of a TMV's pair of formats (R184, R180). -/
def tmvKind (c : Command) : Option AccKind :=
  match patFmt c.px, patFmt c.py with
  | some w, some x => if isB w then pairKind x w else none
  | _, _ => none

/-- The checks of R184's table in their order (R147). -/
def tmvCheck (s : State) (pos : Nat) (c : Command) : Option (BitVec 8) :=
  let t := s.task c.task
  if patEmpty c.px || patEmpty c.py || patEmpty c.pz then some 0x81
  else
    match tmvKind c with
    | none => some 0x82
    | some kind =>
      let y := if kind == .fp32 then some Fmt.fp32 else some Fmt.i32
      let mine (p : PatWord) : Bool := s.liesIn t pos p fun x => x == some pos
      if patFmt c.pz != y then some 0x82
      else if !patStack c.px || !mine c.py || !mine c.pz then some 0x85
      else if patE c.px 1 ≤ tmvFirst c || patE c.px 1 < tmvEnd c then some 0x1A
      else if patE c.py 1 != 1 || patE c.py 0 != tmvK c || 16384 < tmvK c then some 0x1A
      else if patE c.pz 0 < tmvEnd c then some 0x1A
      else none

/-- The stack of a row (R380). -/
def stackOf (c : Command) (n : Nat) : Nat := n / 2 ^ patIlv c.px % 3

/-- The rows of a command on a stack, in dealing order (R380). -/
def stackRows (c : Command) (st : Nat) : List Nat := (tmvRows c).filter fun n => stackOf c n == st

/-- The place of a row in its stack's dealing order (R380). -/
def dealOf (c : Command) (n : Nat) : Nat := ((stackRows c (stackOf c n)).filter fun m => decide (m < n)).length

/-- The Thresher that computes a row (R380). -/
def thresherOf (c : Command) (n : Nat) : Nat := dealOf c n % 48

/-- The address of a block scale of a pattern (R79). -/
def blockAddr (p : PatWord) (i0 i1 : Nat) : Nat := offAddr p (patBscale p + 4 * (blockIndex p i0 i1 0 0 : Nat))

/-- `n` items of `size` bytes, `stride` apart, as spans of first and last byte: one span where no whole page can lie between two
of them, else one an item. -/
def spansOf (stride size n : Nat) (addr : Nat → Nat) : List (Nat × Nat) :=
  if stride ≤ 65536 ∧ addr 0 ≤ addr (n - 1) then [(addr 0, addr (n - 1) + size - 1)]
  else (List.range n).map fun i => (addr i, addr i + size - 1)

/-- The first and last bytes of what a row of W reads (R380): codes, group scales and zero points, block scales. -/
def rowSpans (c : Command) (n : Nat) : List (Nat × Nat) :=
  let p := c.px
  let k := tmvK c
  let g := groupSize (patGrp p)
  let ke := keOf ((patFmt p).getD .i8)
  let group (i : Nat) : Nat := groupIndex p (i * g) n 0 0
  spansOf (patS0 p) (patBytes p) k (fun i => elemAddr p i n 0 0) ++
    (if g = 0 then [] else
      spansOf 2 2 (k / g) (fun i => offAddr p (patScale p + 2 * (group i : Nat))) ++
        spansOf 1 1 (k / g) (fun i => offAddr p (patZero p + (group i : Nat)))) ++
    (if patBsc p then spansOf 4 4 ((k + ke - 1) / ke) (fun j => blockAddr p (j * ke) n) else [])

/-- The page of a row lies on a stack of the die (R379, R380, R429). -/
def State.onStack (s : State) (t : Task) (pos st a : Nat) : EngineRes Bool :=
  match s.resolveEngine t pos (w64 a) with
  | .miss v => .miss v (w64 a)
  | .fault _ => .fail 0x10 a
  | .ok p _ _ =>
    match p.space with
    | .mem _ =>
      let home := Config.homeStack (p.addr / 2 ^ 54) (p.addr % 2 ^ 54 / 65536)
      .ok s (p.addr / 2 ^ 54 * 8 + home.val / 3 == dieOf pos && home.val % 3 == st)
    | _ => .ok s false

/-- The pages of a span of bytes, by an address in each. -/
def pagesOf (x : Nat × Nat) : List Nat :=
  (List.range (x.2 / 65536 + 1 - x.1 / 65536)).map fun i => if i = 0 then x.1 else (x.1 / 65536 + i) * 65536

/-- Every page of a list lies on its block's stack (R380). -/
def allOnStack (s : State) (t : Task) (pos : Nat) : List (Nat × Nat) → EngineRes Bool
  | [] => .ok s true
  | (st, a) :: l =>
    match s.onStack t pos st a with
    | .ok _ true => allOnStack s t pos l
    | r => r

/-- The page checks of a TMV (R380). -/
def pageChecks (s : State) (t : Task) (pos : Nat) (c : Command) : EngineRes Bool :=
  allOnStack s t pos ((tmvRows c).flatMap fun n => (rowSpans c n).flatMap fun x => (pagesOf x).map fun a => (stackOf c n, a))

/-- X, its block scales, and with ACC the initial values, as the port reads them (R381). -/
def readOperands (t : Task) (pos : Nat) (c : Command) (s : State) : EngineRes (List Nat × List (Nat × Nat)) :=
  (readCells t pos c.py ((List.range (tmvK c)).map fun k => (k, k, 0)) [] s).bind fun s xs =>
    if c.ex % 2 = 0 then .ok s (xs.map (·.2), [])
    else (readCells t pos c.pz ((tmvRows c).map fun n => (n, n, 0)) [] s).bind fun s ys => .ok s (xs.map (·.2), ys)

/-- The block scales of X and of a row of W, by K step; none when one is invalid (R80, R184). With a W of 192-deep steps beside an
X whose scales lie by 96, a step takes the scale of its first element's block: the spec does not say which (assumption log 51). -/
def rowBlocks (t : Task) (pos : Nat) (c : Command) (n : Nat) (s : State) : EngineRes (Option (List (Nat × Num))) :=
  let ke := keOf ((patFmt c.px).getD .i8)
  let steps := List.range ((tmvK c + ke - 1) / ke)
  let at' (p : PatWord) (row : Nat) : List (Nat × Nat) := if patBsc p then steps.map fun j => (j, blockAddr p (j * ke) row) else []
  (readBytesAt t pos 4 (at' c.py 0) [] s).bind fun s xs =>
    (readBytesAt t pos 4 (at' c.px n) [] s).bind fun s ws =>
      if (xs ++ ws).any fun e => !validScale e.2 then .ok s none
      else
        let scale (l : List (Nat × Nat)) (j : Nat) : Num :=
          match Store.find l j with
          | some x => Fmt.fp32.decode x
          | none => Num.one
        .ok s (some (steps.map fun j => (j, (scale xs j).mul (scale ws j))))

/-- The group scales and zero points of a row of W by group (R77, R78). -/
def rowGroups (t : Task) (pos : Nat) (c : Command) (n : Nat) (s : State) : EngineRes (List (Nat × Nat) × List (Nat × Nat)) :=
  let p := c.px
  let g := groupSize (patGrp p)
  let gs := if g = 0 then [] else List.range (tmvK c / g)
  (readBytesAt t pos 2 (gs.map fun i => (i, offAddr p (patScale p + 2 * (groupIndex p (i * g) n 0 0 : Nat)))) [] s).bind fun s sc =>
    (readBytesAt t pos 1 (gs.map fun i => (i, offAddr p (patZero p + (groupIndex p (i * g) n 0 0 : Nat)))) [] s).bind fun s zs =>
      .ok s (sc, zs)

/-- The K steps of a row from `k` on (R84): the steps and roundings of MMA in ascending order. -/
def rowSteps (c : Command) (kind : AccKind) (ke g : Nat) (a w : Nat → Num) (group : Nat → Option (Num × Int))
    (block : Nat → Num) : Nat → Nat → Nat → Nat
  | 0, _, acc => acc
  | n + 1, k, acc =>
    if tmvK c ≤ k then acc
    else rowSteps c kind ke g a w group block n (k + ke)
      (stepOutput kind (c.mod.getLsbD 4) g a w group block k (Nat.min (k + ke) (tmvK c)) acc)

/-- The value of an output row (R84, R184); none for an invalid block scale. -/
def tmvRow (t : Task) (pos : Nat) (c : Command) (n : Nat) (s : State) : EngineRes (Option Nat) :=
  let fw := (patFmt c.px).getD .i8
  let fx := (patFmt c.py).getD .i8
  let g := groupSize (patGrp c.px)
  (rowBlocks t pos c n s).bind fun s bl =>
    match bl with
    | none => .ok s none
    | some bl =>
      (readCells t pos c.px ((List.range (tmvK c)).map fun k => (k, k, n)) [] s).bind fun s ws =>
        (rowGroups t pos c n s).bind fun s gs =>
          let w (k : Nat) : Num := fw.value ((Store.find ws k).getD 0)
          let group (k : Nat) : Option (Num × Int) :=
            if g = 0 then none
            else some (Fmt.fp16.decode ((Store.find gs.1 (k / g)).getD 0), sgn 8 ((Store.find gs.2 (k / g)).getD 0))
          let block (k : Nat) : Num := (Store.find bl (k / keOf fw)).getD Num.one
          .ok s (some (rowSteps c ((tmvKind c).getD .fp32) (keOf fw) g (fun k => fx.value (c.xcodes.getD k 0)) w group block
            (tmvK c + 1) 0 ((Store.find c.inits n).getD 0)))

/-- The 2 KiB granule reads that a row takes (R379). -/
def rowReads (c : Command) : Nat := Nat.max 1 ((tmvK c * patBits c.px / 8 + 2047) / 2048)

/-- A row has been computed since the last stop, or its result has reached Y. -/
def Command.rowDone (c : Command) (n : Nat) : Bool := c.written.contains n || c.rows.any fun e => e.1 == n

/-- A command of a port is not held (R49): not by its guard, and not behind one of its task that is. -/
def portFree (l : List Command) (c : Command) : Bool :=
  c.held.isNone && !l.any fun e => e.task == c.task && decide (e.id < c.id) && e.held.isSome

/-- A command of a port may run: it is not held, and the port checks its commands in enqueue order, one after another (R430). -/
def portMayRun (l : List Command) (c : Command) : Bool :=
  portFree l c && (c.started || !l.any fun e => decide (e.id < c.id) && !e.started && portFree l e)

/-- A TMV begins (R184, R380, R381): the checks of its table, its page checks, and the read of X and initial values. -/
def State.startTmv (s : State) (pos : Nat) (c : Command) : State :=
  let u : EngineUnit := .thresher pos
  let t := s.task c.task
  match tmvCheck s pos c with
  | some st => s.endJob u c st 0
  | none =>
    s.afterRead u c (pageChecks s t pos c) fun s ok =>
      if !ok then s.endJob u c 0x85 0
      else
        s.afterRead u c (readOperands t pos c s) fun s x =>
          { s with seq := s.seq + 1 }.onJob u c.id fun c =>
            { c with started := true, xcodes := x.1, inits := x.2, member := s.seq }

/-- Threshers read the banks of their stack directly: no slice is used (R293). -/
def State.direct (s : State) (s' : State) : State := { s' with ways := s.ways }

/-- THRESHER_GRANULE_READ (R379, R80): the first of a command follows its checks; each later one is a granule of a
row. -/
def eventThresherGranuleRead (pos k row : Nat) (s : State) : Option State :=
  let u : EngineUnit := .thresher pos
  match s.job? u k with
  | none => none
  | some c =>
    match c.status with
    | some (st, a) => some (s.endJob u c st a)
    | none =>
      if !s.enginesRun pos || s.commandWaits k || !portMayRun (s.jobs u) c then none
      else if !c.started then some (s.startTmv pos c)
      else if !(tmvRows c).contains row || c.rowDone row || rowReads c ≤ (c.reads.filter fun n => n == row).length then
        none
      else
        some (s.direct (s.afterRead u c (rowBlocks (s.task c.task) pos c row s) fun s b =>
          match b with
          | none => s.endJob u c 0x19 0
          | some _ => s.onJob u k fun c => { c with reads := row :: c.reads }))

/-- The row THRESHER_GRANULE_READ: `eventThresherGranuleRead`, or nothing (assumption log 4). -/
def execThresherGranuleRead (pos k row : Nat) (s : State) : Out := happens s (eventThresherGranuleRead pos k row s)

/-- The commands of the die that its stacks took before one (R380). -/
def State.tmvBefore (s : State) (pos : Nat) (c : Command) : List Command :=
  (s.clusters.filter fun e => dieOf e.1 == dieOf pos).flatMap fun e =>
    e.2.thresher.filter fun x => x.started && decide (x.member < c.member)

/-- A row's turn on its Thresher (R380): the rows before it there are done, of this command and of earlier ones. -/
def State.rowTurn (s : State) (pos : Nat) (c : Command) (row : Nat) : Bool :=
  let st := stackOf c row
  let before (x : Command) (n : Nat) : Bool := stackOf x n == st && thresherOf x n == thresherOf c row && !x.rowDone n
  !((tmvRows c).any fun n => decide (n < row) && before c n) &&
    (s.tmvBefore pos c).all fun x => !(tmvRows x).any fun n => before x n

/-- THRESHER_ROW (R380, R84): a Thresher finishes a row whose granules have arrived. -/
def eventThresherRow (pos k row : Nat) (s : State) : Option State :=
  let u : EngineUnit := .thresher pos
  match s.job? u k with
  | none => none
  | some c =>
    let arrived := rowReads c ≤ (c.reads.filter fun n => n == row).length
    if !s.enginesRun pos || s.commandWaits k || !c.started || c.status.isSome || !arrived || !(tmvRows c).contains row ||
        c.rowDone row || !s.rowTurn pos c row then none
    else
      some (s.direct (s.afterRead u c (tmvRow (s.task c.task) pos c row s) fun s r =>
        match r with
        | none => s.endJob u c 0x19 0
        | some v => s.onJob u k fun c => { c with rows := c.rows ++ [(row, BitVec.ofNat 32 v)] }))

/-- The row THRESHER_ROW: `eventThresherRow`, or nothing (assumption log 4). -/
def execThresherRow (pos k row : Nat) (s : State) : Out := happens s (eventThresherRow pos k row s)

/-- The results of a stack that have not reached Y (R381). -/
def Command.ready (c : Command) (st : Nat) : List (Nat × BitVec 32) :=
  c.rows.filter fun e => stackOf c e.1 == st && !c.written.contains e.1

/-- Results written to Y one by one (R381). -/
def writeResults (t : Task) (pos : Nat) (c : Command) : List (Nat × BitVec 32) → State → EngineRes Unit
  | [], s => .ok s ()
  | (n, x) :: l, s =>
    match s.writeElem t pos c.pz n 0 0 0 x.toNat with
    | .ok s _ => writeResults t pos c l s
    | r => r

/-- RESULT_BEAT (R381): a beat of 8 results, or of a stack's last ones, reaches the port, which writes Y; after the last
beat the token is filled with the number of rows. -/
def eventResultBeat (pos k stack : Nat) (s : State) : Option State :=
  let u : EngineUnit := .thresher pos
  match s.job? u k with
  | none => none
  | some c =>
    let ready := c.ready stack
    let last := (stackRows c stack).all c.rowDone
    if !s.enginesRun pos || s.commandWaits k || !c.started || c.status.isSome || ready.isEmpty || !(last || decide (8 ≤ ready.length)) then
      none
    else
      let beat := ready.take 8
      some (s.afterRead u c (writeResults (s.task c.task) pos c beat s) fun s _ =>
        let written := c.written ++ beat.map (·.1)
        if (tmvRows c).all written.contains then s.endJob u c 0 (tmvRows c).length
        else s.onJob u k fun c => { c with written := written })

/-- The row RESULT_BEAT: `eventResultBeat`, or nothing (assumption log 4). -/
def execResultBeat (pos k stack : Nat) (s : State) : Out := happens s (eventResultBeat pos k stack s)

/-- A stop discards what has not reached Y, and keeps for each stack the longest prefix of its rows written (R382). -/
def Command.cutTmv (c : Command) : Command :=
  let kept := (List.range 3).flatMap fun st => (stackRows c st).takeWhile c.written.contains
  { c with rows := [], reads := [], written := kept }

end Sys2Proof.Machine
end

