-- ==== Sys2Proof/Machine/Stop.lean ====
section
/-! DEFINITION. Gang-stops, the drain, images, restoring, and stops by a debugger (R326 to R344, R366, R427). -/
namespace Sys2Proof.Machine

open Sys2Proof

/-- The cores of the job on a device. -/
def State.deviceCores (s : State) (vdev : Nat) : List Nat :=
  (s.positions.filter fun p => p / 128 == vdev).flatMap fun p => (List.range 8).map (p * 8 + ·)

/-- The clock is held at 1.3 GHz (R414). -/
def Device.hold (d : Device) : Device := { d with clockMHz := 1300 }

/-- What was asked for while the clock was held is applied (R414). -/
def Device.release (d : Device) : Device :=
  { d with clockMHz := Nat.max 650 (d.clockMHz - 50 * d.pendingLower), pendingLower := 0 }

/-- GANG_STOP (R326, R327, R333, R414): the cores of the job on a device stop, and the clock is held at 1.3 GHz. -/
def eventGangStop (vdev : Nat) (s : State) : Option State :=
  let cores := s.deviceCores vdev
  let on := s.stop == .no || s.stop == .stopping || s.stop == .debug
  if !on || cores.isEmpty || (s.stop == .stopping && cores.all fun k => (s.core k).stopped) then none
  else
    let s := cores.foldl (State.stopCore · true ·) s
    let s : State := { s with
      device := s.device.hold
      launches := s.launches.map fun (e : Nat × Launch) => (e.1, e.2.dropRound)
      markers := if s.stop == .stopping then s.markers else []
      cut := if s.stop == .stopping then s.cut else s.cut + 1 }
    let all := s.positions.all fun p => (List.range 8).all fun c => (s.core (p * 8 + c)).stopped
    some { s with stop := if all then .draining else .stopping }

/-- The row GANG_STOP: `eventGangStop`, or nothing (assumption log 4). -/
def execGangStop (vdev : Nat) (s : State) : Out := happens s (eventGangStop vdev s)

/-- ENGINE_INTERRUPTION (R328): a running command comes to its next interruption point. An MMA applies up to 16 rows
(R182) and an MRDZ up to one granule (R183); a copy command stands between granules already (R150); a stopped TMV keeps
the prefix of its rows that has reached Y (R382). -/
def eventEngineInterruption (u : EngineUnit) (s : State) : Option State :=
  let halted := s.halted (unitPos u)
  match u with
  | .copy _ => if halted then some s else none
  | .thresher _ =>
    if halted then some (s.onJobs u fun l => l.map Command.cutTmv) else none
  | .slice core =>
    if halted then some s
    else
      match s.runningJob core fun c => c.status.isNone && (c.op == .mma || c.op == .mrdz) with
      | none => none
      | some c =>
        if c.op == .mma then
          let ms := s.stepMembers core
          let l := ms.foldl (fun (b : Nat × Command) m => if m.1 < b.1 then m else b) (core, c)
          let r := mmaAdvance (s.task l.2.task) (core / 8) c ms 1 c.progress s
          match r.2 with
          | some x => some (r.1.stopStep ms x)
          | none => some r.1
        else
          let r := mrdzGranules u core 1 c s
          match r.2 with
          | some x => some (r.1.stopJob u c x)
          | none => some r.1

/-- The row ENGINE_INTERRUPTION: `eventEngineInterruption`, or nothing (assumption log 4). -/
def execEngineInterruption (u : EngineUnit) (s : State) : Out := happens s (eventEngineInterruption u s)

/-- STOP_WATCHDOG (R330): a core that has not stopped in time is reported, and every launch of the job ends KILLED. -/
def eventStopWatchdog (vdev : Nat) (s : State) : Option State :=
  if s.stop != .stopping || (s.deviceCores vdev).all fun k => (s.core k).stopped then none
  else some ({ s with reports := s.reports ++ [Report.watchdog vdev] }.killAll fun _ => true)

/-- The row STOP_WATCHDOG: `eventStopWatchdog`, or nothing (assumption log 4). -/
def execStopWatchdog (vdev : Nat) (s : State) : Out := happens s (eventStopWatchdog vdev s)

/-- An endpoint that goes on serving until its incoming channels are drained (R331): a Loom, a Spool, a Granary, the home slices of
a die, and a fabric port. Cores and engines send their markers once they have stopped. -/
def serving (e : Nat) : Bool := [8, 9, 10, 12, 13].contains (e % 16)

/-- The endpoints of the job (R331): of each cluster its cores, its Loom and its engines; of each die its Spool, its Granary and its
home slices; of each device its fabric port. -/
def State.endpoints (s : State) : List Nat :=
  (s.positions.flatMap fun p => (List.range 8).map (fun c => coreEnd (p * 8 + c)) ++ [loomEnd p, copyEnd p, thresherEnd p, matrixEnd p]) ++
    ((s.positions.map dieOf).eraseDups.flatMap fun d => [spoolEnd d, granaryEnd d, slicesEnd d]) ++
    (s.positions.map fun p => p / 128).eraseDups.map portEnd

/-- The channels of the job (R331). -/
def State.channels (s : State) : List Channel :=
  s.endpoints.flatMap fun a => (s.endpoints.filter (· != a)).flatMap fun b => (List.range 4).map fun v => ⟨a, b, BitVec.ofNat 2 v⟩

/-- A marker on a channel may arrive (R331): its source is a core or an engine that has stopped, or a serving endpoint that the
markers of all those have reached and to which nothing else is on its way; and nothing is left on the channel itself. -/
def State.mayMark (s : State) (ch : Channel) : Bool :=
  let pos := endPos ch.src
  s.channels.contains ch && (serving ch.src || (List.range 8).all fun c => (s.core (pos * 8 + c)).stopped) &&
    (!serving ch.src || ((s.channels.filter fun c => c.dst == ch.src && !serving c.src).all s.markers.contains &&
      s.flight.all fun f => drainEnd f.dst != ch.src)) &&
    s.flight.all fun f => !(drainEnd f.src == ch.src && drainEnd f.dst == ch.dst && f.vc == ch.vc)

/-- A send that its target still holds waits for a command that an engine has recorded (R17, R328): no other may be left (R332). -/
def State.heldByEngine (s : State) (f : Flight) : Bool :=
  match f.body with
  | .send n .. => s.pendingOn (nTask n) (nReg n)
  | _ => false

/-- The cut is complete (R331): every channel's marker has arrived and nothing is on any; held sends have landed (R332); aborts have
completed (R333). -/
def State.drained (s : State) : Bool :=
  s.stop == .draining && s.flight.isEmpty && s.heldSends.all s.heldByEngine && (s.channels.all s.markers.contains) && (s.tasks.all fun e => !e.2.chunkDue) &&
    s.launches.all fun e => e.2.state != .aborting || s.dumps.any fun d => (s.task d.task).ver.toNat == e.1

/-- The place of a bank's first record in the hold areas of a lease (R366), which are part of its frame area: 1.5 MiB a cluster, 32
records of 16 bytes a bank. -/
def Lease.holdPlace (l : Lease) (b : Nat × Nat) : Nat :=
  l.holdArea + ((l.positions.takeWhile (· != b.1 / 8)).length * 3072 + b.1 % 8 * 384 + b.2) * 512

/-- The hold areas of a lease end here (R366). -/
def Lease.holdSize (l : Lease) : Nat := l.positions.length * 0x180000

/-- The 16 bytes of an arrival held at a node (R366); a BARW is withdrawn, never held across a stop. -/
def holdRecord (n : Nat) : HeldArrival → List Byte
  | .barr (.task id dst _) => leBytes 8 (n % 2 ^ 48 + 1 <<< 48) ++ leBytes 8 (id % 2 ^ 32 + dst.spec.toNat <<< 32)
  | .blink (.task id dst _) d =>
    leBytes 8 (n % 2 ^ 48 + 3 <<< 48) ++ leBytes 8 (id % 2 ^ 32 + dst.spec.toNat <<< 32 + d.toNat <<< 48)
  | .child m => leBytes 8 (n % 2 ^ 48 + 4 <<< 48) ++ leBytes 8 (m % 2 ^ 48)
  | _ => []

/-- A record of a hold area read back (R366): the node and the arrival. -/
def holdArrival (r : Nat) : Option (Nat × HeldArrival) :=
  let w : Word := w64 (r / 2 ^ 64)
  let c : NodeClient := .task (bits w 31 0) (Reg.ofSpec (BitVec.ofNat 7 (bits w 38 32))) none
  match r / 2 ^ 48 % 256 with
  | 1 => some (r % 2 ^ 48, .barr c)
  | 3 => some (r % 2 ^ 48, .blink c (BitVec.ofNat 16 (bits w 63 48)))
  | 4 => some (r % 2 ^ 48, .child (bits w 47 0))
  | _ => none

/-- The arrivals held at the complete nodes of some banks written to the hold areas of a lease (R366). -/
def State.saveHeld (s : State) (ix : Nat) (at' : Nat × Nat → Bool) : State :=
  let l := s.lease ix
  let mine := s.nodes.filter fun e => l.positions.contains (posOfKey e.1) && !e.2.held.isEmpty && at' (bankOf e.1)
  let records (b : Nat × Nat) : List Byte := (mine.filter fun e => bankOf e.1 == b).flatMap fun e => e.2.held.flatMap (holdRecord e.1)
  ((mine.map fun e => bankOf e.1).eraseDups).foldl (fun s b => s.devicePut ix (l.holdPlace b) (records b)) s

/-- The records in the hold areas of a lease, with their places (R366). -/
def State.heldRecords (s : State) (ix : Nat) : List (Nat × Nat × HeldArrival) :=
  let l := s.lease ix
  (List.range ((l.holdSize + 65535) / 65536)).flatMap fun i =>
    (s.areaSpans ix (l.holdArea + i * 65536) (Nat.min 65536 (l.holdSize - i * 65536))).flatMap fun e =>
      let area := s.mem.slice e.1 e.2
      ((area.map fun c => (c.1 - e.1) / 16).eraseDups).filterMap fun j =>
        (holdArrival (area.num (e.1 + 16 * j) 16)).map fun h => (e.1 + 16 * j, h)

/-- A marker that crosses the fabric is a flit of its channel, with the number of the cut (R369). -/
def State.keepMarker (s : State) (ch : Channel) : State :=
  if endPos ch.src / 128 = endPos ch.dst / 128 then s
  else
    let src := (endPos ch.src % 65536) * 65536
    s.keepFlits src ch.dst ch.vc.toNat (s.wireFlits ch.src ch.dst src 0x3F ch.vc.toNat 1 0 0 (wordBytes [s.cut]))

/-- MARKER (R331): a channel is drained. Before a bank's markers are sent, the arrivals held at its complete nodes are written to the
hold area (R366). The last marker completes the cut, where Thresher commands stand at their interruption points (R382). -/
def eventMarker (ch : Channel) (s : State) : Option State :=
  if (s.stop != .stopping && s.stop != .draining) || s.markers.contains ch || !s.mayMark ch then none
  else
    let live := (s.leases.filter fun e => e.2.live).map (·.1)
    let save (s : State) (p : Nat × Nat → Bool) : State := live.foldl (fun (s : State) e => s.saveHeld e p) s
    let s := save { s.keepMarker ch with markers := ch :: s.markers } fun b => coreEnd b.1 == ch.src
    if s.drained then
      let s := save s fun _ => true
      some { s with
        stop := .cut
        cutAt := s.now
        clusters := s.clusters.map fun (e : Nat × Cluster) => (e.1, { e.2 with thresher := e.2.thresher.map Command.cutTmv }) }
    else some s

/-- The row MARKER: `eventMarker`, or nothing (assumption log 4). -/
def execMarker (ch : Channel) (s : State) : Out := happens s (eventMarker ch s)

/-- CONTEXT_IMAGE_WRITE (R334 to R341): the dirty L1 bytes of a lease, of its pinned windows too, are written back, its
resident bodies, the free order, the directory and the B buffers reach their areas, and its image is written; after the last lease the job is quiescent, and a lowering of
the clock requested meanwhile is applied (R414). -/
def eventContextImageWrite (lease : Nat) (s : State) : Option State :=
  let l := s.lease lease
  if s.stop != .cut || !l.live || (s.images.find lease).isSome then none
  else
    let s := (l.cores.foldl (fun s k => s.sweep k true fun _ => true) s).saveMemory lease
    let s : State := { s with images := s.images.put lease (s.leaseImage lease) }
    let all := s.leases.all fun e => !e.2.live || (s.images.find e.1).isSome
    some (if all then { s with stop := .quiescent, device := s.device.release } else s)

/-- The row CONTEXT_IMAGE_WRITE: `eventContextImageWrite`, or nothing (assumption log 4). -/
def execContextImageWrite (lease : Nat) (s : State) : Out := happens s (eventContextImageWrite lease s)

/-- A task after a restore (R343): a wait for a walk issues again. -/
def Task.resume (t : Task) : Task :=
  match t.wait with
  | .walk _ => { t with wait := .no, loom := .running }
  | _ => t

/-- Monitors resume at reset (R423). -/
def Lease.restart (l : Lease) : Lease := { l with monitors := l.monitors.map fun _ => Monitor.reset }

/-- BARRIER_REREGISTRATION (R366): every complete child registers at its parent with its own phase, without an arrival. -/
def State.reregister (s : State) : State :=
  s.nodes.foldl (fun s e =>
    let n := e.1
    let p := s.nodeParent n
    if s.tagK n && e.2.complete && p != 0 then
      s.fly 0 (coreEnd (coreOfKey n)) (coreEnd (coreOfKey p)) 2 (.nodeWait p (BitVec.ofNat 32 (s.nodePhase n)) (.child n))
    else s) s

/-- The leases as their images hold them, ready to run again (R343), the clock having been held meanwhile (R414); their caches are empty, and the arrivals of the hold areas
are at their nodes again (R366). -/
def State.reload (s : State) (ls : List Nat) : State :=
  let here (pos : Nat) : Bool := ls.contains (s.cluster pos).lease
  let on {α : Type} (p : Bool) (f : α → α) (x : α) : α := if p then f x else x
  let empty (l : List Command) : List Command := l.map fun c => { c with gathered := [] }
  let held := ls.flatMap s.heldRecords
  let fresh (n : Nat) (x : Node) : Node :=
    { x with waiters := [], children := [], held := (held.filter fun h => h.2.1 == n).map fun h => h.2.2 }
  { s with
    mem := held.foldl (fun m h => m.clear h.1 16) s.mem
    tasks := s.tasks.map fun (e : Nat × Task) => (e.1, on (ls.contains e.2.lease) Task.resume e.2)
    cores := s.cores.map fun (e : Nat × Core) =>
      (e.1, on (here (e.1 / 8)) (fun c => { c.reload with queue := empty c.queue }) e.2)
    clusters := s.clusters.map fun (e : Nat × Cluster) => (e.1, on (here e.1)
      (fun c => { c with tlb := [], channels := Vector.replicate 4 none, jobs := empty c.jobs }) e.2)
    nodes := s.nodes.map fun (e : Nat × Node) => (e.1, on (here (posOfKey e.1)) (fresh e.1) e.2)
    leases := s.leases.map fun (e : Nat × Lease) => (e.1, on (ls.contains e.1) Lease.restart e.2)
    ways := s.ways.filter fun w => !ls.contains w.lease
    walks := s.walks.filter fun w => !ls.contains w.lease
    walkCache := []
    markers := []
    images := s.images.filter fun e => !ls.contains e.1
    saveAreas := s.saveAreas.filter fun e => !ls.contains e.1
    device := s.device.hold.release
    stop := .no }

/-- The leases whose images pass the checks of a restore (R343). -/
def State.restorable (s : State) (damage : List (Nat × Nat × Byte)) : List Nat :=
  (s.images.filter fun (e : Nat × List Byte) =>
    let x := damageImage e.2 ((damage.filter fun d => d.1 == e.1).map fun d => d.2)
    tagsHold s.leaseKey x && framesHold x && s.recordsHold e.1).map fun e => e.1

/-- Two leases fit beside each other on the devices (R9, R230): not one group of one die, and on one die no index in common; leases of
one job-virtual die lie on one die. -/
def Lease.fits (a b : Lease) : Bool :=
  !(a.phys == b.phys && a.group == b.group) && (a.phys != b.phys || !spansMeet a.spoolFirst a.spoolCount b.spoolFirst b.spoolCount) &&
    (dieOf (a.positions.headD 0) != dieOf (b.positions.headD 0) || a.phys == b.phys)

/-- Leases fit on the devices together (R9, R230): each group is one of four, and the quotas of a die sum to 60,000 at most. -/
def leasesFit : List Lease → Bool
  | [] => true
  | a :: l => decide (a.group < 4) && l.all a.fits &&
      decide (l.foldl (fun n b => if b.phys == a.phys then n + b.quota else n) a.quota ≤ 60000) && leasesFit l

/-- The places of the leases replaced as a whole (R10, R343): lease, physical die, group; a lease that is not named keeps its own. -/
def State.mapAfresh (s : State) (places : List (Nat × Nat × Nat)) : State :=
  let move (e : Nat × Lease) : Nat × Lease := match places.find? fun p => p.1 == e.1 with
    | some p => (e.1, { e.2 with phys := p.2.1, group := p.2.2 })
    | none => e
  let leases := s.leases.map move
  let live := leases.filter fun e => e.2.live
  let pairs := live.flatMap fun a => live.map fun b => (a.1, b.2.phys / 8, b.1)
  { s with leases := leases, fabric := { s.fabric with deviceMap := pairs } }

/-- A new mapping is one that firmware makes: on devices of the domain, where the leases fit. -/
def State.placesOk (s : State) (places : List (Nat × Nat × Nat)) : Bool :=
  let live := ((s.mapAfresh places).leases.filter fun e => e.2.live).map (·.2)
  leasesFit live && live.all fun l => s.fabric.domain.contains (l.phys / 8)

/-- RESTORE (R343, R344, R366): tags and frames are checked; each lease that passes is loaded and resumes from the cut. One that
does not is left unstarted, and firmware reports it; a later restore may find its image sound. Positions are mapped afresh (R10). A basting
point that the stop abandoned is taken now (R333). -/
def eventRestore (r : Restoration) (s : State) : Option State :=
  if (s.stop != .quiescent && (s.stop != .no || s.images.isEmpty)) || !s.placesOk r.places then none
  else
    let ls := s.restorable r.damage
    let s := if ls.length < s.images.length then { s with reports := s.reports ++ [Report.restoreFailed] } else s
    if ls.isEmpty then some s
    else
      some ((((s.mapAfresh r.places).reload ls).reregister).basteAgain)

/-- The row RESTORE: `eventRestore`, or nothing (assumption log 4). -/
def execRestore (r : Restoration) (s : State) : Out := happens s (eventRestore r s)

end Sys2Proof.Machine
end

