-- ==== Sys2Proof/Machine/Leases.lean ====
section
/-! DEFINITION. Making a lease and tearing it down (R9, R10, R230, R407 to R409, R415). -/
namespace Sys2Proof.Machine

open Sys2Proof

/-- A number is a power of two in a range. -/
def powerBetween (lo hi n : Nat) : Bool := (List.range 33).any fun k => n == 2 ^ k && decide (lo ≤ n) && decide (n ≤ hi)

/-- The four clusters of a request (R9, R10): one device and die, all different, none populated. -/
def State.positionsOk (s : State) (ps : List Nat) : Bool :=
  ps.length == 4 && ps.eraseDups.length == 4 && ps.all fun p => decide (p < 384 * 128) && dieOf p == dieOf (ps.headD 0) && !s.populated p

/-- The Spool range of a request lies among the 65,536 entries of its die, and its quota is at least 64 (R230). -/
def spoolOk (r : LeaseRequest) : Bool :=
  decide (r.spoolFirst + r.spoolCount ≤ 65536) && decide (1 ≤ r.spoolCount) && decide (64 ≤ r.quota)

/-- The areas that a lease must have (R407): spill, frame, hold, basting and chunk log; its queue area lies in its device's memory. -/
def areasOk (r : LeaseRequest) : Bool :=
  [r.spillArea, r.frameArea, r.holdArea, r.bastingArea, r.chunkLog, r.chunkLogSize].all (fun a => a != 0) &&
    decide (r.queueArea + 0x100000 ≤ hbmBytes)

/-- The parameters of a request are in their ranges (R407). -/
def rangesOk (r : LeaseRequest) : Bool :=
  areasOk r && decide (r.group < 4) && (r.age == 0 || (decide (8 ≤ r.age) && decide (r.age ≤ 30))) && powerBetween 1024 65536 r.glean &&
    decide (1 ≤ r.inbox) && decide (r.inbox ≤ 256) && decide (256 ≤ r.chunk) && decide (r.chunk ≤ 65535) && r.shadow % 2048 == 0 &&
    decide (r.retry ≤ 15) && decide (r.directFlags.toNat < 4) && (r.trapVec == 0 || legalPc r.trapVec) &&
    decide (r.rootVdev < 384) && decide (r.rootPa < hbmBytes) && r.rootPa % 65536 == 0

/-- A number put in its place in a rising list. -/
def insertNat (n : Nat) : List Nat → List Nat
  | [] => [n]
  | m :: l => if n ≤ m then n :: m :: l else m :: insertNat n l

/-- A request with the defaults of R230 where it asks for no indices and no quota: the range of its group, and 15,000. -/
def filledRequest (r : LeaseRequest) : LeaseRequest :=
  let r := if r.spoolCount = 0 then { r with spoolFirst := 16384 * r.group, spoolCount := 16384 } else r
  if r.quota = 0 then { r with quota := 15000 } else r

/-- The lease of a request (R407). -/
def leaseOf (r : LeaseRequest) : Lease :=
  { Lease.none with
    live := true, phys := r.phys, group := r.group, positions := r.positions.foldl (fun l p => insertNat p l) [], trapVec := r.trapVec
    spoolFirst := r.spoolFirst, spoolCount := r.spoolCount, quota := r.quota, spillArea := r.spillArea, frameArea := r.frameArea
    holdArea := r.holdArea, dumpArea := r.dumpArea, dumpSlots := r.dumpSlots, bastingArea := r.bastingArea
    chunkLog := r.chunkLog, chunkLogSize := r.chunkLogSize, fillMask := r.fillMask, age := r.age, glean := r.glean
    inbox := r.inbox, chunk := r.chunk, rollback := r.rollback, recorded := r.record, replay := r.replay, shadow := r.shadow
    retry := r.retry, directFlags := r.directFlags, rootVdev := r.rootVdev, rootPa := r.rootPa, queueArea := r.queueArea }

/-- A request that firmware grants (R407, R230, R411): the device is configured, the lease fits beside the others of its physical die,
and it joins the job of the other leases. -/
def State.leaseOk (s : State) (r : LeaseRequest) : Bool :=
  let live := (s.leases.filter fun e => e.2.live).map fun e => e.2
  s.device.configured && s.fabric.domain.contains (r.phys / 8) && !(s.lease r.lease).live && s.positionsOk r.positions && spoolOk r && rangesOk r &&
    leasesFit (leaseOf r :: live) && (live.isEmpty || (s.job == r.job && s.secret == r.secret && s.leaseKey == r.key))

/-- The log that a replaying lease is given (R347): the records in its chunk-log area, up to one of zeros. -/
def State.givenLog (s : State) (lease : Nat) : List (BitVec 128) :=
  let l := s.lease lease
  match s.resolveNow lease (l.positions.headD 0) (w64 l.chunkLog) with
  | .ok ⟨.mem _, a, _, _⟩ _ _ =>
    ((List.range (l.chunkLogSize / 16)).map fun i => BitVec.ofNat 128 (s.mem.num (a + 16 * i) 16)).takeWhile fun x => x != 0
  | _ => []

/-- LEASE_CREATE (R407, R408, R403): the clusters join the job, everything of the lease is zero or at its default, and the
leases of the job may send to each other. A request that cannot be granted changes nothing. -/
def eventLeaseCreate (request : LeaseRequest) (s : State) : Option State :=
  let r := filledRequest request
  if s.stop != .no then none
  else if !s.leaseOk r then some s
  else
    let die := dieOf (r.positions.headD 0)
    let inRange (k : Nat) : Bool := k / 65536 == die && decide (r.spoolFirst ≤ k % 65536) && decide (k % 65536 < r.spoolFirst + r.spoolCount)
    let cores := r.positions.flatMap fun p => (List.range 8).map (p * 8 + ·)
    let s : State := { s with
      leases := s.leases.put r.lease (leaseOf r)
      clusters := r.positions.foldl (fun c p => c.put p { Cluster.idle with lease := r.lease }) s.clusters
      cores := cores.foldl (fun c k => c.put k Core.idle) s.cores
      spool := s.spool.filter fun e => !inRange e.1
      spoilt := s.spoilt.filter fun w => !r.positions.contains (posOfKey (w * 8))
      job := r.job
      secret := r.secret
      leaseKey := r.key }
    let pairs := (s.leases.filter fun e => e.2.live).flatMap fun e => [(r.lease, e.2.phys / 8, e.1), (e.1, r.phys / 8, r.lease)]
    let s : State := { s with fabric := { s.fabric with deviceMap := pairs ++ s.fabric.deviceMap } }
    some (if r.replay then { s with replayLog := s.replayLog ++ s.givenLog r.lease } else s)

/-- The row LEASE_CREATE: `eventLeaseCreate`, or nothing (assumption log 4). -/
def execLeaseCreate (request : LeaseRequest) (s : State) : Out := happens s (eventLeaseCreate request s)

/-- The launches that have committed are copied home and reported (R318, R262), the oldest first: their ends are past. -/
def State.copyCommitted : Nat → State → State
  | 0, s => s
  | n + 1, s =>
    match s.launches.find? fun e => e.2.state == .committed && !s.launches.any fun o => olderVer o.1 e.1 && o.2.state == .committed with
    | none => s
    | some (_, l) => State.copyCommitted n (State.reportCommit { s with mem := l.toCopy.foldl (fun (m : Memory) (e : Shadow) => overlay m e.bytes) s.mem } l)

/-- Launches end at once (R409 step 2, R415): KILLED, with their completion records, unless their image is written; one that has
committed is finished as such. -/
def State.endLaunches (s : State) (p : Launch → Bool) (written : Bool) : State :=
  let s := if written then s else s.copyCommitted s.launches.length
  let mine := s.launches.filter fun e => p e.2
  let s := mine.foldl (fun (s : State) e =>
    let s := if e.2.open' && !written then s.launchEnd e.2 0x52 0 else s
    { s with launches := s.launches.drop e.1 }) s
  let again := s.starts.filter fun e => p e.2 && e.2.again
  let s := { s with starts := s.starts.filter fun e => !p e.2 }
  if written then s else again.foldl (fun s e => s.launchEnd e.2 0x52 0) s

/-- Permits at teardown (R364): those of the lease's tasks return their counts to their granters, and those that name the
lease's cores are gone. -/
def State.returnPermits (s : State) (lease : Nat) : State :=
  let mine (k : Nat) : Bool := (s.cluster (k / 8)).lease == lease
  let held := s.clusters.flatMap fun e => e.2.permits.filter fun p => (s.task p.idx).lease == lease && !mine p.granter
  let s := held.foldl (fun s p => s.onCore p.granter fun c => { c with retp := Nat.min 65535 (c.retp + p.count) }) s
  { s with clusters := s.clusters.map fun (e : Nat × Cluster) => (e.1, { e.2 with
      permits := e.2.permits.filter fun p => (s.task p.idx).lease != lease && !mine p.granter }) }

/-- What a lease held is gone (R409 step 5): tasks, what they sent, its cores, clusters, scratchpads, Spool entries,
translations, slices and faults. -/
def State.clearLease (s : State) (lease : Nat) : State :=
  let l := s.lease lease
  let task (id : Nat) : Bool := (s.task id).lease == lease
  let pos (p : Nat) : Bool := l.positions.contains p
  let pad (a : Nat) : Bool := pos (posOfKey a)
  let entry (k : Nat) : Bool := s.leaseOfEntry k == some lease
  { s with
    tasks := s.tasks.filter fun (e : Nat × Task) => e.2.lease != lease
    cores := s.cores.filter fun (e : Nat × Core) => !pos (e.1 / 8)
    clusters := s.clusters.filter fun (e : Nat × Cluster) => !pos e.1
    spad := s.spad.filter fun c => !pad c.1
    tags := s.tags.filter fun (e : Nat × BitVec 2) => !pad e.1
    spoilt := s.spoilt.filter fun w => !pad (w * 8)
    bank := s.bank.filter fun w => !task w.task && !pad w.loc.addr
    nodes := s.nodes.filter fun (e : Nat × Node) => !pad e.1
    spool := s.spool.filter fun (e : Nat × Entry) => !entry e.1
    ways := s.ways.filter fun w => w.lease != lease
    walks := s.walks.filter fun w => w.lease != lease
    faults := s.faults.filter fun w => w.lease != lease
    dumps := s.dumps.filter fun d => !task d.task
    flight := s.flight.filter fun f => !task f.task && !pos (endPos f.src) && !pos (endPos f.dst)
    images := s.images.drop lease
    saveAreas := s.saveAreas.drop lease
    walkCache := s.walkCache.map fun e => (e.1, e.2.filter fun w => w.lease != lease)
    fabric := { s.fabric with deviceMap := s.fabric.deviceMap.filter fun e => e.1 != lease && e.2.2 != lease }
    leases := s.leases.drop lease }

/-- Once no lease is left, nothing of the job is. -/
def State.clearJob (s : State) : State :=
  if s.leases.any fun e => e.2.live then s
  else
    { s with
      stop := .no, markers := [], images := [], saveAreas := [], chunkStop := none, stoppedAt := none, nextVer := 0, order := 0, job := 0, secret := []
      leaseKey := [], replayLog := [], basteReq := none, basted := none, pendingError := none, launches := [], starts := []
      flight := [], device := s.device.release }

/-- Teardown of a lease (R409). Its gang-stop holds the clock, until nothing of the job is left (R414). -/
def State.tearDown (s : State) (lease : Nat) : State :=
  let l := s.lease lease
  let s := if s.stop == .no || s.stop == .debug then
      { s.cores.foldl (fun (s : State) (e : Nat × Core) => s.stopCore true e.1) s with stop := .draining, device := s.device.hold } else s
  let s := l.cores.foldl (fun s k => s.flushAccounts k) s
  let s := s.endLaunches (fun x => x.lease == lease) (s.images.find lease).isSome
  let s := s.returnPermits lease
  let s := l.pinned.foldl (fun s w => s.flushPinned w) s
  ((s.clearLease lease).clearJob)

/-- Teardown of a lease alone, when its image is written, else of its whole job (R409). -/
def State.tearDownWith (s : State) (lease : Nat) : State :=
  if (s.images.find lease).isSome then s.tearDown lease else s.leases.foldl (fun s e => s.tearDown e.1) s

/-- TEARDOWN (R409). -/
def eventTeardown (lease : Nat) (s : State) : Option State :=
  if !(s.lease lease).live then none else some (s.tearDownWith lease)

/-- The row TEARDOWN: `eventTeardown`, or nothing (assumption log 4). -/
def execTeardown (lease : Nat) (s : State) : Out := happens s (eventTeardown lease s)

/-- FUNCTION_LEVEL_RESET (R409, R398): the same steps. -/
def eventFunctionLevelReset (lease : Nat) (s : State) : Option State :=
  if !(s.lease lease).live then none else some (s.tearDownWith lease)

/-- The virtual function of a lease (R393): 4·d + g + 1 for die d of its device and group g. -/
def Lease.vf (l : Lease) : Nat := 4 * (l.phys % 8) + l.group + 1

/-- The live lease that a virtual function of a device serves (R393). -/
def State.leaseOfVf (s : State) (device vf : Nat) : Option Nat :=
  (s.leases.find? fun e => e.2.live && e.2.phys / 8 == device && e.2.vf == vf).map fun e => e.1

/-- The row FUNCTION_LEVEL_RESET: `eventFunctionLevelReset`, or nothing (assumption log 4). -/
def execFunctionLevelReset (lease : Nat) (s : State) : Out := happens s (eventFunctionLevelReset lease s)

end Sys2Proof.Machine
end

