-- ==== Sys2Proof/Machine/DeviceEvents.lean ====
section
/-! DEFINITION. Boot, configuration and attestation, clocks, and the links of the fabric (R368, R369, R401 to R415). -/
namespace Sys2Proof.Machine

open Sys2Proof

/-- The clamps hold the clock (R414): from a gang-stop to quiescence. -/
def State.clockHeld (s : State) : Bool := s.stop == .stopping || s.stop == .draining || s.stop == .cut

/-- One step down, or the request kept while the clock is held (R414). -/
def State.lowerClock (s : State) : State :=
  if s.clockHeld then { s with device := { s.device with pendingLower := s.device.pendingLower + 1 } }
  else { s with device := { s.device with clockMHz := Nat.max 650 (s.device.clockMHz - 50) } }

/-- POWER_SAMPLE (R414): above the limit the clock steps down by 50 MHz, else it steps up again, to 1.3 GHz at most. -/
def eventPowerSample (milliWatt : Nat) (s : State) : Option State :=
  if !s.device.configured then none
  else if s.device.powerLimit * 1000 < milliWatt then some s.lowerClock
  else if s.clockHeld then some s
  else some { s with device := { s.device with clockMHz := Nat.min 1300 (s.device.clockMHz + 50) } }

/-- The row POWER_SAMPLE: `eventPowerSample`, or nothing (assumption log 4). -/
def execPowerSample (milliWatt : Nat) (s : State) : Out := happens s (eventPowerSample milliWatt s)

/-- THERMAL_CLAMP (R415): a junction above 100 °C lowers the clock in the same way. -/
def execThermalClamp (hot : Bool) (s : State) : Out := .next (if hot then s.lowerClock else s)

/-- A device after reset (R407, R410): what is outside it, and the model's own counters, stay. What HBM holds after a reset
is not stated; the model leaves it (assumption log 32). -/
def State.deviceReset (s : State) : State :=
  { State.reset with
    agenda := s.agenda, cur := s.cur, fresh := s.fresh, seq := s.seq, now := s.now, mem := s.mem, host := s.host
    msix := s.msix, reports := s.reports }

/-- A launch is running when the device resets itself (R415): it has started and not ended, and no image of its lease holds it. -/
def State.runsNow (s : State) (l : Launch) : Bool :=
  (l.state != .starting || l.again) && l.open' && !(s.images.find l.lease).isSome

/-- OVERTEMP_RESET (R415): every running launch ends KILLED, and the device is reset. -/
def execOvertempReset (s : State) : Out := .next (s.endLaunches s.runsNow false).deviceReset

/-- DEVICE_RESET (R410): the boot ROM checks the image; a failing one does not run. -/
def execDeviceReset (imageOk : Bool) (s : State) : Out :=
  .next { s.deviceReset with device := { State.reset.device with booted := imageOk, bootFailed := !imageOk, image := s.device.image + 1 } }

/-- What the device answers on PF BAR0 (R410): its status, BOOT_FAIL where Polroth's image has failed its check. -/
inductive PfStatus where
  | bootFail | running | off
  deriving DecidableEq, Repr

/-- The status on PF BAR0. -/
def Device.pfStatus (d : Device) : PfStatus := if d.bootFailed then .bootFail else if d.booted then .running else .off

/-- CONFIGURATION_BLOB (R411, R414): a valid blob sets the power limit, the live links, the domain, of at
most 384 devices (R2), the operator keys and the lease policies. -/
def eventConfigurationBlob (b : ConfigBlob) (s : State) : Option State :=
  if !s.device.booted then none
  else if !b.valid || 384 < b.devices.length then some s
  else some { s with
    device := { s.device with
      configured := true, powerLimit := Nat.min 4800 b.powerLimit, operatorKeys := b.operatorKeys, policies := b.policies }
    fabric := { s.fabric with links := b.links, domain := b.devices } }

/-- The row CONFIGURATION_BLOB: `eventConfigurationBlob`, or nothing (assumption log 4). -/
def execConfigurationBlob (b : ConfigBlob) (s : State) : Out := happens s (eventConfigurationBlob b s)

/-- Text as bytes, padded with zeros to 8. -/
def padText (x : String) : List Byte := (ascii x ++ List.replicate 8 0).take 8

/-- What the configuration in force and the lease table say (R411, R407, R412), as numbers. -/
def State.blobFacts (s : State) : List Nat :=
  s.device.powerLimit :: s.fabric.links.toNat :: s.fabric.domain.length :: s.fabric.domain ++
    (s.device.operatorKeys.flatMap fun k => k.length :: k.map BitVec.toNat) ++ s.device.policies.map BitVec.toNat
def State.leaseFacts (s : State) : List Nat :=
  s.leases.flatMap fun e => [e.1, bit e.2.live, e.2.phys, e.2.group, e.2.spoolFirst, e.2.spoolCount, e.2.quota] ++ e.2.positions

/-- The five digests of a report (R412): of the identity key, the boot ROM, Polroth's image, the configuration blob and the lease
table. -/
def State.attestedDigests (s : State) : List Byte :=
  [leBytes 1952 Config.identityKey.toNat, Config.bootRom, Config.polrothImage s.device.image, Config.blobBytes s.blobFacts,
    Config.leaseTableBytes s.leaseFacts].flatMap fun x => (shake256 x).take 64

/-- The attestation report for a nonce (R412), signed as the report of a number; what the spec gives no value is free (assumption
log 8). -/
def State.attestationReport (s : State) (nonce : BitVec 256) (n : Nat) : List Byte :=
  leBytes 32 nonce.toNat ++ padText "GN2-0824" ++ padText "B1" ++ s.attestedDigests ++
    leBytes 1184 Config.encapsulationKey.toNat ++ leBytes 3309 (Config.attestationSignature n).toNat

/-- ATTESTATION_REQUEST (R412): the PF returns the report. -/
def eventAttestationRequest (nonce : BitVec 256) (s : State) : Option State :=
  if !s.device.booted then none
  else some { s.freshen with device := { s.device with reports := s.device.reports ++ [s.attestationReport nonce s.fresh] } }

/-- The row ATTESTATION_REQUEST: `eventAttestationRequest`, or nothing (assumption log 4). -/
def execAttestationRequest (nonce : BitVec 256) (s : State) : Out := happens s (eventAttestationRequest nonce s)

/-- The channel that goes with a kind (R369); 4 for either of two, 5 for any, none for a reserved kind. -/
def kindVc (k : Nat) : Option Nat :=
  match k with
  | 0x01 | 0x02 | 0x04 | 0x06 | 0x08 | 0x0A => some 0
  | 0x03 | 0x05 | 0x07 | 0x09 => some 1
  | 0x10 | 0x11 | 0x12 | 0x18 | 0x19 | 0x1A | 0x1B => some 2
  | 0x30 => some 3
  | 0x3F => some 5
  | k => if 0x20 ≤ k && k ≤ 0x2F then some 4 else none

/-- KIND is listed and VC matches it (R369). -/
def flitKindOk (f : WireFlit) : Bool :=
  match kindVc (flitKind f) with
  | some 4 => decide ((flitVc f) ≤ 1)
  | some 5 => true
  | some n => (flitVc f) == n
  | none => false

/-- The plane of a flit in some plane tables (R403), by its sending device's. -/
def planeOf (tbl : List Nat) (f : WireFlit) : Nat :=
  tbl.getD (24 * f.fromDevice + (((flitSrc f) >>> 16) ^^^ fld f.header 127 119 ^^^ fld f.header 118 116 ^^^ fld f.header 115 112) % 24) 0

/-- A flit discarded and counted. -/
def State.discardFlit (s : State) : State := { s with fabric := { s.fabric with discarded := s.fabric.discarded + 1 } }

/-- A flit that arrives on a trunk (R402): only CONTROL goes on, to the packet cores. -/
def State.trunkFlit (s : State) (f : WireFlit) : State :=
  if (flitKind f) == 0x30 && (flitVc f) == 3 then { s with fabric := { s.fabric with delivered := s.fabric.delivered ++ [f] } } else s.discardFlit

/-- FLIT_RECEIVE (R369, R402 to R404): the port of the device that the prefix names delivers a flit to the lease that it names, when the
lease is there and the sender is in its device map, and discards and counts it otherwise; a flit that is not the next of its source,
destination and channel is discarded. What the job itself sends is in the state as a whole, not as flits received (assumption log 58). -/
def eventFlitReceive (f : WireFlit) (s : State) : Option State :=
  if !s.device.booted then none
  else
    let x := s.fabric
    let s : State := { s with fabric := { x with replays := x.replays.drop (24 * f.toDevice + planeOf x.plane f) } }
    if f.trunk then some (s.trunkFlit f)
    else if !flitKindOk f || !(s.lease f.toLease).live || (s.lease f.toLease).phys / 8 != f.toDevice || !x.deviceMap.contains (f.toLease, f.fromDevice, f.fromLease) then
      some s.discardFlit
    else if (flitSeq f) != seqOf x.expected (flitSrc f) (flitDst f) (flitVc f) then some s
    else some { s with fabric := { s.fabric with
      delivered := x.delivered ++ [f]
      expected := setSeq x.expected (flitSrc f) (flitDst f) (flitVc f) (((flitSeq f) + 1) % 65536) } }

/-- The row FLIT_RECEIVE: `eventFlitReceive`, or nothing (assumption log 4). -/
def execFlitReceive (f : WireFlit) (s : State) : Out := happens s (eventFlitReceive f s)

/-- TRUNK_CONTROL (R402). -/
def eventTrunkControl (f : WireFlit) (s : State) : Option State :=
  if !s.device.booted || !f.trunk then none else some (s.trunkFlit f)

/-- The row TRUNK_CONTROL: `eventTrunkControl`, or nothing (assumption log 4). -/
def execTrunkControl (f : WireFlit) (s : State) : Out := happens s (eventTrunkControl f s)

/-- TIME_SYNC (R401): the clock moves by at most 8 ns; not where Polroth's image has failed its check (R410). -/
def eventTimeSync (t : Word) (s : State) : Option State :=
  if s.device.bootFailed then none
  else if 8 < (t - s.now).toNat && 8 < (s.now - t).toNat then none else some { s with now := t }

/-- The row TIME_SYNC: `eventTimeSync`, or nothing (assumption log 4). -/
def execTimeSync (t : Word) (s : State) : Out := happens s (eventTimeSync t s)

/-- The physical devices of the job. -/
def State.jobDevices (s : State) : List Nat := ((s.leases.filter fun e => e.2.live).map fun e => e.2.phys / 8).eraseDups

/-- A link of a device is live (R404, R411). -/
def Fabric.live (x : Fabric) (device link : Nat) : Bool := x.links.getLsbD link && !x.dead.contains (24 * device + link)

/-- Two devices share a live plane (R404): link i of every device goes to plane i (R401). -/
def Fabric.share (x : Fabric) (a b : Nat) : Bool := (List.range 24).any fun i => x.live a i && x.live b i

/-- LINK_CRC_REPLAY (R404) on link `link` mod 24 of physical device `link` / 24: after 16 consecutive replays the link is down and the
policy core is told. When two devices of the job share no live plane, every launch of the job ends KILLED and the job is torn
down. -/
def eventLinkCrcReplay (link : Nat) (s : State) : Option State :=
  let x := s.fabric
  if !x.live (link / 24) (link % 24) then none
  else
    let n := (x.replays.find link).getD 0 + 1
    if n < 16 then some { s with fabric := { x with replays := x.replays.put link n } }
    else
      let s : State := { s with
        fabric := { x with replays := x.replays.drop link, dead := link :: x.dead }, reports := s.reports ++ [Report.linkDown link] }
      let apart := s.jobDevices.any fun a => s.jobDevices.any fun b => a != b && !s.fabric.share a b
      if apart then some (s.leases.foldl (fun s e => s.tearDown e.1) (s.endLaunches (fun _ => true) false))
      else some s

/-- The row LINK_CRC_REPLAY: `eventLinkCrcReplay`, or nothing (assumption log 4). -/
def execLinkCrcReplay (link : Nat) (s : State) : Out := happens s (eventLinkCrcReplay link s)

/-- Plane tables as the policy core may write them (R403): 24 entries for each device from the first, none of a dead link. -/
def Fabric.tableOk (x : Fabric) (tbl : List Nat) : Bool :=
  !tbl.isEmpty && tbl.length % 24 == 0 && (List.range tbl.length).all fun i => decide (tbl.getD i 0 < 24) && x.live (i / 24) (tbl.getD i 0)

/-- PLANE_TABLE_WRITE (R403, R404): where the plane of a source, destination and channel changes, the source sends again what is not
acknowledged, from its oldest SEQ; the destination discards what it has. -/
def eventPlaneTableWrite (tbl : List Nat) (s : State) : Option State :=
  let x := s.fabric
  if !x.tableOk tbl then none
  else some { s with fabric := { x with plane := tbl, resend := x.kept.filter fun f => planeOf tbl f != planeOf x.plane f } }

/-- The row PLANE_TABLE_WRITE: `eventPlaneTableWrite`, or nothing (assumption log 4). -/
def execPlaneTableWrite (tbl : List Nat) (s : State) : Out := happens s (eventPlaneTableWrite tbl s)

/-- A flit is of a source, destination and channel, and its SEQ is covered by an acknowledgment of another (R404). -/
def ackCovers (src dst vc seq : Nat) (f : WireFlit) : Bool :=
  flitSrc f == src && flitDst f == dst && flitVc f == vc && decide ((seq + 65536 - flitSeq f) % 65536 < 32768)

/-- END_TO_END_ACKNOWLEDGEMENT (R404): the source releases what it kept up to a SEQ. -/
def eventEndToEndAcknowledgement (src dst vc seq : Nat) (s : State) : Option State :=
  let x := s.fabric
  if !x.kept.any fun f => flitSrc f == src && flitDst f == dst && flitVc f == vc then none
  else some { s with fabric := { x with
    kept := x.kept.filter fun f => !ackCovers src dst vc seq f
    resend := x.resend.filter fun f => !ackCovers src dst vc seq f } }

/-- The row END_TO_END_ACKNOWLEDGEMENT: `eventEndToEndAcknowledgement`, or nothing (assumption log 4). -/
def execEndToEndAcknowledgement (src dst vc seq : Nat) (s : State) : Out := happens s (eventEndToEndAcknowledgement src dst vc seq s)

end Sys2Proof.Machine
end

