-- ==== Sys2Proof/Machine/Errors.lean ====
section
/-! DEFINITION. Soft errors, rollback and core dumps (R282 to R285, R333, R350). -/
namespace Sys2Proof.Machine

open Sys2Proof

/-- A value on its way to a register that cannot be corrected (R283): the register stays empty and the trap is deferred. -/
def spoilFlight (f : Flight) : Flight :=
  match f.body with
  | .value dst x false n a => { f with body := .value dst x true n a }
  | .access a => match a.kind, a.dst with
    | .load, some dst => { f with body := .value dst 0 true false ((a.parts.head?.map fun (p : Part) => p.loc.va).getD 0) }
    | _, _ => f
  | _ => f

/-- The launch of a version ends KILLED. -/
def State.killVer (s : State) (ver : Nat) : State :=
  match s.launch? ver with
  | some l => if l.open' && !l.decided then s.kill l else s
  | none => s

/-- An error reported by where it was found (R283). -/
def State.reportError (s : State) (e : SoftError) : State :=
  match e with
  | .register id spec =>
    let t := s.task id
    if t.slot.isSome then s.onTask id fun t => { t with spoiled := Reg.ofSpec spec :: t.spoiled } else s.killVer t.ver.toNat
  | .producer k => { s with flight := listUpdate (fun f => f.id == k) spoilFlight s.flight }
  | .memory vdev pa => { s with marked := if s.marked.contains (memKey vdev pa / 64) then s.marked else memKey vdev pa / 64 :: s.marked }
  | .spad a => { s with spoilt := if s.spoilt.contains (a / 8) then s.spoilt else a / 8 :: s.spoilt }
  | .line k host ln => s.onCore k fun c => { c with l1 := listUpdate (fun e => e.host == host && e.line == ln) (fun e => { e with bad := true }) c.l1 }
  | .engine u k => s.onJob u k fun c => { c with status := some (0x40, 0) }
  | .control ver => s.killVer ver

/-- What a report concerns exists (R283): a live task's register, something in flight that fills a register, a place of memory,
a command, a launch. -/
def State.errorMeets (s : State) (e : SoftError) : Bool :=
  match e with
  | .register id spec => (s.task id).live && (match Reg.ofSpec spec with
    | .s n => n != 0
    | .rsv _ | .z _ => false
    | _ => true)
  | .producer k => s.flight.any fun f => f.id == k && spoilFlight f != f
  | .memory vdev pa => decide (vdev < 384) && decide (pa < hbmBytes)
  | .spad a => s.populated (posOfKey a) && decide (a % 2 ^ 24 < 0x600000)
  | .line k host ln => ((s.core k).line host ln).isSome
  | .engine u k => (s.job? u k).isSome
  | .control ver => (s.launch? ver).isSome

/-- A byte of a basting area that the present basting point uses (R350). -/
def State.inBasting (s : State) : SoftError → Bool
  | .memory vdev pa => s.basted.any fun b => b.covered.any fun l =>
      inSpans (s.areaSpans l (s.lease l).bastingArea 33439744) (memKey vdev pa / 64 * 64)
  | _ => false

/-- An uncorrectable error goes to firmware with its location (R282). With a basting point it waits for the rollback, which serves one
that is waiting already too (R283, R350); else, and in the basting area itself, it is reported by where it was found. -/
def State.meetError (s : State) (e : SoftError) : State :=
  let s := { s with reports := s.reports ++ [Report.uncorrectable e] }
  if s.basted.isSome && !s.inBasting e then (if s.pendingError.isNone then { s with pendingError := some e } else s)
  else s.reportError e

/-- UNCORRECTABLE_ERROR (R282, R283, R333). -/
def eventUncorrectableError (e : SoftError) (s : State) : Option State :=
  if !s.errorMeets e then none else some (s.meetError e)

/-- The row UNCORRECTABLE_ERROR: `eventUncorrectableError`, or nothing (assumption log 4). -/
def execUncorrectableError (e : SoftError) (s : State) : Out := happens s (eventUncorrectableError e s)

/-- The lease limit on rollbacks to one basting point (R350). -/
def State.mayRollBack (s : State) : Bool := s.leases.all fun e => !e.2.live || decide (e.2.rollbacks < e.2.rollback)

/-- A launch that started since the basting point runs again, without using a retry (R350). -/
def State.relaunch (s : State) (l : Launch) : State :=
  let s := match l.recIx with
    | some i => (s.onRecord l.lease i fun r => { r with state := .running }).onLease l.lease fun x =>
        { x with armed := if l.queue.isSome || x.armed.contains i then x.armed else x.armed ++ [i] }
    | none => s
  { s with launches := s.launches.drop l.ver }.addStart (l.retry l.retries)

/-- ROLLBACK (R350): the basting point is restored and the launches that started since run again. Past the limit, or
when the point has lapsed, the error is reported by R283. -/
def eventRollback (s : State) : Option State :=
  match s.pendingError with
  | none => none
  | some e =>
    if s.stop != .no then none
    else
      let s0 := { s with pendingError := none }
      match s.basted with
      | none => some (s0.reportError e)
      | some b =>
        if !s.mayRollBack then some (s0.reportError e)
        else
          let began (l : Launch) : Bool :=
            (l.state == .running || l.state == .aborting) && (match b.launches.find l.ver with
              | some o => o.state == .starting
              | none => true)
          let since := (s.launches.filter fun x => began x.2).map fun x => x.2
          some (since.foldl (fun s l => s.relaunch l) (s0.restoreBasting b))

/-- The row ROLLBACK: `eventRollback`, or nothing (assumption log 4). -/
def execRollback (s : State) : Out := happens s (eventRollback s)

/-- CORRECTED_ERROR (R282, R424): counted, by the core that found it, and otherwise invisible. -/
def eventCorrectedError (w : CorrectedAt) (s : State) : Option State :=
  let l := s.lease w.lease
  if !l.live || w.core.any (fun k => !l.cores.contains k) then none else some (s.sampleUnit w.lease 0x0C w.core 1)

/-- The row CORRECTED_ERROR: `eventCorrectedError`, or nothing (assumption log 4). -/
def execCorrectedError (w : CorrectedAt) (s : State) : Out := happens s (eventCorrectedError w s)

/-- SCRUB (R282, R283): an uncorrectable error that scrubbing finds in memory: the piece is marked, and a later read of it is
reported, unless a rollback is to come. -/
def eventScrub (vdev pa : Nat) (s : State) : Option State :=
  if 384 ≤ vdev || hbmBytes ≤ pa then none else some (s.meetError (.memory vdev pa))

/-- The row SCRUB: `eventScrub`, or nothing (assumption log 4). -/
def execScrub (vdev pa : Nat) (s : State) : Out := happens s (eventScrub vdev pa s)

/-- A secondary record (R284). -/
def secondaryBytes (r : Word × Word × Word × Word) : List Byte :=
  [r.1, r.2.1, r.2.2.1, r.2.2.2].flatMap fun w => leBytes 8 w.toNat

/-- A dump record (R284): 8 KiB. -/
def State.dumpRecord (s : State) (d : Dump) : List Byte :=
  let t := s.task d.task
  let sec := d.secondary.take 7
  let w0 := 1 + d.cause.toNat <<< 8 + sec.length <<< 16 + bit d.overflow <<< 19 + (d.task % 2 ^ 32) <<< 32
  [w0, t.launchWord.toNat, d.time.toNat, 0, t.trapCause.toNat, t.trapPc.toNat, t.trapAddr.toNat, t.trapInfo.toNat].flatMap (leBytes 8) ++
    sec.flatMap secondaryBytes ++ List.replicate ((7 - sec.length) * 32) 0 ++ s.frameImage d.task ++ List.replicate 2784 0

/-- The next free slot of the dump area (R284): the lowest that is not in use, which the spec leaves open (assumption log 51). -/
def Lease.freeDump (l : Lease) : Option Nat := (List.range l.dumpSlots).find? fun i => !l.dumpUsed.contains i

/-- The dump writer can write a slot (R285): its bytes translate and may be written, in each page or row that it meets. -/
def State.dumpOk (s : State) (lease a : Nat) : Bool :=
  let starts := if (s.remapOf lease a).isSome || (s.remapOf lease (a + 8191)).isSome then (List.range 33).map fun i => Nat.max a (Nat.min (a / 256 * 256 + 256 * i) (a + 8191))
    else [a, a + 8191]
  starts.all fun x => match s.resolveNow lease 0 (w64 x) with
    | .ok p _ _ => (s.forbids .write p 1).isNone
    | _ => false

/-- CORE_DUMP (R284, R285): the writer takes the next fatal task, writes its record, and only then settles its entry. A
fault of the writer, in the translation or protection of its area or an uncorrectable error that it meets (`ok = false`), resets
the lease: every launch of it ends KILLED, and it is torn down. A gang-stop abandons the record in progress, and it is written from
the start after the restore (R333); the frame is read once the task's own results have landed (R26). -/
def eventCoreDump (k : Nat) (ok : Bool) (s : State) : Option State :=
  match s.dumps[k]? with
  | none => none
  | some d =>
    let lease := (s.task d.task).lease
    let l := s.lease lease
    let turn := !(s.dumps.take k).any fun x => (s.task x.task).lease == lease
    if !turn || !(s.stop == .no || s.stop == .debug) || s.localPending d.task then none
    else
      let reset : Option State := some ({ s with reports := s.reports ++ [Report.dumpFailed lease] }.tearDownWith lease)
      if !ok then reset else
      match l.freeDump with
      | none => none
      | some i =>
        let a := l.dumpArea + i * 8192
        if !s.dumpOk lease a then reset else
        let s := { s with dumps := s.dumps.eraseIdx k }.devicePut lease a (s.dumpRecord d)
        let s := s.onLease lease fun l => { l with dumpUsed := l.dumpUsed ++ [i] }
        some (s.endTask d.task (.retirePoisoned d.cause (w64 a)))

/-- The row CORE_DUMP: `eventCoreDump`, or nothing (assumption log 4). -/
def execCoreDump (k : Nat) (ok : Bool) (s : State) : Out := happens s (eventCoreDump k ok s)

/-- DUMP_SLOT_FREE (R284). -/
def eventDumpSlotFree (lease slot : Nat) (s : State) : Option State :=
  if !(s.lease lease).dumpUsed.contains slot then none
  else some (s.onLease lease fun l => { l with dumpUsed := l.dumpUsed.filter fun i => i != slot })

/-- The row DUMP_SLOT_FREE: `eventDumpSlotFree`, or nothing (assumption log 4). -/
def execDumpSlotFree (lease slot : Nat) (s : State) : Out := happens s (eventDumpSlotFree lease slot s)

end Sys2Proof.Machine
end

