-- ==== Sys2Proof/Machine/LaunchEvents.lean ====
section
/-! DEFINITION. The events of host queues and of starting launches (R256 to R262, R308, R311, R391, R394 to R400), and
what the host and firmware write (R260, R308). -/
namespace Sys2Proof.Machine

open Sys2Proof

/-- SIZE of a queue (R397). -/
def HostQueue.size (x : HostQueue) : Nat := 2 ^ bits x.qctl 20 16

/-- EN of a queue. -/
def HostQueue.on (x : HostQueue) : Bool := x.qctl.getLsbD 0

/-- QCTL as written, with EN as given: reserved bits zero (R397). -/
def qctlOf (x : Word) (en : Bool) : Word := (x &&& 0x1F0706) ||| w64 (bit en)

/-- SIZE in QCTL is one of 4 to 16 (R397). -/
def sizeOk (x : Word) : Bool := decide (4 ≤ bits x 20 16) && decide (bits x 20 16 ≤ 16)

/-- The entries that a queue has read and not taken are given up (R398): their starts have still to get a version. -/
def State.dropRead (s : State) (lease q : Nat) : State :=
  let mine (l : Launch) : Bool := l.lease == lease && l.queue == some q && !l.again
  let s := s.onQueue lease q fun x => { x with busy := x.busy.filter fun i => !s.starts.any fun e => mine e.2 && e.2.slotIx == i }
  { s with starts := s.starts.filter fun e => !mine e.2 }

/-- WAKE_WRITE (R398): the front end covers entries up to `p`. An index already passed, or the consumer index itself, does
nothing; one beyond the ring sets ERR and clears EN, and nothing more is taken. -/
def eventWakeWrite (lease q : Nat) (p : BitVec 32) (s : State) : Option State :=
  let x := s.hostQueue lease q
  if !(s.lease lease).live || 16 ≤ q then none
  else if !x.on then some s
  else
    let d := (p - x.cidx).toNat
    if d = 0 || 2 ^ 31 ≤ d then some s
    else if d ≤ x.size then some (s.onQueue lease q fun x => { x with pidx := p })
    else some ((s.dropRead lease q).onQueue lease q fun x => { x with err := true, qctl := qctlOf x.qctl false, pidx := x.cidx })

/-- The row WAKE_WRITE: `eventWakeWrite`, or nothing (assumption log 4). -/
def execWakeWrite (lease q : Nat) (p : BitVec 32) (s : State) : Out := happens s (eventWakeWrite lease q p s)

/-- QUEUE_ENABLE (R397, R398): EN becomes 1 unless ERR is set or SIZE is no ring size. While EN is 1, SIZE does not
change (R396). -/
def eventQueueEnable (lease q : Nat) (v : Word) (s : State) : Option State :=
  let x := s.hostQueue lease q
  if !(s.lease lease).live || 16 ≤ q || !v.getLsbD 0 then none
  else if x.on then
    some (s.onQueue lease q fun x => { x with qctl := (qctlOf v true &&& 0x707) ||| (x.qctl &&& 0x1F0000) })
  else some (s.onQueue lease q fun x => { x with qctl := qctlOf v (sizeOk v && !x.err) })

/-- The row QUEUE_ENABLE: `eventQueueEnable`, or nothing (assumption log 4). -/
def execQueueEnable (lease q : Nat) (v : Word) (s : State) : Out := happens s (eventQueueEnable lease q v s)

/-- QUEUE_DISABLE (R397, R398): no further entry is taken, launches already started run on, and ERR is clear. -/
def eventQueueDisable (lease q : Nat) (v : Word) (s : State) : Option State :=
  let x := s.hostQueue lease q
  if !(s.lease lease).live || 16 ≤ q || v.getLsbD 0 then none
  else
    let size : Word := if x.on then x.qctl &&& 0x1F0000 else v &&& 0x1F0000
    some ((s.dropRead lease q).onQueue lease q fun x =>
      { x with qctl := (qctlOf v false &&& 0x706) ||| size, err := false, pidx := x.cidx })

/-- The row QUEUE_DISABLE: `eventQueueDisable`, or nothing (assumption log 4). -/
def execQueueDisable (lease q : Nat) (v : Word) (s : State) : Out := happens s (eventQueueDisable lease q v s)

/-- The place of a register in BAR0 of a lease's virtual function (R395): queue registers, the trace registers, and words of the
MSI-X table. -/
inductive HostReg where
  | queue (q off : Nat)
  | trace (off : Nat)
  | msix (i : Nat)
  | none
  deriving DecidableEq, Repr

/-- The register at an offset. The pending-bit array reads zero: a vector is sent at once (R400, assumption log 57). -/
def hostReg (off : Nat) : HostReg :=
  if 0x1000 ≤ off && off < 0x2000 then .queue ((off - 0x1000) / 0x100) (off % 0x100)
  else if 0x2000 ≤ off && off < 0x2030 then .trace (off - 0x2000)
  else if 0x8000 ≤ off && off < 0x8080 then .msix ((off - 0x8000) / 8)
  else .none

/-- REGISTER_WRITE (R396, R420): registers whose write does nothing but store; ignored while their unit is enabled. A
write of a read-only or reserved register is ignored (R5); QCTL, PIDX, TCTL and TRP have rows of their own. -/
def eventRegisterWrite (lease off : Nat) (v : Word) (s : State) : Option State :=
  if !(s.lease lease).live then none
  else
    match hostReg off with
    | .queue q o =>
      if 16 ≤ q then none
      else
        let put (f : HostQueue → HostQueue) : Option State :=
          some (s.onQueue lease q fun x => if x.on then x else f x)
        match o with
        | 0x00 => put fun x => { x with ring := v &&& 0x80FFFFFFFFFFFFC0 }
        | 0x10 => put fun x => { x with cidxa := v &&& 0xFFFFFFFFFFFFFFF8 }
        | 0x18 => put fun x => { x with wakea := v &&& 0xFFFFFFFFFFFFFFF8 }
        | 0x20 => put fun x => { x with compl := v &&& 0xFFFFFFFFFFFFFFE0 }
        | 0x08 | 0x28 => none
        | _ => some s
    | .trace o =>
      let put (f : TraceRing → TraceRing) : Option State :=
        some (s.onLease lease fun l => if l.trace.tctl.getLsbD 0 then l else { l with trace := f l.trace })
      match o with
      | 0x00 => put fun x => { x with tring := v &&& 0x00FFFFFFFFFFFFC0 }
      | 0x10 => put fun x => { x with twpa := v &&& 0xFFFFFFFFFFFFFFF8 }
      | 0x08 | 0x18 => none
      | _ => some s
    | .msix i => some (s.onLease lease fun l => { l with msixTable := l.msixTable.setIfInBounds i v })
    | .none => some s

/-- The row REGISTER_WRITE: `eventRegisterWrite`, or nothing (assumption log 4). -/
def execRegisterWrite (lease off : Nat) (v : Word) (s : State) : Out := happens s (eventRegisterWrite lease off v s)

/-- Some bytes of a device's memory lie in a lease's queue area (R395, R408): 1 MiB, as its aperture. -/
def Lease.inQueueArea (l : Lease) (a n : Nat) : Bool :=
  decide (l.queueArea ≤ a) && decide (a + n ≤ l.queueArea + 0x100000) && decide (a + n ≤ hbmBytes)

/-- The 64 bytes of a queue entry as one number (R398, R399): from host memory, or from the queue area of the lease. A ring outside
that area reaches nothing (R408): its entries read zero, and are refused (assumption log 57). -/
def State.queueEntry (s : State) (lease : Nat) (x : HostQueue) : BitVec 512 :=
  let a := bits x.ring 55 0 + x.cidx.toNat % x.size * 64
  if !x.ring.getLsbD 63 then BitVec.ofNat 512 (s.host.num a 64)
  else if (s.lease lease).inQueueArea a 64 then BitVec.ofNat 512 (s.mem.num (memKey (s.leaseDev lease) a) 64)
  else 0

/-- The launch of a queue entry (R256, R399). -/
def State.entryLaunch (s : State) (lease q : Nat) (x : HostQueue) (e : BitVec 512) : Launch :=
  let l := s.lease lease
  let direct : Launch := { Launch.none with
    lease := lease, entry := e.extractLsb' 64 64, data := e.extractLsb' 128 64, payload := e.extractLsb' 192 320
    quota := l.shadow, retries := l.retry, flags := l.directFlags
    completion := if x.compl = 0 then 0 else x.compl + w64 (32 * (x.cidx.toNat % x.size)), state := .starting }
  let base := if fld e 7 0 = 1 then direct else l.launchOf lease (fld e 47 32)
  { base with queue := some q, slotIx := x.cidx.toNat, phase := e.extractLsb' 16 16 }

/-- The fields of an entry that keep it from being a command (R399). -/
def entryBad (e : BitVec 512) : Bool :=
  fld e 15 8 != 0 || fld e 63 48 != 0 ||
    (match fld e 7 0 with
     | 1 => fld e 47 32 != 0
     | 2 => decide (4096 ≤ fld e 47 32) || fld e 511 64 != 0
     | _ => true)

/-- QUEUE_ENTRY_TAKE (R256, R398, R399): the front end reads the next covered entry once and starts its launch, which
may still have to wait, or refuses it. -/
def eventQueueEntryTake (lease q : Nat) (s : State) : Option State :=
  let x := s.hostQueue lease q
  let waiting := s.starts.any fun e => e.2.lease == lease && e.2.queue == some q && !e.2.again
  if !(s.lease lease).live || 16 ≤ q || !x.on || x.err || x.cidx == x.pidx || waiting || s.stop != .no ||
      !(x.qctl.getLsbD 2 || x.busy.isEmpty) then none
  else
    let e := s.queueEntry lease x
    let l := s.entryLaunch lease q x e
    if entryBad e then
      let bad : Launch := { l with
        recIx := none, completion := if x.compl = 0 then 0 else x.compl + w64 (32 * (x.cidx.toNat % x.size)) }
      some (s.refuseStart bad 0x1A)
    else some ((s.addStart l).onQueue lease q fun x => { x with busy := l.slotIx :: x.busy })

/-- The row QUEUE_ENTRY_TAKE: `eventQueueEntryTake`, or nothing (assumption log 4). -/
def execQueueEntryTake (lease q : Nat) (s : State) : Out := happens s (eventQueueEntryTake lease q s)

/-- A start as it stands now: a record command reads its record when it starts (R260, R261). -/
def State.renewStart (s : State) (l : Launch) : Launch :=
  match l.queue, l.recIx with
  | some q, some i =>
    if l.again then l
    else { (s.lease l.lease).launchOf l.lease i with queue := some q, slotIx := l.slotIx, phase := l.phase }
  | _, _ => l

/-- A record command finds its record not IDLE (R261). -/
def State.recordBusy (s : State) (l : Launch) : Bool :=
  match l.queue, l.recIx with
  | some _, some i => !l.again && ((s.lease l.lease).record i).state != .idle
  | _, _ => false

/-- What a start leaves behind once its launch runs: a taken entry. A record stays in the record queue until its launch has
ended. -/
def State.afterStart (s : State) (k : Nat) (l : Launch) : State :=
  let s := { s with starts := s.starts.drop k }
  if l.again then s
  else
    match l.queue with
    | some q => s.consumeEntry l.lease q
    | none => s

/-- A start is given up with an outcome (R257, R261): an armed record is IDLE again and its version is finally
aborted. -/
def State.giveUpStart (s : State) (k : Nat) (l : Launch) (outcome : BitVec 8) : State :=
  let s := { s with starts := s.starts.drop k }
  let s := match l.queue, l.recIx with
    | none, some i =>
      let s := s.onRecord l.lease i fun r => { r with state := .idle, armer := none }
      let s := s.onLease l.lease fun x => { x with armed := x.armed.filter fun j => j != i }
      if l.versioned then { s with launches := s.launches.drop l.ver } else s
    | _, _ => s
  let s := match l.queue with
    | some q => s.onQueue l.lease q fun x => { x with busy := x.busy.filter fun i => i != l.slotIx }
    | none => s
  s.refuseStart l outcome

/-- LAUNCH_START (R257 to R259, R261, R311): the launch starts, is refused, or waits for its entry or a version. -/
def eventLaunchStart (k : Nat) (s : State) : Option State :=
  match s.starts.find k with
  | none => none
  | some l0 =>
    if l0.waits || s.stop != .no then none
    else
      let l := s.renewStart l0
      if s.recordBusy l then some (s.giveUpStart k l 0x95)
      else
        match s.rootCore l with
        | none => some (s.giveUpStart k l 0x1A)
        | some core =>
          match s.startLaunch l core with
          | some s => some (s.afterStart k l)
          | none => some { s with starts := s.starts.put k { l with waits := true } }

/-- The row LAUNCH_START: `eventLaunchStart`, or nothing (assumption log 4). -/
def execLaunchStart (k : Nat) (s : State) : Out := happens s (eventLaunchStart k s)

/-- ROOT_ALLOCATION_RETRY (R258, R311, R261): a waiting start is tried again and succeeds, or is refused as a start is. -/
def eventRootAllocationRetry (k : Nat) (s : State) : Option State :=
  match s.starts.find k with
  | none => none
  | some l0 =>
    let l := s.renewStart l0
    if !l0.waits || s.stop != .no then none
    else if s.recordBusy l then some (s.giveUpStart k l 0x95)
    else
      match s.rootCore l with
      | none => some (s.giveUpStart k l 0x1A)
      | some core =>
        match s.startLaunch l core with
        | some s => some (s.afterStart k l)
        | none => none

/-- The row ROOT_ALLOCATION_RETRY: `eventRootAllocationRetry`, or nothing (assumption log 4). -/
def execRootAllocationRetry (k : Nat) (s : State) : Out := happens s (eventRootAllocationRetry k s)

/-- An armed record may start (R261, R391): the launch that armed it has committed, and either it has OVERLAP, or it is
first in the record queue: every launch before it there has ended. -/
def State.armedReady (s : State) (lease i : Nat) : Bool :=
  let l := s.lease lease
  let r := l.record i
  let committed := match r.armer with
    | none => true
    | some v => match s.launch? v with
      | none => true
      | some x => !x.open'
  let first := l.armed.head? == some i
  let pending := s.starts.any fun e => e.2.lease == lease && e.2.queue.isNone && !e.2.again && e.2.recIx == some i
  r.state == .armed && committed && !pending && ((r.word 0x50).getLsbD 0 || first)

/-- RECORD_LAUNCH_START (R261, R259): the first armed record that may start. -/
def eventRecordLaunchStart (lease : Nat) (s : State) : Option State :=
  let l := s.lease lease
  match l.armed.find? (s.armedReady lease) with
  | none => none
  | some i =>
    if !l.live || s.stop != .no then none
    else some (s.addStart { l.launchOf lease i with ver := (l.record i).ver.toNat })

/-- The row RECORD_LAUNCH_START: `eventRecordLaunchStart`, or nothing (assumption log 4). -/
def execRecordLaunchStart (lease : Nat) (s : State) : Out := happens s (eventRecordLaunchStart lease s)

/-- The fields of a record image that firmware refuses (R260): those that are not patchable. Of `phase`, [15:0] are used. -/
def recordBad (x : BitVec 2048) : Bool :=
  let r : LaunchRecord := ⟨x, .idle, 0, none⟩
  bits (r.word 0x48) 63 4 != 0 || bits (r.word 0x50) 63 2 != 0 ||
    (r.word 0x40).toNat % 2048 != 0 || r.word 0x68 != 0 || x.extractLsb' 896 1152 != 0

/-- The image is one that firmware loads (R65, R85, R88, R260). -/
def imageOk (img : LaunchImage) : Bool :=
  (img.patterns.all fun p => decide (p.1 < 256) && (p.2 == 0 || patOk p.2)) &&
    img.records.all fun r => decide (r.1 < 4096) && !recordBad r.2

/-- LAUNCH_IMAGE_LOAD (R260): firmware writes an image's pattern entries and records, or refuses it whole. -/
def eventLaunchImageLoad (lease : Nat) (img : LaunchImage) (s : State) : Option State :=
  let l := s.lease lease
  let busy := img.records.any fun r => (l.record r.1).state != .idle
  if !l.live || busy then none
  else if !imageOk img then some s
  else
    some (s.onLease lease fun l => { l with
      pats := img.patterns.foldl (fun t p => t.put p.1 p.2) l.pats
      records := img.records.foldl (fun t r => t.put r.1 ⟨r.2, .idle, 0, none⟩) l.records })

/-- The row LAUNCH_IMAGE_LOAD: `eventLaunchImageLoad`, or nothing (assumption log 4). -/
def execLaunchImageLoad (lease : Nat) (img : LaunchImage) (s : State) : Out := happens s (eventLaunchImageLoad lease img s)

/-- Bytes that the host writes stay above what a commit still has to copy (R308, R318). -/
def Shadow.without (e : Shadow) (a n : Nat) : Shadow :=
  { e with bytes := if e.host then e.bytes else e.bytes.filter fun b => decide (b.1 < a) || decide (a + n ≤ b.1) }

/-- HOST_WRITE (R308): the write enters committed memory; launches that start after it read it, and it enters no read
set. A device whose image failed its check answers no such write (R410). -/
def eventHostWrite (vdev pa : Nat) (bytes : List Byte) (s : State) : Option State :=
  let a := memKey vdev pa
  if 384 ≤ vdev || hbmBytes < pa + bytes.length || s.device.bootFailed then none
  else
    let older (l : Launch) : Launch := { l with toCopy := l.toCopy.map fun e => e.without a bytes.length }
    some { s with
      mem := s.mem.write a bytes
      launches := s.launches.map fun (e : Nat × Launch) => (e.1, older e.2) }

/-- The row HOST_WRITE: `eventHostWrite`, or nothing (assumption log 4). -/
def execHostWrite (vdev pa : Nat) (bytes : List Byte) (s : State) : Out := happens s (eventHostWrite vdev pa bytes s)

end Sys2Proof.Machine
end

