-- ==== Sys2Proof/Machine/RecordEvents.lean ====
section
/-! DEFINITION. The ends of chunks and stops before one (R345 to R347, R428). -/
namespace Sys2Proof.Machine

open Sys2Proof

/-- A chunk record (R346). -/
def chunkRecord (seq : Word) (task count why kind : Nat) : BitVec 128 :=
  BitVec.ofNat 128 ((kind % 16) <<< 8 + (why % 16) <<< 12 + (count % 65536) <<< 16 + (task % 2 ^ 32) <<< 32 + seq.toNat <<< 64)

/-- Records appended to a lease's chunk log; none when it is full (R346). -/
def State.logRecords (s : State) (lease : Nat) (rs : List (BitVec 128)) : Option State :=
  let l := s.lease lease
  if l.chunkLogSize < 16 * (l.chunkCount + rs.length) then none
  else
    let a := l.chunkLog + 16 * l.chunkCount
    some ((s.devicePut lease a (rs.flatMap fun r => leBytes 16 r.toNat)).onLease lease fun l =>
      { l with chunkCount := l.chunkCount + rs.length })

/-- What a task's chunk is, as its record gives it: instructions or the command's number, reason, kind, and the value of a
GETSR that ended it (R346). -/
structure ChunkEnd where
  count : Nat
  why : Nat
  kind : Nat
  value : Option Word
  deriving DecidableEq, Repr

/-- The engine chunk of a task that ends next, if that comes before its own (R347): in a replay, when its number has come or no chunk
of the task itself is due. -/
def State.engineChunk (s : State) (id : Nat) : Option Nat :=
  let t := s.task id
  let turn := !s.replays id || t.due.isNone || (s.nextChunk id true).any fun r => chunkSeq r.1 == s.order.toNat
  if turn then t.ended.head? else none

/-- The chunk of a task that ends next: an engine's, or its own. R346 gives the record of an engine's chunk no WHY: it takes the
argument of the event (assumption log 51). -/
def State.chunkEnding (s : State) (id why : Nat) : Option ChunkEnd :=
  let t := s.task id
  let own := t.due.map fun w =>
    let v := t.lastSr.map t.get64
    (⟨t.chunk, w.toNat, if v.isSome then 1 else 0, v⟩ : ChunkEnd)
  match s.engineChunk id with
  | some n => some ⟨n, why, 2, none⟩
  | none => own

/-- The chunk is over for its task. -/
def State.closeChunk (s : State) (id : Nat) : State :=
  let engine := (s.engineChunk id).isSome
  { s with order := s.order + 1 }.onTask id fun t =>
    if engine then { t with ended := t.ended.drop 1 } else { t with due := none, lastSr := none, chunk := 0 }

/-- REPLAY_DIVERGENCE (R347): firmware begins to stop the job, reports the divergence, and the launch ends KILLED. -/
def State.diverge (s : State) (id : Nat) : State :=
  let ver := (s.task id).ver.toNat
  let s : State := if s.stop == .no then { s with stop := .stopping, markers := [] } else s
  let s := { s with reports := s.reports ++ [Report.divergence id] }
  s.killAll fun l => l.ver == ver

/-- A chunk agrees with its record in the log (R347). -/
def chunkAgrees (e : ChunkEnd) (r : BitVec 128) : Bool :=
  chunkCount r == e.count % 65536 && chunkKind r == e.kind && (e.kind == 2 || chunkWhy r == e.why)

/-- CHUNK_END (R345 to R347): the chunk takes the next number of the job's order and is logged; it waits while its
accesses have not performed, and while the log is full. Under replay it must agree with the log. -/
def eventChunkEnd (id why : Nat) (s : State) : Option State :=
  let t := s.task id
  match s.chunkEnding id why with
  | none => none
  | some e =>
    if !s.chunkTakes id || e.why != why || s.unperformed id || s.releasing id then none
    else if s.replays id then
      match s.nextChunk id (e.kind == 2) with
      | none => some ((s.closeChunk id).diverge id)
      | some r => some (if chunkAgrees e r.1 then s.closeChunk id else (s.closeChunk id).diverge id)
    else
      let r := chunkRecord s.order id e.count e.why e.kind
      match s.logRecords t.lease (r :: match e.value with
        | some v => [v.setWidth 128]
        | none => []) with
      | none => none
      | some s => some (s.closeChunk id)

/-- The row CHUNK_END: `eventChunkEnd`, or nothing (assumption log 4). -/
def execChunkEnd (id why : Nat) (s : State) : Out := happens s (eventChunkEnd id why s)

/-- DEBUG_CHUNK_STOP (R428): the job is to stop before the chunk of a number in the replayed log. -/
def eventDebugChunkStop (seq : Nat) (s : State) : Option State :=
  if !(s.leases.any fun e => e.2.live && e.2.debugger && e.2.replay) then none
  else some { s with chunkStop := some seq }

/-- The row DEBUG_CHUNK_STOP: `eventDebugChunkStop`, or nothing (assumption log 4). -/
def execDebugChunkStop (seq : Nat) (s : State) : Out := happens s (eventDebugChunkStop seq s)

end Sys2Proof.Machine
end

