-- ==== Sys2Proof/Machine/TraceEvents.lean ====
section
/-! DEFINITION. The trace ring, level samples, and debugging (R420, R421, R424, R426, R427). -/
namespace Sys2Proof.Machine

open Sys2Proof

/-- WRITE_INDEX_UPDATE (R421): the write index goes to TWPA. -/
def eventWriteIndexUpdate (lease : Nat) (s : State) : Option State :=
  let t := (s.lease lease).trace
  if !t.tctl.getLsbD 0 then none
  else some { s with host := if t.twpa = 0 then s.host else s.host.putNum t.twpa.toNat 8 t.windex.toNat }

/-- The row WRITE_INDEX_UPDATE: `eventWriteIndexUpdate`, or nothing (assumption log 4). -/
def execWriteIndexUpdate (lease : Nat) (s : State) : Out := happens s (eventWriteIndexUpdate lease s)

/-- SIZE in TCTL is one of 6 to 20 (R420). -/
def traceSizeOk (x : Word) : Bool := decide (6 ≤ bits x 20 16) && decide (bits x 20 16 ≤ 20)

/-- TCTL as written: its reserved bits zero. -/
def tctlOf (x : Word) (en : Bool) : Word := (x &&& 0x1F0006) ||| w64 (bit en)

/-- TRACE_ENABLE (R420): EN is set when SIZE is in its range, and TDROP counts from here. While EN is 1, SIZE stays. -/
def eventTraceEnable (lease : Nat) (x : Word) (s : State) : Option State :=
  let l := s.lease lease
  if !l.live || !x.getLsbD 0 then none
  else if l.trace.tctl.getLsbD 0 then
    some (s.onLease lease fun l => { l with trace := { l.trace with
      tctl := (tctlOf x true &&& 0x7) ||| (l.trace.tctl &&& 0x1F0000) } })
  else
    some (s.onLease lease fun l => { l with trace := { l.trace with
      tctl := tctlOf x (traceSizeOk x), tdrop := if traceSizeOk x then 0 else l.trace.tdrop } })

/-- The row TRACE_ENABLE: `eventTraceEnable`, or nothing (assumption log 4). -/
def execTraceEnable (lease : Nat) (x : Word) (s : State) : Out := happens s (eventTraceEnable lease x s)

/-- TRACE_DISABLE (R420): no record is made from here on. -/
def eventTraceDisable (lease : Nat) (x : Word) (s : State) : Option State :=
  let l := s.lease lease
  if !l.live || x.getLsbD 0 then none
  else
    let size : Word := if l.trace.tctl.getLsbD 0 then l.trace.tctl &&& 0x1F0000 else x &&& 0x1F0000
    some (s.onLease lease fun l => { l with trace := { l.trace with tctl := (tctlOf x false &&& 0x6) ||| size } })

/-- The row TRACE_DISABLE: `eventTraceDisable`, or nothing (assumption log 4). -/
def execTraceDisable (lease : Nat) (x : Word) (s : State) : Out := happens s (eventTraceDisable lease x s)

/-- TRP (R421): the host's read index. -/
def eventTrpWrite (lease : Nat) (r : BitVec 32) (s : State) : Option State :=
  if !(s.lease lease).live then none
  else some (s.onLease lease fun l => { l with trace := { l.trace with trp := r } })

/-- The row TRP_WRITE: `eventTrpWrite`, or nothing (assumption log 4). -/
def execTrpWrite (lease : Nat) (r : BitVec 32) (s : State) : Out := happens s (eventTrpWrite lease r s)

/-- The level of a source on a unit (R424): the lease's counter in a slice (R294), messages held at a core, resident entries of its
die. -/
def State.level (s : State) (lease unit src : Nat) : Option Nat :=
  match src with
  | 8 => some (s.sliceCount lease (unit / 64) (unit % 64))
  | 9 => some (s.core unit).inboxUsed
  | 10 => some (s.resident (s.lease lease) (dieOf (unit / 8)))
  | _ => none

/-- A unit that samples a level of a lease, and the core that it counts as for SCOPE (R423, R424): a core of the lease, or a slice of a
die of its devices, which is no core. -/
def State.levelUnit (s : State) (lease unit src : Nat) : Option (Option Nat) :=
  if src = 8 then (if (s.positions.map fun p => p / 128).contains (unit / 512) then some none else none)
  else if (s.lease lease).cores.contains unit then some (some unit) else none

/-- LEVEL_SAMPLE (R424, R425). -/
def eventLevelSample (lease unit : Nat) (src : BitVec 8) (s : State) : Option State :=
  match s.level lease unit src.toNat, s.levelUnit lease unit src.toNat with
  | some n, some at' => if !(s.lease lease).live then none else some (s.sampleUnit lease src.toNat at' (w64 n))
  | _, _ => none

/-- The row LEVEL_SAMPLE: `eventLevelSample`, or nothing (assumption log 4). -/
def execLevelSample (lease unit : Nat) (src : BitVec 8) (s : State) : Out := happens s (eventLevelSample lease unit src s)

/-- DEBUG_ATTACH (R427). -/
def eventDebugAttach (lease : Nat) (s : State) : Option State :=
  let l := s.lease lease
  if !l.live || l.debugger then none else some (s.onLease lease fun l => { l with debugger := true })

/-- The row DEBUG_ATTACH: `eventDebugAttach`, or nothing (assumption log 4). -/
def execDebugAttach (lease : Nat) (s : State) : Out := happens s (eventDebugAttach lease s)

/-- A task that a debug stop left at an instruction goes on (R427): after a BRK at the next one, after a watchpoint with
the instruction exempt. -/
def Task.continueFrom (t : Task) (cause : Nat) : Task :=
  if cause = 0x30 then { t with pc := nextPc t.pc, chunk := t.chunk + 1, tgt := .none, wdr := false }
  else if cause = 0x16 then { t with wpx := true }
  else t

/-- A BRK that a debugger continues counts in its chunk, which may be over with it (R345, R428). -/
def State.afterBrk (s : State) (id cause : Nat) : State :=
  if cause = 0x30 && (s.task id).due.isNone then s.afterIssue s id none else s

/-- DEBUG_CONTINUE (R427): the job runs again; a basting point that the stop held up is taken (R333). -/
def eventDebugContinue (lease : Nat) (s : State) : Option State :=
  match s.stop, s.stoppedAt with
  | .debug, some (id, cause) =>
    if !(s.lease lease).debugger then none
    else
      let s := s.onTask id fun t => t.continueFrom cause
      let s := s.afterBrk id cause
      some (State.basteAgain { s with
        stop := .no
        stoppedAt := none
        cores := s.cores.map fun (e : Nat × Core) => (e.1, { e.2 with stopped := false }) })
  | _, _ => none

/-- The row DEBUG_CONTINUE: `eventDebugContinue`, or nothing (assumption log 4). -/
def execDebugContinue (lease : Nat) (s : State) : Out := happens s (eventDebugContinue lease s)

/-- No activation of the lease is live (R426). -/
def State.betweenActivations (s : State) (lease : Nat) : Bool :=
  s.stop == .debug || !s.tasks.any fun e => e.2.live && e.2.lease == lease && e.2.act.isSome

/-- WATCHPOINT_WRITE (R426): between activations or during a debug stop; a malformed one is refused. -/
def eventWatchpointWrite (lease ix : Nat) (x : BitVec 128) (s : State) : Option State :=
  let l := s.lease lease
  if !l.live || 16 ≤ ix || !s.betweenActivations lease then none
  else if 30 < fld x 87 82 then some s
  else
    let kept : BitVec 128 := x &&& 0xFFFFFFFF87FE000000FFFFFFFFFFFFFF
    some (s.onLease lease fun l => { l with watch := l.watch.setIfInBounds ix kept })

/-- The row WATCHPOINT_WRITE: `eventWatchpointWrite`, or nothing (assumption log 4). -/
def execWatchpointWrite (lease ix : Nat) (x : BitVec 128) (s : State) : Out := happens s (eventWatchpointWrite lease ix x s)

/-- The word of a BRK that carries a code (R222): class 0xB, operation 4, and everything else zero. -/
def brkWord (code : BitVec 40) : IWord := BitVec.ofNat 96 (0xB * 2 ^ 92 + 4 * 2 ^ 84 + code.toNat)

/-- BREAKPOINT_PLANT (R426): firmware rewrites the slot, in device or host memory, and the line's parity with it. Bytes that a commit
has still to copy there no longer reach it. -/
def eventBreakpointPlant (lease : Nat) (pc : Word) (code : BitVec 40) (s : State) : Option State :=
  let l := s.lease lease
  if !l.live || !l.debugger || !legalPc pc then none
  else
    let i := slotOf pc
    let w := brkWord code
    let p := slotParity w
    let plant (m : Memory) (a : Nat) : Memory :=
      let lw := m.num (a + 60) 4
      let par := lw - lw / 2 ^ (2 * i) % 4 * 2 ^ (2 * i) + (p.1 + 2 * p.2) * 2 ^ (2 * i)
      (m.write (a + 12 * i) (leBytes 12 w.toNat)).write (a + 60) (leBytes 4 par)
    match s.resolveNow lease (l.positions.headD 0) (w64 (lineOf pc)) with
    | .ok ⟨.mem _, a, _, _⟩ _ _ =>
      let under (e : Shadow) : Shadow := (e.without (a + 12 * i) 12).without (a + 60) 4
      let own (l : Launch) : Launch := { l with shadow := l.shadow.map under, toCopy := l.toCopy.map under }
      some { s with mem := plant s.mem a, launches := s.launches.map fun (e : Nat × Launch) => (e.1, own e.2) }
    | .ok ⟨.host _, a, _, _⟩ _ _ => some { s with host := plant s.host a }
    | _ => none

/-- The row BREAKPOINT_PLANT: `eventBreakpointPlant`, or nothing (assumption log 4). -/
def execBreakpointPlant (lease : Nat) (pc : Word) (code : BitVec 40) (s : State) : Out := happens s (eventBreakpointPlant lease pc code s)

/-- The register that a specifier names (R13). -/
def debugReg (spec : BitVec 7) : Option Reg :=
  match Reg.ofSpec spec with
  | .rsv _ => none
  | .z _ => none
  | r => some r

/-- DEBUGGER_WRITE (R427): a register of a stopped frame. -/
def eventDebuggerWrite (task : Nat) (spec : BitVec 7) (x : BitVec 2048) (s : State) : Option State :=
  let t := s.task task
  match debugReg spec with
  | none => none
  | some r =>
    if s.stop != .debug || !t.live || !(s.lease t.lease).debugger then none
    else some (s.landReg task r x)

/-- The row DEBUGGER_WRITE: `eventDebuggerWrite`, or nothing (assumption log 4). -/
def execDebuggerWrite (task : Nat) (spec : BitVec 7) (x : BitVec 2048) (s : State) : Out := happens s (eventDebuggerWrite task spec x s)

end Sys2Proof.Machine
end

