-- ==== Sys2Proof/Machine/Auto.lean ====
section
/-! DEFINITION. The model's own choice of an event when the agenda says nothing (assumption log 2): the events that could
take place, in an order, and the first of them that does. -/
namespace Sys2Proof.Machine

open Sys2Proof

/-- The events that the model chooses by itself: each stands for the row of that name, with its arguments. Events that
need the host, firmware, the world outside or the passing of time are left to the agenda. -/
inductive Auto where
  | memoryAccess (k : Nat)
  | valueLands (k : Nat)
  | storeAcknowledged (k : Nat)
  | releaseComplete (k : Nat)
  | taggedRequest (k : Nat)
  | taggedResend (k : Nat)
  | withdrawal (k : Nat)
  | sendDelivery (k : Nat)
  | sendStatus (k : Nat)
  | message (k : Nat)
  | messageStatus (k : Nat)
  | postFlit (k : Nat)
  | postStatus (k : Nat)
  | grantFlit (k : Nat)
  | grantStatus (k : Nat)
  | permitReturn (k : Nat)
  | spoolRequest (k : Nat)
  | spoolAnswer (k : Nat)
  | wakeFlit (k : Nat)
  | cancelDelivery (k : Nat)
  | arrive (k : Nat)
  | flip (k : Nat)
  | nodeWait (k : Nat)
  | nodeAnswer (k : Nat)
  | prepareMsg (k : Nat)
  | preparedMsg (k : Nat)
  | retractMsg (k : Nat)
  | commitMsg (k : Nat)
  | abortMsg (k : Nat)
  | abortqMsg (k : Nat)
  | doneMsg (k : Nat)
  | fixedLatencyResult (task : Nat)
  | pageWalk (k : Nat)
  | launchAbort (ver : Nat)
  | launchStart (k : Nat)
  | rootAllocationRetry (k : Nat)
  | launchCommit (ver : Nat)
  | shadowGranuleCopy (ver : Nat)
  | matrixCommandDone (core : Nat)
  | matrixCommandStart (core : Nat)
  | gangForms (pos : Nat) (mask : BitVec 8)
  | gangStepStart (pos : Nat) (mask : BitVec 8)
  | accumulatorRelease (core : Nat)
  | handlerActivationStart (core : Nat)
  | heldCommandRelease (u : EngineUnit) (k : Nat)
  | copyGranule (pos : Nat) (chan : Nat)
  | copyChannelTake (pos : Nat) (chan : Nat)
  | channelYield (pos : Nat) (chan : Nat)
  | tileCopyStart (pos : Nat)
  | dispatch (pos : Nat)
  | resultBeat (pos : Nat) (k : Nat) (stack : Nat)
  | thresherRow (pos : Nat) (k : Nat) (row : Nat)
  | thresherGranuleRead (pos : Nat) (k : Nat) (row : Nat)
  | recordLaunchStart (lease : Nat)
  | refillRetry (lease : Nat)
  | queueEntryTake (lease : Nat) (queue : Nat)
  | coreDump (k : Nat) (ok : Bool)
  | chunkEnd (task : Nat) (why : Nat)
  deriving DecidableEq, Repr

/-- An event's effect, where it takes place. -/
def autoRun (a : Auto) (s : State) : Option State :=
  match a with
  | .memoryAccess k => eventMemoryAccess k s
  | .valueLands k => eventValueLands k s
  | .storeAcknowledged k => eventStoreAcknowledged k s
  | .releaseComplete k => eventReleaseComplete k s
  | .taggedRequest k => eventTaggedRequest k s
  | .taggedResend k => eventTaggedResend k s
  | .withdrawal k => eventWithdrawal k s
  | .sendDelivery k => eventSendDelivery k s
  | .sendStatus k => eventSendStatus k s
  | .message k => eventMessage k s
  | .messageStatus k => eventMessageStatus k s
  | .postFlit k => eventPostFlit k s
  | .postStatus k => eventPostStatus k s
  | .grantFlit k => eventGrantFlit k s
  | .grantStatus k => eventGrantStatus k s
  | .permitReturn k => eventPermitReturn k s
  | .spoolRequest k => eventSpoolRequest k s
  | .spoolAnswer k => eventSpoolAnswer k s
  | .wakeFlit k => eventWakeFlit k s
  | .cancelDelivery k => eventCancelDelivery k s
  | .arrive k => eventArrive k s
  | .flip k => eventFlip k s
  | .nodeWait k => eventNodeWait k s
  | .nodeAnswer k => eventNodeAnswer k s
  | .prepareMsg k => eventPrepareMsg k s
  | .preparedMsg k => eventPreparedMsg k s
  | .retractMsg k => eventRetractMsg k s
  | .commitMsg k => eventCommitMsg k s
  | .abortMsg k => eventAbortMsg k s
  | .abortqMsg k => eventAbortqMsg k s
  | .doneMsg k => eventDoneMsg k s
  | .fixedLatencyResult task => eventFixedLatencyResult task s
  | .pageWalk k => eventPageWalk k s
  | .launchAbort ver => eventLaunchAbort ver s
  | .launchStart k => eventLaunchStart k s
  | .rootAllocationRetry k => eventRootAllocationRetry k s
  | .launchCommit ver => eventLaunchCommit ver s
  | .shadowGranuleCopy ver => eventShadowGranuleCopy ver s
  | .matrixCommandDone core => eventMatrixCommandDone core s
  | .matrixCommandStart core => eventMatrixCommandStart core s
  | .gangForms pos mask => eventGangForms pos mask s
  | .gangStepStart pos mask => eventGangStepStart pos mask s
  | .accumulatorRelease core => eventAccumulatorRelease core s
  | .handlerActivationStart core => eventHandlerActivationStart core s
  | .heldCommandRelease u k => eventHeldCommandRelease u k s
  | .copyGranule pos chan => eventCopyGranule pos chan s
  | .copyChannelTake pos chan => eventCopyChannelTake pos chan s
  | .channelYield pos chan => eventChannelYield pos chan s
  | .tileCopyStart pos => eventTileCopyStart pos s
  | .dispatch pos => eventDispatch pos s
  | .resultBeat pos k stack => eventResultBeat pos k stack s
  | .thresherRow pos k row => eventThresherRow pos k row s
  | .thresherGranuleRead pos k row => eventThresherGranuleRead pos k row s
  | .recordLaunchStart lease => eventRecordLaunchStart lease s
  | .refillRetry lease => eventRefillRetry lease s
  | .queueEntryTake lease queue => eventQueueEntryTake lease queue s
  | .coreDump k ok => eventCoreDump k ok s
  | .chunkEnd task why => eventChunkEnd task why s

/-- The event that would deliver something on its way (R367, R369). -/
def Flight.event (f : Flight) : Auto :=
  match f.body with
  | .access _ => .memoryAccess f.id
  | .value .. => .valueLands f.id
  | .ack => .storeAcknowledged f.id
  | .release => .releaseComplete f.id
  | .tagged .. => .taggedRequest f.id
  | .resend .. => .taggedResend f.id
  | .withdraw .. => .withdrawal f.id
  | .send .. => .sendDelivery f.id
  | .sendStatus .. => .sendStatus f.id
  | .message .. => .message f.id
  | .messageStatus .. => .messageStatus f.id
  | .post .. => .postFlit f.id
  | .postStatus .. => .postStatus f.id
  | .grant .. => .grantFlit f.id
  | .grantStatus .. => .grantStatus f.id
  | .permitReturn .. => .permitReturn f.id
  | .spool .. => .spoolRequest f.id
  | .answer .. => .spoolAnswer f.id
  | .wake .. => .wakeFlit f.id
  | .cancel .. => .cancelDelivery f.id
  | .arrive .. => .arrive f.id
  | .flip .. => .flip f.id
  | .nodeWait .. => .nodeWait f.id
  | .nodeAnswer .. => .nodeAnswer f.id
  | .ctrl m => match m with
    | .prepare .. => .prepareMsg f.id
    | .prepared .. => .preparedMsg f.id
    | .retract .. => .retractMsg f.id
    | .commit .. => .commitMsg f.id
    | .abort .. => .abortMsg f.id
    | .abortq .. => .abortqMsg f.id
    | .done .. => .doneMsg f.id

/-- The rows of a TMV command that are not done, one after the other, and its results. -/
def thresherAuto (pos : Nat) (c : Command) : List Auto :=
  if c.started && c.status.isNone then
    (List.range 3).map (fun st => Auto.resultBeat pos c.id st) ++
      ((tmvRows c).filter fun n => !c.rowDone n).flatMap fun n => [.thresherRow pos c.id n, .thresherGranuleRead pos c.id n]
  else [.thresherGranuleRead pos c.id 0]

/-- Flights returned from a full list go last: they would otherwise be sent for ever. -/
def State.flightsInTurn (s : State) : List Flight :=
  let again (f : Flight) : Bool := match f.body with
    | .resend .. => true
    | _ => false
  s.flight.filter (fun f => !again f) ++ s.flight.filter again

/-- The events that could take place, in the order in which the model tries them. -/
def State.candidates (s : State) : List Auto :=
  (s.tasks.filterMap fun e => if e.2.fixed.isEmpty then none else some (.fixedLatencyResult e.1)) ++
  (s.tasks.filterMap fun e => if e.2.chunkDue then some (.chunkEnd e.1 ((e.2.due.map BitVec.toNat).getD 0)) else none) ++
  s.flightsInTurn.map Flight.event ++
  (s.tasks.flatMap fun e => e.2.held.map fun f => .sendDelivery f.id) ++
  ((List.range s.walks.length).map fun k => .pageWalk k) ++
  (s.starts.flatMap fun e => [.launchStart e.1, .rootAllocationRetry e.1]) ++
  (s.launches.flatMap fun e => [.launchAbort e.1, .launchCommit e.1, .shadowGranuleCopy e.1]) ++
  (s.cores.flatMap fun e =>
    [.matrixCommandDone e.1, .matrixCommandStart e.1] ++
      (match e.2.pending with
       | some (_, m, _) => [.gangForms (e.1 / 8) m]
       | none => []) ++
      [.gangStepStart (e.1 / 8) e.2.gang, .accumulatorRelease e.1, .handlerActivationStart e.1]) ++
  (s.clusters.flatMap fun e =>
    (e.2.jobs.map fun c => .heldCommandRelease (.copy e.1) c.id) ++
    (e.2.thresher.map fun c => .heldCommandRelease (.thresher e.1) c.id) ++
    ((List.range 4).flatMap fun ch => [.copyGranule e.1 ch, .channelYield e.1 ch, .copyChannelTake e.1 ch]) ++
    [.tileCopyStart e.1, .dispatch e.1]) ++
  (s.cores.flatMap fun e => e.2.queue.map fun c => .heldCommandRelease (.slice e.1) c.id) ++
  (s.clusters.flatMap fun e => e.2.thresher.flatMap fun c => thresherAuto e.1 c) ++
  (s.leases.flatMap fun e => .recordLaunchStart e.1 :: .refillRetry e.1 ::
    (List.range 16).map fun q => .queueEntryTake e.1 q) ++
  ((List.range s.dumps.length).map fun k => .coreDump k true)

/-- The first of some events that takes place. -/
def firstEvent (s : State) : List Auto → Option State
  | [] => none
  | a :: l =>
    match autoRun a s with
    | some s' => some s'
    | none => firstEvent s l

end Sys2Proof.Machine
end

