-- ==== Sys2Proof/Machine/Control.lean ====
section
/-! DEFINITION. Class 0x2: transfers of control and the guard instructions (R116 to R121). -/
namespace Sys2Proof.Machine

open Sys2Proof

/-- BR (R117). -/
def execBr (f : Fields) (s : State) : Out :=
  run (issue f.guard [] [] [] fun s => checkTarget s (branchTarget s.me.pc f.imm)) s

/-- JMP (R117). -/
def execJmp (f : Fields) (s : State) : Out := instr f (fun s => checkTarget s (s.sa f)) s

/-- CALL (R117): the link is written before the check. -/
def execCall (f : Fields) (s : State) : Out :=
  instr f (fun s => checkTarget (s.put f.dst (nextPc s.me.pc)) (branchTarget s.me.pc f.imm)) s

/-- CALLR (R117): the target is read before the link is written (R18). -/
def execCallr (f : Fields) (s : State) : Out :=
  instr f (fun s => checkTarget (s.put f.dst (nextPc s.me.pc)) (s.sa f)) s

/-- RET (R117). -/
def execRet (f : Fields) (s : State) : Out := instr f (fun s => checkTarget s (s.sa f)) s

/-- LOOP (R117, R118): the count is read, written, and the branch taken while it is not zero. -/
def execLoop (f : Fields) (s : State) : Out :=
  run (issue f.guard [] [f.dst] [f.dst] fun s =>
    let n := s.me.get64 f.dst - 1
    let s := s.put f.dst n
    if n = 0 then .ok s else checkTarget s (branchTarget s.me.pc f.imm)) s

/-- The guards that QSET names (R120). -/
def qsetRegs (imm : BitVec 40) : List (Fin 8) := (List.finRange 8).filter fun i => imm.getLsbD i.val

/-- QSET (R120). -/
def execQset (f : Fields) (s : State) : Out :=
  run (issue f.guard [] [] ((qsetRegs f.imm).map Reg.q) fun s =>
    .ok ((qsetRegs f.imm).foldl (fun s i => s.putQ (.q i) (f.imm.getLsbD (8 + i.val))) s)) s

/-- QLOG (R121). -/
def execQlog (f : Fields) (s : State) : Out :=
  instr f (fun s => .ok (s.putQ f.dst (qlogBit (fld f.imm 3 0) (s.sa f == 1) (s.sb f == 1)))) s

end Sys2Proof.Machine
end

