-- ==== Sys2Proof/Machine/Integer.lean ====
section
/-! DEFINITION. Class 0x0: NOP, integer arithmetic, logic, bit fields, moves, LEA, comparisons, CHK (R91 to R105). -/
namespace Sys2Proof.Machine

open Sys2Proof

/-- A width operation (R92): DST receives the low `w` bits of the exact result, extended by S. -/
def widthOp (f : Fields) (op : IntArgs → Int) (s : State) : Out :=
  instr f (fun s => .ok (s.put f.dst ((intArgs f s).result (op (intArgs f s))))) s

/-- The value bit `i` moves in BREV. -/
def reverseBits (w n : Nat) : Nat := (List.range w).foldl (fun r i => r + bit (n.testBit i) * 2 ^ (w - 1 - i)) 0

/-- Leading zero bits of a `w`-bit pattern. -/
def leadingZeros (w n : Nat) : Nat := if n = 0 then w else w - 1 - n.log2

/-- Trailing zero bits of a `w`-bit pattern. -/
def trailingZeros : Nat → Nat → Nat
  | 0, _ => 0
  | w + 1, n => if n % 2 = 1 then 0 else 1 + trailingZeros w (n / 2)

/-- Bytes of a `w`-bit pattern reversed. -/
def reverseBytes (w n : Nat) : Nat := packLanes 8 ((List.range (w / 8)).map fun i => lane (BitVec.ofNat w n) 8 (w / 8 - 1 - i))

/-- SHL (R95, R97). -/
def shlOp (x : IntArgs) : Int := if x.w ≤ x.full.toNat then 0 else (x.pa <<< x.full.toNat : Nat)
/-- SHR (R95, R97). -/
def shrOp (x : IntArgs) : Int := if x.w ≤ x.full.toNat then 0 else (x.pa >>> x.full.toNat : Nat)
/-- SAR (R95, R97). -/
def sarOp (x : IntArgs) : Int := sgn x.w x.pa / (2 ^ Nat.min x.full.toNat x.w : Nat)
/-- ROT (R95, R97). -/
def rotOp (x : IntArgs) : Int :=
  let n := x.full.toNat % x.w
  ((x.pa <<< n) % 2 ^ x.w + x.pa >>> (x.w - n) : Nat)

/-- NOP (R53). -/
def execNop (f : Fields) (s : State) : Out := run (issue f.guard [] [] [] fun s => .ok s) s
/-- ADD (R95). -/
def execAdd (f : Fields) (s : State) : Out := widthOp f (fun x => x.a + x.b) s
/-- SUB (R95). -/
def execSub (f : Fields) (s : State) : Out := widthOp f (fun x => x.a - x.b) s
/-- MUL (R95). -/
def execMul (f : Fields) (s : State) : Out := widthOp f (fun x => x.a * x.b) s
/-- MULH (R95). -/
def execMulh (f : Fields) (s : State) : Out := widthOp f (fun x => x.a * x.b / (2 ^ x.w : Nat)) s
/-- MAD (R95). -/
def execMad (f : Fields) (s : State) : Out := widthOp f (fun x => x.a * x.b + x.c) s

/-- DIV and REM (R96): a zero divisor at the width traps DIVIDE_ZERO. -/
def divOp (f : Fields) (op : Int → Int → Int) (s : State) : Out :=
  instr f (fun s =>
    let x := intArgs f s
    if x.b = 0 then .trap 0x18 0 (s.sa f) else .ok (s.put f.dst (x.result (op x.a x.b)))) s
/-- DIV (R96). -/
def execDiv (f : Fields) (s : State) : Out := divOp f Int.tdiv s
/-- REM (R96). -/
def execRem (f : Fields) (s : State) : Out := divOp f Int.tmod s

/-- AND (R95). -/
def execAnd (f : Fields) (s : State) : Out := widthOp f (fun x => (x.pa &&& x.pb : Nat)) s
/-- OR (R95). -/
def execOr (f : Fields) (s : State) : Out := widthOp f (fun x => (x.pa ||| x.pb : Nat)) s
/-- XOR (R95). -/
def execXor (f : Fields) (s : State) : Out := widthOp f (fun x => (x.pa ^^^ x.pb : Nat)) s
/-- ANDN (R95). -/
def execAndn (f : Fields) (s : State) : Out := widthOp f (fun x => (x.pa &&& (2 ^ x.w - 1 - x.pb) : Nat)) s
/-- SHL (R97). -/
def execShl (f : Fields) (s : State) : Out := widthOp f shlOp s
/-- SHR (R97). -/
def execShr (f : Fields) (s : State) : Out := widthOp f shrOp s
/-- SAR (R97). -/
def execSar (f : Fields) (s : State) : Out := widthOp f sarOp s
/-- ROT (R95). -/
def execRot (f : Fields) (s : State) : Out := widthOp f rotOp s
/-- MIN (R95). -/
def execMin (f : Fields) (s : State) : Out := widthOp f (fun x => if x.b < x.a then x.b else x.a) s
/-- MAX (R95). -/
def execMax (f : Fields) (s : State) : Out := widthOp f (fun x => if x.a < x.b then x.b else x.a) s
/-- ABS (R95): a is read as signed whatever S. -/
def execAbs (f : Fields) (s : State) : Out := widthOp f (fun x => ((sgn x.w x.pa).natAbs : Int)) s
/-- CLZ (R95). -/
def execClz (f : Fields) (s : State) : Out := widthOp f (fun x => (leadingZeros x.w x.pa : Nat)) s
/-- CTZ (R95). -/
def execCtz (f : Fields) (s : State) : Out := widthOp f (fun x => (trailingZeros x.w x.pa : Nat)) s
/-- POPC (R95). -/
def execPopc (f : Fields) (s : State) : Out := widthOp f (fun x => (popCount x.w x.pa : Nat)) s
/-- BREV (R95). -/
def execBrev (f : Fields) (s : State) : Out := widthOp f (fun x => (reverseBits x.w x.pa : Nat)) s
/-- BSWAP (R95). -/
def execBswap (f : Fields) (s : State) : Out := widthOp f (fun x => (reverseBytes x.w x.pa : Nat)) s

/-- The field that BFX extracts (R99). -/
def bfxValue (sg : Bool) (a ctl : Word) : Word :=
  let pos := bits ctl 7 0
  let len := Nat.min (bits ctl 15 8) 64
  extend (sg && len != 0) (if len = 0 then 64 else len) (if len = 0 then 0 else (a.toNat >>> pos) % 2 ^ len)

/-- BFX (R99). -/
def execBfx (f : Fields) (s : State) : Out :=
  instr f (fun s => .ok (s.put f.dst (bfxValue (intSigned f.mod) (s.sa f) (second f s)))) s

/-- The word that BFI makes (R99). -/
def bfiValue (a ctl x : Word) : Word :=
  let pos := bits ctl 7 0
  let len := Nat.min (bits ctl 15 8) 64
  let m : Word := w64 ((2 ^ len - 1) * 2 ^ pos)
  (a &&& ~~~ m) ||| (w64 (x.toNat * 2 ^ pos) &&& m)

/-- BFI (R99). -/
def execBfi (f : Fields) (s : State) : Out :=
  instr f (fun s => .ok (s.put f.dst (bfiValue (s.sa f) (second f s) (s.sc f)))) s

/-- SEL (R100). -/
def execSel (f : Fields) (s : State) : Out :=
  instr f (fun s => .ok (s.put f.dst (if s.sc f = 1 then s.sa f else second f s))) s

/-- MOVI (R101). -/
def execMovi (f : LFields) (s : State) : Out :=
  run (issue f.guard [] [] [f.dst] fun s => .ok (s.put f.dst f.imm)) s

/-- The value MOV writes, by destination and source (R102). -/
def movValue (f : Fields) (s : State) : VWord :=
  let x : Word := if immForm f.mod then simm f.imm else s.sa f
  let narrow : Word := extend (intSigned f.mod) (intWidth f.mod) x.toNat
  match f.dst, f.a.reg with
  | .v _, r => s.me.value r
  | .q _, _ => if x = 0 then 0 else 1
  | .s _, .s _ => narrow.setWidth 2048
  | _, _ => x.setWidth 2048

/-- MOV (R102). -/
def execMov (f : Fields) (s : State) : Out := instr f (fun s => .ok (s.putV f.dst (movValue f s))) s

/-- LEA (R103). -/
def execLea (f : Fields) (s : State) : Out := instr f (fun s => .ok (s.put f.dst (effAddr f s))) s

/-- CMP (R105). -/
def execCmp (f : Fields) (s : State) : Out :=
  instr f (fun s => .ok (s.putQ f.dst (cmpHolds (fld f.mod 6 3) (intArgs f s).a (intArgs f s).b))) s

/-- TST (R105). -/
def execTst (f : Fields) (s : State) : Out :=
  instr f (fun s => .ok (s.putQ f.dst (tstHolds (fld f.mod 6 3) (intArgs f s).pa (intArgs f s).pb))) s

/-- CHK (R104). -/
def execChk (f : Fields) (s : State) : Out :=
  instr f (fun s =>
    let x := intArgs f s
    if 0 ≤ x.a ∧ x.a < x.b then .ok (s.put f.dst (x.result x.a)) else .trap 0x1A (s.sa f) x.full) s

end Sys2Proof.Machine
end

