-- ==== Sys2Proof/Machine/System.lean ====
section
/-! DEFINITION. Class 0xB: special registers, traps and their return, trace, time, launch records, patterns and basting
requests (R21, R221 to R228, R423). -/
namespace Sys2Proof.Machine

open Sys2Proof

/-- The special-register number of an instruction. -/
def srNum (f : Fields) : Nat := fld f.imm 8 0

/-- A register that no task may write (R21): RO and FW. -/
def srLocked (n : Nat) : Bool :=
  decide (n ≤ 5) || (decide (0x10 ≤ n) && decide (n ≤ 0x17)) || n == 0x24 || (decide (0x31 ≤ n) && decide (n ≤ 0x33)) ||
    n == 0x40 || decide (0x100 ≤ n)

/-- The place of a lease among those that a test accepts, by its lowest cluster (R21). -/
def State.leaseRank (s : State) (ix : Nat) (ok : Lease → Bool) : Nat :=
  let low (l : Lease) : Nat := l.positions.foldl Nat.min (2 ^ 16)
  (s.leases.filter fun e => e.2.live && ok e.2 && decide (low e.2 < low (s.lease ix))).length

/-- `id.lease` (R21). -/
def State.leaseWord (s : State) (ix : Nat) : Word :=
  let dev (l : Lease) : Nat := l.positions.headD 0 / 128
  w64 (s.leaseRank ix (fun l => dev l == dev (s.lease ix)) + s.leaseRank ix (fun _ => true) <<< 5)

/-- Monitor `m` of a lease (R423). -/
def State.monitor (s : State) (lease m : Nat) : Monitor := (s.lease lease).monitors.toList.getD m Monitor.reset

/-- Register `r` of a monitor (R423). -/
def Monitor.read (m : Monitor) (r : Nat) : Word :=
  match r with
  | 0 => m.cfg
  | 1 => m.min
  | 2 => m.max
  | 3 => m.cnt
  | r => m.hist.toList.getD (r - 4) 0

/-- Register `r` of a monitor written (R423): `mon.cfg` resets the others. -/
def Monitor.write (m : Monitor) (r : Nat) (x : Word) : Monitor :=
  match r with
  | 0 => { Monitor.reset with cfg := x }
  | 1 => { m with min := x }
  | 2 => { m with max := x }
  | 3 => { m with cnt := x }
  | r => { m with hist := m.hist.setIfInBounds (r - 4) x }

/-- A special register as a task reads it (R21). -/
def State.srRead (s : State) (id n : Nat) : Word :=
  let t := s.task id
  if 0x80 ≤ n && n < 0xC0 then (s.monitor t.lease ((n - 0x80) / 8)).read ((n - 0x80) % 8)
  else
    match n with
    | 0x00 => identWord id
    | 0x01 => w64 (t.core % 8)
    | 0x02 => w64 (t.pos % 16)
    | 0x03 => w64 (t.pos / 16 % 8)
    | 0x04 => w64 (t.pos / 128)
    | 0x05 => s.leaseWord t.lease
    | 0x10 => t.org.get 0
    | 0x11 => t.org.get 1
    | 0x12 => t.org.get 2
    | 0x13 => t.org.get 3
    | 0x14 => t.ext.get 0
    | 0x15 => t.ext.get 1
    | 0x16 => t.ext.get 2
    | 0x17 => t.ext.get 3
    | 0x20 => t.trapCause
    | 0x21 => t.trapPc
    | 0x22 => t.trapAddr
    | 0x23 => t.trapInfo
    | 0x24 => (s.lease t.lease).trapVec
    | 0x30 => t.prio.setWidth 64
    | 0x31 => t.self
    | 0x32 => t.launchWord
    | 0x33 => t.arg
    | 0x38 => t.fpMode.setWidth 64
    | 0x39 => t.fpSeed
    | 0x40 => s.now
    | _ => 0

/-- A source number of R424. -/
def monSource (n : Nat) : Bool := decide (1 ≤ n) && decide (n ≤ 0x0D)

/-- A value sets a reserved bit of a special register or a field to a reserved value (R21, R423, R424). -/
def srReserved (n : Nat) (x : Word) : Bool :=
  if 0x80 ≤ n && n < 0xC0 then
    n % 8 == 0 && (bits x 62 56 != 0 || bits x 23 20 != 0 || bits x 11 8 != 0 || !monSource (bits x 7 0))
  else if n = 0x20 then decide (256 ≤ x.toNat)
  else if n = 0x30 then decide (4 ≤ x.toNat)
  else if n = 0x38 then decide (5 ≤ x.toNat)
  else false

/-- A special register written by a task (R21). -/
def State.srWrite (s : State) (id n : Nat) (x : Word) : State :=
  if 0x80 ≤ n && n < 0xC0 then
    let m := (n - 0x80) / 8
    s.onLease (s.task id).lease fun l =>
      { l with monitors := l.monitors.setIfInBounds m ((l.monitors.toList.getD m Monitor.reset).write ((n - 0x80) % 8) x) }
  else
    s.onTask id fun t =>
      match n with
      | 0x20 => { t with trapCause := x }
      | 0x21 => { t with trapPc := x }
      | 0x22 => { t with trapAddr := x }
      | 0x23 => { t with trapInfo := x }
      | 0x30 => { t with prio := x.setWidth 2 }
      | 0x38 => { t with fpMode := x.setWidth 3 }
      | 0x39 => { t with fpSeed := x }
      | _ => t

/-- The guard of an instruction whose own guard has been tested. -/
def noGuard : Guard := ⟨false, false, 0⟩

/-- What a GETSR returns: the logged value under replay, where there is one (R347). -/
def State.srValue (s : State) (n : Nat) : Word :=
  let logged : Option Word :=
    if s.recorded s.cur && s.replays s.cur && loggedSr n then (s.nextChunk s.cur false).bind fun r => r.2 else none
  logged.getD (s.srRead s.cur n)

/-- GETSR (R21, R221). -/
def execGetsr (f : Fields) (s : State) : Out :=
  instr f (fun s =>
    let n := srNum f
    if 0x100 ≤ n then .trap 0x09 0 (w64 n)
    else .ok (s.put f.dst (s.srValue n))) s

/-- SETSR (R21, R221): PRIVILEGE ranks before the source is read (R270). -/
def execSetsr (f : Fields) (s : State) : Out :=
  run (issue f.guard [] [] [] fun s =>
    let n := srNum f
    if srLocked n then .trap 0x09 0 (w64 n)
    else
      issue noGuard [(1, f.a)] [] [] (fun s =>
        if srReserved n (s.sa f) then .trap 0x06 0 2 else .ok (s.srWrite s.cur n (s.sa f))) s) s

/-- TRAP (R222): the PC reported is that of the next instruction. -/
def execTrap (f : Fields) (s : State) : Out :=
  run (issue f.guard [] [] [] fun s => .trapAt s 0x31 (nextPc s.me.pc) 0 (w64 f.imm.toNat)) s

/-- ERET (R222, R265). -/
def execEret (f : Fields) (s : State) : Out :=
  run (issue f.guard [] [] [] fun s =>
    if s.me.inh then .gone (s.onMe fun t => { t.eret with wait := .no, loom := .running, chunk := t.chunk + 1 })
    else .trap 0x09 0 0xFFFF) s

/-- BRK (R222, R427): a debug stop when a debugger holds the lease. -/
def execBrk (f : Fields) (s : State) : Out :=
  run (issue f.guard [] [] [] fun s =>
    if (s.lease s.me.lease).debugger then .stop 0x30 0 else .trap 0x30 0 (w64 f.imm.toNat)) s

/-- TRACE (R223, R417). -/
def execTrace (f : Fields) (s : State) : Out :=
  run (issue f.guard [(1, f.a)] [] [] fun s =>
    .ok (s.traceTask s.cur 1 (w64 (fld f.imm 15 0)) (s.sa f))) s

/-- An earlier instruction of the task has not written its result, or an access has not performed (R223). -/
def State.owes (s : State) (id : Nat) : Bool :=
  s.unperformed id || s.releasing id || !(s.task id).fixed.isEmpty || s.owesTo id fun d => d != .s 0

/-- TSTAMP (R223): it waits in place, then writes the time. -/
def execTstamp (f : Fields) (s : State) : Out :=
  run (issue f.guard [] [] [f.dst] fun s => if s.owes s.cur then .wait .place s else .ok (s.put f.dst s.now)) s

/-- LPATCH (R225). -/
def execLpatch (f : Fields) (s : State) : Out :=
  instr f (fun s =>
    let i := s.sa f
    let off := fld f.imm 7 0
    let l := s.me.lease
    if 4096 ≤ i.toNat || !patchable off || ((s.lease l).record i.toNat).state != .idle then
      .trap 0x1A 0 (i + w64 (off <<< 16))
    else .ok (s.onRecord l i.toNat fun r => r.setWord off (s.sb f))) s

/-- LARM (R225, R261, R391). -/
def execLarm (f : Fields) (s : State) : Out :=
  instr f (fun s =>
    let i := s.sa f
    let l := s.me.lease
    if 4096 ≤ i.toNat then .trap 0x1A 0 i
    else if ((s.lease l).record i.toNat).state != .idle then .ok (s.put f.dst 0x95)
    else if !s.versionFree l then .wait .place s
    else
      let ver := s.me.ver.toNat
      let (s, v) := s.takeVersion
      let x : Launch := { (s.lease l).launchOf l i.toNat with ver := v }
      let s := { s with launches := s.launches.put v x }
      let s := s.onRecord l i.toNat fun r => { r with state := .armed, ver := BitVec.ofNat 16 v, armer := some ver }
      let s := s.onLease l fun y => { y with armed := y.armed ++ [i.toNat] }
      .ok (s.put f.dst (w64 (v <<< 16)))) s

/-- PATSET (R226). -/
def execPatset (f : Fields) (s : State) : Out :=
  instr f (fun s =>
    let i := fld f.imm 7 0
    let p : PatWord := (s.me.value f.a.reg).setWidth 512
    if !patOk p then .trap 0x1A 0 (w64 i)
    else .ok (s.onLease s.me.lease fun l => { l with pats := l.pats.put i p })) s

/-- PATGET (R226). -/
def execPatget (f : Fields) (s : State) : Out :=
  instr f (fun s => .ok (s.putV f.dst ((s.pat s.me.lease (fld f.imm 7 0)).setWidth 2048))) s

/-- BASTE (R227): a later request replaces an earlier one. Words with K = 0 hold no node, and are answered as a node that
is no root (the model's choice; log 51). The phase that the root has already is accepted, and its point is taken when the root next
flips to it, or when a job that stopped runs again while the root has it (the model's choice; log 56). -/
def execBaste (f : Fields) (s : State) : Out :=
  instr f (fun s => nodeAt (s.sa f) false (fun p s =>
    let n := p.addr
    let ph := bits (s.sb f) 31 0
    if !s.tagK n || s.nodeParent n != 0 || tokenPassed (s.nodePhase n) ph then .ok (s.put f.dst 0x1A)
    else .ok ({ s with basteReq := some (n, BitVec.ofNat 32 ph, s.me.ver.toNat) }.put f.dst 0)) s) s

end Sys2Proof.Machine
end

