-- ==== Sys2Proof/Machine/Vector.lean ====
section
/-! DEFINITION. Class 0x6: vector integer and lane operations (R157 to R165). -/
namespace Sys2Proof.Machine

open Sys2Proof

/-- The element width of MOD.EW (R157). -/
def vecWidth (m : BitVec 8) : Nat :=
  match fld m 4 3 with
  | 0 => 32
  | 1 => 16
  | _ => 8

/-- MOD.S of class 0x6 (R157). -/
def vecSigned (m : BitVec 8) : Bool := m.getLsbD 5
/-- MOD.SAT (R157). -/
def vecSat (m : BitVec 8) : Bool := m.getLsbD 6
/-- MOD.X (R157, R166). -/
def vecX (m : BitVec 8) : Nat := fld m 2 0

/-- An element is active under a mask (R158). -/
def activeElem (mask w i : Nat) : Bool := mask.testBit (i * w / 32)

/-- A vector whose active elements are given and whose others are kept (R158). -/
def mergeVec (old : VWord) (mask w : Nat) (g : Nat → Nat) : VWord :=
  vecOf w ((List.range (2048 / w)).map fun i => if activeElem mask w i then g i else lane old w i)

/-- The registers that a masked instruction reads beside its sources: DST when it names a mask (R158). -/
def mergeReads (f : Fields) : List Reg := if f.c.reg = .s 0 then [] else [f.dst]

/-- The frame of a vector instruction; `also` adds DST to what is read (R158, R160). -/
def vecIssue (f : Fields) (also : Bool) (work : State → Res) (s : State) : Out :=
  run (issue f.guard (sourcesOf f) (if also then [f.dst] else mergeReads f) [f.dst] work) s

/-- Element `i` of the first operand (R158). -/
def vecA (f : Fields) (s : State) (w i : Nat) : Nat := lane (s.me.value f.a.reg) w i

/-- Element `i` of the second operand, or the immediate at the element width (R157, R160). -/
def vecB (f : Fields) (s : State) (w i : Nat) : Nat :=
  if immForm f.mod then (simm f.imm).toNat % 2 ^ w else lane (s.me.value f.b.reg) w i

/-- A `w`-bit pattern as an exact integer (R160). -/
def elemInt (sg : Bool) (w n : Nat) : Int := if sg then sgn w n else ((n % 2 ^ w : Nat) : Int)

/-- An integer held within a range (R160). -/
def clampInt (lo hi y : Int) : Int := if y < lo then lo else if hi < y then hi else y

/-- The result of an element: saturated or wrapped (R160). -/
def elemResult (m : BitVec 8) (sg : Bool) (w : Nat) (y : Int) : Nat :=
  wrap w (if vecSat m then clampInt (intMin w sg) (intMax w sg) y else y)

/-- An element-wise operation on exact integers (R160). -/
def vecIntOp (f : Fields) (also : Bool) (op : Nat → Int → Int → Int → Int) (s : State) : Out :=
  vecIssue f also (fun s =>
    let w := vecWidth f.mod
    let sg := vecSigned f.mod
    let old := s.me.value f.dst
    .ok (s.putV f.dst (mergeVec old (maskOf s.me f.c.reg) w fun i =>
      elemResult f.mod sg w (op w (elemInt sg w (vecA f s w i)) (elemInt sg w (vecB f s w i)) (elemInt sg w (lane old w i)))))) s

/-- VADD (R160). -/
def execVadd (f : Fields) (s : State) : Out := vecIntOp f false (fun _ a b _ => a + b) s
/-- VSUB (R160). -/
def execVsub (f : Fields) (s : State) : Out := vecIntOp f false (fun _ a b _ => a - b) s
/-- VMUL (R160). -/
def execVmul (f : Fields) (s : State) : Out := vecIntOp f false (fun _ a b _ => a * b) s
/-- VMULH (R160). -/
def execVmulh (f : Fields) (s : State) : Out := vecIntOp f false (fun w a b _ => a * b / (2 ^ w : Nat)) s
/-- VMAD (R160): DST is also read. -/
def execVmad (f : Fields) (s : State) : Out := vecIntOp f true (fun _ a b d => d + a * b) s
/-- VMIN (R160). -/
def execVmin (f : Fields) (s : State) : Out := vecIntOp f false (fun _ a b _ => if b < a then b else a) s
/-- VMAX (R160). -/
def execVmax (f : Fields) (s : State) : Out := vecIntOp f false (fun _ a b _ => if a < b then b else a) s

/-- An element-wise operation on patterns (R160). -/
def vecBitOp (f : Fields) (op : Nat → Nat → Nat → Nat) (s : State) : Out :=
  vecIssue f false (fun s =>
    let w := vecWidth f.mod
    .ok (s.putV f.dst (mergeVec (s.me.value f.dst) (maskOf s.me f.c.reg) w fun i => op w (vecA f s w i) (vecB f s w i)))) s

/-- VAND (R160). -/
def execVand (f : Fields) (s : State) : Out := vecBitOp f (fun _ a b => a &&& b) s
/-- VOR (R160). -/
def execVor (f : Fields) (s : State) : Out := vecBitOp f (fun _ a b => a ||| b) s
/-- VXOR (R160). -/
def execVxor (f : Fields) (s : State) : Out := vecBitOp f (fun _ a b => a ^^^ b) s
/-- VSHL (R160, R97). -/
def execVshl (f : Fields) (s : State) : Out := vecBitOp f (fun w a n => if w ≤ n then 0 else a <<< n % 2 ^ w) s
/-- VSHR (R160, R97). -/
def execVshr (f : Fields) (s : State) : Out := vecBitOp f (fun w a n => if w ≤ n then 0 else a >>> n) s
/-- VSAR (R160, R97). -/
def execVsar (f : Fields) (s : State) : Out :=
  vecBitOp f (fun w a n => wrap w (sgn w a / (2 ^ Nat.min n w : Nat))) s

/-- VABS (R160): a is read as signed. -/
def execVabs (f : Fields) (s : State) : Out :=
  vecIssue f false (fun s =>
    let w := vecWidth f.mod
    .ok (s.putV f.dst (mergeVec (s.me.value f.dst) (maskOf s.me f.c.reg) w fun i =>
      elemResult f.mod true w (sgn w (vecA f s w i)).natAbs))) s

/-- What a vector comparison delivers (R161): ones and zeros in a v destination, or bits of a p destination, each the
AND over the elements it governs; inactive ones are kept. -/
def deliverCompare (dst : Reg) (old : VWord) (mask w : Nat) (holds : Nat → Bool) : VWord :=
  match dst with
  | .p _ =>
    BitVec.ofNat 2048 (packLanes 1 ((List.range 64).map fun j =>
      if mask.testBit j then bit ((List.range (32 / w)).all fun e => holds (j * (32 / w) + e)) else lane old 1 j))
  | _ => mergeVec old mask w fun i => if holds i then 2 ^ w - 1 else 0

/-- VCMP (R161). -/
def execVcmp (f : Fields) (s : State) : Out :=
  vecIssue f false (fun s =>
    let w := vecWidth f.mod
    let sg := vecSigned f.mod
    .ok (s.putV f.dst (deliverCompare f.dst (s.me.value f.dst) (maskOf s.me f.c.reg) w fun i =>
      cmpHolds (vecX f.mod) (elemInt sg w (vecA f s w i)) (elemInt sg w (vecB f s w i))))) s

/-- VSEL (R161): no merge; DST is not read. -/
def execVsel (f : Fields) (s : State) : Out :=
  instr f (fun s =>
    let w := vecWidth f.mod
    let m := maskOf s.me f.c.reg
    .ok (s.putV f.dst (vecOf w ((List.range (2048 / w)).map fun i =>
      if activeElem m w i then vecA f s w i else vecB f s w i)))) s

/-- VBCAST (R162). -/
def execVbcast (f : Fields) (s : State) : Out :=
  instr f (fun s =>
    let w := vecWidth f.mod
    let x := if immForm f.mod then simm f.imm else s.sa f
    .ok (s.putV f.dst (vecOf w ((List.range (2048 / w)).map fun _ => x.toNat % 2 ^ w)))) s

/-- VEXT (R162). -/
def execVext (f : Fields) (s : State) : Out :=
  instr f (fun s =>
    let w := vecWidth f.mod
    let i := (second f s).toNat
    if 2048 / w ≤ i then .trap 0x1A 0 (second f s)
    else .ok (s.put f.dst (extend (vecSigned f.mod) w (vecA f s w i)))) s

/-- VINS (R162): DST is also read. -/
def execVins (f : Fields) (s : State) : Out :=
  vecIssue f true (fun s =>
    let w := vecWidth f.mod
    let i := (second f s).toNat
    if 2048 / w ≤ i then .trap 0x1A 0 (second f s)
    else .ok (s.putV f.dst (setLane (s.me.value f.dst) w i (s.sa f).toNat))) s

/-- VPERM (R162). -/
def execVperm (f : Fields) (s : State) : Out :=
  vecIssue f false (fun s =>
    let w := vecWidth f.mod
    .ok (s.putV f.dst (mergeVec (s.me.value f.dst) (maskOf s.me f.c.reg) w fun i =>
      let j := lane (s.me.value f.b.reg) w i
      if 2048 / w ≤ j then 0 else vecA f s w j))) s

/-- VSLIDE (R162). -/
def execVslide (f : Fields) (s : State) : Out :=
  vecIssue f false (fun s =>
    let w := vecWidth f.mod
    let n := (second f s).toInt
    .ok (s.putV f.dst (mergeVec (s.me.value f.dst) (maskOf s.me f.c.reg) w fun i =>
      if 0 ≤ (i : Int) + n ∧ (i : Int) + n < (2048 / w : Nat) then vecA f s w ((i : Int) + n).toNat else 0))) s

/-- The identity of a reduction (R163). -/
def redIdentity (x w : Nat) (sg : Bool) : Int :=
  match x with
  | 1 => intMax w sg
  | 2 => intMin w sg
  | 3 => (2 ^ w - 1 : Nat)
  | _ => 0

/-- One step of a reduction (R163). -/
def redStep (m : BitVec 8) (w : Nat) (sg : Bool) (acc x : Int) : Int :=
  let pa := wrap w acc
  let px := wrap w x
  match vecX m with
  | 0 => elemInt sg w (elemResult m sg w (acc + x))
  | 1 => if x < acc then x else acc
  | 2 => if acc < x then x else acc
  | 3 => elemInt sg w (pa &&& px)
  | 4 => elemInt sg w (pa ||| px)
  | _ => elemInt sg w (pa ^^^ px)

/-- VRED (R163): active elements in ascending order. -/
def execVred (f : Fields) (s : State) : Out :=
  instr f (fun s =>
    let w := vecWidth f.mod
    let sg := vecSigned f.mod
    let m := maskOf s.me f.c.reg
    let is := (List.range (2048 / w)).filter fun i => activeElem m w i
    let y := is.foldl (fun acc i => redStep f.mod w sg acc (elemInt sg w (vecA f s w i))) (redIdentity (vecX f.mod) w sg)
    .ok (s.put f.dst (extend sg w (wrap w y)))) s

/-- The running results of a scan from element `i` on (R163). -/
def scanFrom (m : BitVec 8) (mask w : Nat) (sg : Bool) (x old : VWord) : Nat → Nat → Int → List Nat
  | 0, _, _ => []
  | n + 1, i, acc =>
    if activeElem mask w i then
      let acc := redStep m w sg acc (elemInt sg w (lane x w i))
      wrap w acc :: scanFrom m mask w sg x old n (i + 1) acc
    else lane old w i :: scanFrom m mask w sg x old n (i + 1) acc

/-- VSCAN (R163). -/
def execVscan (f : Fields) (s : State) : Out :=
  vecIssue f false (fun s =>
    let w := vecWidth f.mod
    let sg := vecSigned f.mod
    .ok (s.putV f.dst (vecOf w (scanFrom f.mod (maskOf s.me f.c.reg) w sg (s.me.value f.a.reg) (s.me.value f.dst) (2048 / w) 0
      (redIdentity (vecX f.mod) w sg))))) s

/-- VPOPC (R162). -/
def execVpopc (f : Fields) (s : State) : Out :=
  instr f (fun s => .ok (s.put f.dst (w64 (popCount 64 ((s.sa f).toNat &&& maskOf s.me f.c.reg))))) s

/-- VFIRST (R162). -/
def execVfirst (f : Fields) (s : State) : Out :=
  instr f (fun s => .ok (s.put f.dst (w64 (trailingZeros 64 (s.sa f).toNat)))) s

/-- VIOTA (R162). -/
def execViota (f : Fields) (s : State) : Out :=
  instr f (fun s =>
    .ok (s.putV f.dst (vecOf 32 ((List.range 64).map fun i => popCount i (s.sa f).toNat)))) s

/-- PLOG (R162, R121). -/
def execPlog (f : Fields) (s : State) : Out :=
  instr f (fun s =>
    .ok (s.put f.dst (w64 (packLanes 1 ((List.range 64).map fun j =>
      bit (qlogBit f.imm.toNat ((s.sa f).getLsbD j) ((s.sb f).getLsbD j))))))) s

/-- VCOMPRESS (R162). -/
def execVcompress (f : Fields) (s : State) : Out :=
  instr f (fun s =>
    let m := maskOf s.me f.c.reg
    .ok (s.putV f.dst (vecOf 32 (((List.range 64).filter fun i => m.testBit i).map fun i => vecA f s 32 i)))) s

/-- Whether one value ranks above another in VTOPK (R164): NaN ranks lowest. -/
def rankAbove (fp : Bool) (sg : Bool) (w a b : Nat) : Bool :=
  if fp then
    let t : Fmt := if w = 32 then .fp32 else .fp16
    match t.decode a, t.decode b with
    | .nan, _ => false
    | _, .nan => true
    | x, y => x.compare y == some .gt
  else decide (elemInt sg w b < elemInt sg w a)

/-- An element put into a ranked list after those it does not rank above (R164). -/
def rankInsert (above : Nat → Nat → Bool) (e : Nat × Nat) : List (Nat × Nat) → List (Nat × Nat)
  | [] => [e]
  | d :: l => if above e.2 d.2 then e :: d :: l else d :: rankInsert above e l

/-- VTOPK (R164). -/
def execVtopk (f : Fields) (s : State) : Out :=
  instr f (fun s =>
    let w := vecWidth f.mod
    let k := (second f s).toNat
    if k = 0 || 64 < k then .trap 0x1A 0 (second f s)
    else
      let m := maskOf s.me f.c.reg
      let above := rankAbove (vecX f.mod == 1) (vecSigned f.mod) w
      let ranked := (List.range (2048 / w)).foldl (fun l i => if activeElem m w i then rankInsert above (i, vecA f s w i) l else l) []
      let top := (ranked.take k).map (·.1)
      .ok (s.putV f.dst (vecOf 32 (top ++ List.replicate (64 - top.length) 0xFFFFFFFF)))) s

end Sys2Proof.Machine
end

