-- ==== Sys2Proof/Machine/VectorFp.lean ====
section
/-! DEFINITION. Class 0x7: vector floating point, conversions, quantisation (R166 to R172). -/
namespace Sys2Proof.Machine

open Sys2Proof

/-- FT (R166). -/
def vecFmt (m : BitVec 8) : Fmt :=
  match fld m 4 3 with
  | 0 => .fp32
  | 1 => .fp16
  | _ => .bf16

/-- An element-wise operation of class 0x7 (R167): `op` gets the rounding with the element's number, and the elements
of SA, SB and the old DST. -/
def vecFpOp (f : Fields) (also : Bool) (op : Fmt → Round → Nat → Nat → Nat → Nat) (s : State) : Out :=
  vecIssue f also (fun s =>
    let t := vecFmt f.mod
    let w := t.width
    let old := s.me.value f.dst
    .ok (s.putV f.dst (mergeVec old (maskOf s.me f.c.reg) w fun i =>
      op t (roundOf f.mod s.me i) (vecA f s w i) (lane (s.me.value f.b.reg) w i) (lane old w i)))) s

/-- VFADD (R167). -/
def execVfadd (f : Fields) (s : State) : Out :=
  vecFpOp f false (fun t r a b _ => t.round r ((t.decode a).add r.isRdn (t.decode b))) s
/-- VFSUB (R167). -/
def execVfsub (f : Fields) (s : State) : Out :=
  vecFpOp f false (fun t r a b _ => t.round r ((t.decode a).add r.isRdn (t.decode b).neg)) s
/-- VFMUL (R167). -/
def execVfmul (f : Fields) (s : State) : Out :=
  vecFpOp f false (fun t r a b _ => t.round r ((t.decode a).mul (t.decode b))) s
/-- VFFMA (R167): DST is also read; one rounding. -/
def execVffma (f : Fields) (s : State) : Out :=
  vecFpOp f true (fun t r a b d => t.round r (((t.decode a).mul (t.decode b)).add r.isRdn (t.decode d))) s
/-- VFDIV (R167). -/
def execVfdiv (f : Fields) (s : State) : Out := vecFpOp f false (fun t r a b _ => t.div r (t.decode a) (t.decode b)) s
/-- VFSQRT (R167). -/
def execVfsqrt (f : Fields) (s : State) : Out := vecFpOp f false (fun t r a _ _ => t.sqrt r (t.decode a)) s
/-- VFMIN (R167, R109). -/
def execVfmin (f : Fields) (s : State) : Out := vecFpOp f false (fun t _ a b _ => t.minmax false a b) s
/-- VFMAX (R167, R109). -/
def execVfmax (f : Fields) (s : State) : Out := vecFpOp f false (fun t _ a b _ => t.minmax true a b) s
/-- VFEXP2 (R167). -/
def execVfexp2 (f : Fields) (s : State) : Out := vecFpOp f false (fun t r a _ _ => t.exp2 r (t.decode a)) s
/-- VFLOG2 (R167). -/
def execVflog2 (f : Fields) (s : State) : Out := vecFpOp f false (fun t r a _ _ => t.log2 r (t.decode a)) s
/-- VFRCP (R167). -/
def execVfrcp (f : Fields) (s : State) : Out :=
  vecFpOp f false (fun t r a _ _ => t.div r (.fin false 1 0) (t.decode a)) s
/-- VFRSQ (R167). -/
def execVfrsq (f : Fields) (s : State) : Out := vecFpOp f false (fun t r a _ _ => t.rsqrt r (t.decode a)) s
/-- VFCLASS (R167, R111). -/
def execVfclass (f : Fields) (s : State) : Out := vecFpOp f false (fun t _ a _ _ => 2 ^ t.classBit a) s

/-- VFCMP (R167, R110, R161). -/
def execVfcmp (f : Fields) (s : State) : Out :=
  vecIssue f false (fun s =>
    let t := vecFmt f.mod
    let w := t.width
    .ok (s.putV f.dst (deliverCompare f.dst (s.me.value f.dst) (maskOf s.me f.c.reg) w fun i =>
      fcmpHolds (vecX f.mod) ((t.decode (vecA f s w i)).compare (t.decode (lane (s.me.value f.b.reg) w i)))))) s

/-- The exponent of VSCALE for element `i` (R167), held where every format's rounding has reached its end. -/
def scaleExp (f : Fields) (s : State) (w i : Nat) : Int :=
  let e := match f.b.reg with
    | .v n => sgn w (lane (s.me.regs.v.get n) w i)
    | r => (s.me.get64 r).toInt
  clampInt (-10000) 10000 e

/-- A value times a power of two. -/
def Num.scale (k : Int) : Num → Num
  | .fin a m e => .fin a m (e + k)
  | x => x

/-- VSCALE (R167). -/
def execVscale (f : Fields) (s : State) : Out :=
  vecIssue f false (fun s =>
    let t := vecFmt f.mod
    let w := t.width
    .ok (s.putV f.dst (mergeVec (s.me.value f.dst) (maskOf s.me f.c.reg) w fun i =>
      t.round (roundOf f.mod s.me i) ((t.decode (vecA f s w i)).scale (scaleExp f s w i))))) s

/-- Two neighbours of the reduction tree combined (R168). -/
def fredCombine (m : BitVec 8) (t : Fmt) (r : Round) : Option Nat → Option Nat → Option Nat
  | none, y => y
  | x, none => x
  | some a, some b =>
    some (match vecX m with
      | 0 => t.round r ((t.decode a).add r.isRdn (t.decode b))
      | 1 => t.minmax false a b
      | _ => t.minmax true a b)

/-- One stage of the tree (R168): neighbours combined, `j` counting from 0. -/
def fredStage (m : BitVec 8) (t : Fmt) (rd : Nat → Round) (stage : Nat) : Nat → List (Option Nat) → List (Option Nat)
  | j, a :: b :: l => fredCombine m t (rd (128 * stage + j)) a b :: fredStage m t rd stage (j + 1) l
  | _, l => l

/-- The tree from a stage on (R168). -/
def fredTree (m : BitVec 8) (t : Fmt) (rd : Nat → Round) : Nat → Nat → List (Option Nat) → Option Nat
  | 0, _, l => l.headD none
  | n + 1, stage, l => fredTree m t rd n (stage + 1) (fredStage m t rd stage 0 l)

/-- A result of VFRED with one active element (R69): a NaN is canonical in it too. -/
def Fmt.quiet (t : Fmt) (x : Nat) : Nat := if t.decode x = .nan then t.nan else x

/-- VFRED (R168): a fixed tree over element positions. -/
def execVfred (f : Fields) (s : State) : Out :=
  instr f (fun s =>
    let t := vecFmt f.mod
    let w := t.width
    let m := maskOf s.me f.c.reg
    let xs := (List.range (2048 / w)).map fun i => if activeElem m w i then some (vecA f s w i) else none
    let depth := if w = 32 then 6 else 7
    let inf := (2 ^ t.eb - 1) * 2 ^ t.fb
    let y := (fredTree f.mod t (fun n => roundOf f.mod s.me n) depth 0 xs).getD (match vecX f.mod with
      | 0 => 0
      | 1 => inf
      | _ => inf + 2 ^ (w - 1))
    .ok (s.put f.dst (w64 (t.quiet y)))) s

/-- A conversion between widths (R170): the wider side is a whole register, the narrower side its part P. `g` gets the
element's number in the destination and its source bits. -/
def convertVec (ws wd part : Nat) (a old : VWord) (g : Nat → Nat → Nat) : VWord :=
  let n := 2048 / Nat.max ws wd
  let src (i : Nat) : Nat := if ws < wd then lane a ws (part * n + i) else lane a ws i
  if wd < ws then
    vecOf wd ((List.range (2048 / wd)).map fun j =>
      if part * n ≤ j ∧ j < part * n + n then g j (src (j - part * n)) else lane old wd j)
  else vecOf wd ((List.range n).map fun i => g i (src i))

/-- The frame of a conversion: DST is read when bytes of it are kept (R170). -/
def convertOp (f : Fields) (ws wd : Nat) (g : State → Nat → Nat → Nat) (s : State) : Out :=
  run (issue f.guard (sourcesOf f) (if wd < ws then [f.dst] else []) [f.dst] fun s =>
    .ok (s.putV f.dst (convertVec ws wd (fld f.imm 2 0) (s.me.value f.a.reg) (s.me.value f.dst) (g s)))) s

/-- X of VFCVT (R169). -/
def cvtFmt (x : Nat) : Fmt :=
  match x with
  | 0 => .fp16
  | 1 => .bf16
  | 2 | 4 => .e4m3
  | _ => .e5m2

/-- X of VFTOI and VITOF (R169). -/
def intFmt (x : Nat) : Fmt :=
  match x with
  | 0 => .i32
  | 1 => .i16
  | 2 => .i8
  | 3 => .u8
  | 4 => .i4
  | _ => .u4

/-- VFCVT (R169). -/
def execVfcvt (f : Fields) (s : State) : Out :=
  let t := vecFmt f.mod
  let d := cvtFmt (vecX f.mod)
  convertOp f t.width d.width (fun s n x =>
    t.convert d { roundOf f.mod s.me n with sat := decide (4 ≤ vecX f.mod) } x) s

/-- VFTOI (R169, R76). -/
def execVftoi (f : Fields) (s : State) : Out :=
  let t := vecFmt f.mod
  let d := intFmt (vecX f.mod)
  convertOp f t.width d.width (fun s n x =>
    wrap d.width ((t.decode x).toInt (roundOf f.mod s.me n) d.code d.width d.isSigned)) s

/-- VITOF (R169, R76). -/
def execVitof (f : Fields) (s : State) : Out :=
  let t := vecFmt f.mod
  let d := intFmt (vecX f.mod)
  convertOp f d.width t.width (fun s n x =>
    t.round (roundOf f.mod s.me n) (Num.ofInt (elemInt d.isSigned d.width x))) s

/-- X of VQUANT (R171). -/
def quantFmt (x : Nat) : Fmt :=
  match x with
  | 0 => .i8
  | 1 => .u8
  | 2 => .i4
  | _ => .u4

/-- X of VDEQ (R171). -/
def deqFmt (x : Nat) : Fmt :=
  match x with
  | 0 => .i8
  | 1 => .u8
  | 2 => .i4
  | 3 => .u4
  | 4 => .e4m3
  | 5 => .e5m2
  | 6 => .fp16
  | _ => .bf16

/-- The multiplier of VQUANT and VDEQ (R171): 1.0 for 0x00. -/
def multiplier (f : Fields) (s : State) : Num :=
  if f.b.reg = .s 0 then .fin false 1 0 else Fmt.fp32.decode (bits (s.sb f) 31 0)

/-- The zero point of VQUANT and VDEQ (R171). -/
def zeroPoint (f : Fields) (s : State) : Int := sgn 8 (bits (s.sc f) 7 0)

/-- An exact value rounded to an integer; NaN gives 0 and an infinity a limit of I32 (R171). -/
def toI32 (r : Round) (code : Nat) : Num → Int
  | .nan => 0
  | .inf a => if a then intMin 32 true else intMax 32 true
  | .fin a m e => roundInt r code a m e

/-- VQUANT (R171). -/
def execVquant (f : Fields) (s : State) : Out :=
  let t := vecFmt f.mod
  let d := quantFmt (vecX f.mod)
  convertOp f t.width d.width (fun s n x =>
    let q := toI32 (roundOf f.mod s.me n) d.code ((t.decode x).mul (multiplier f s))
    wrap d.width (clampInt (intMin d.width d.isSigned) (intMax d.width d.isSigned) (q + zeroPoint f s))) s

/-- VDEQ (R171). -/
def execVdeq (f : Fields) (s : State) : Out :=
  let t := vecFmt f.mod
  let d := deqFmt (vecX f.mod)
  convertOp f d.width t.width (fun s n x =>
    let v : Num := if d.isFp then d.decode x else Num.ofInt (elemInt d.isSigned d.width x - zeroPoint f s)
    t.round (roundOf f.mod s.me n) ((multiplier f s).mul v)) s

end Sys2Proof.Machine
end

