-- ==== Sys2Proof/Machine/Dispatch.lean ====
section
/-! DEFINITION. The one match over the constructors: each arm calls its instruction's meaning. -/
namespace Sys2Proof.Machine

open Sys2Proof

/-- The meaning of an instruction of the issuing task, or of an event of the device. -/
def exec (i : Instr) (s : State) : Host.Outcome State Fault Refusal :=
  match i with
  | .nop f => Sys2Proof.Machine.execNop f s
  | .add f => Sys2Proof.Machine.execAdd f s
  | .sub f => Sys2Proof.Machine.execSub f s
  | .mul f => Sys2Proof.Machine.execMul f s
  | .mulh f => Sys2Proof.Machine.execMulh f s
  | .div f => Sys2Proof.Machine.execDiv f s
  | .rem f => Sys2Proof.Machine.execRem f s
  | .and f => Sys2Proof.Machine.execAnd f s
  | .or f => Sys2Proof.Machine.execOr f s
  | .xor f => Sys2Proof.Machine.execXor f s
  | .andn f => Sys2Proof.Machine.execAndn f s
  | .shl f => Sys2Proof.Machine.execShl f s
  | .shr f => Sys2Proof.Machine.execShr f s
  | .sar f => Sys2Proof.Machine.execSar f s
  | .rot f => Sys2Proof.Machine.execRot f s
  | .min f => Sys2Proof.Machine.execMin f s
  | .max f => Sys2Proof.Machine.execMax f s
  | .abs f => Sys2Proof.Machine.execAbs f s
  | .clz f => Sys2Proof.Machine.execClz f s
  | .ctz f => Sys2Proof.Machine.execCtz f s
  | .popc f => Sys2Proof.Machine.execPopc f s
  | .brev f => Sys2Proof.Machine.execBrev f s
  | .bswap f => Sys2Proof.Machine.execBswap f s
  | .bfx f => Sys2Proof.Machine.execBfx f s
  | .bfi f => Sys2Proof.Machine.execBfi f s
  | .sel f => Sys2Proof.Machine.execSel f s
  | .movi f => Sys2Proof.Machine.execMovi f s
  | .mov f => Sys2Proof.Machine.execMov f s
  | .lea f => Sys2Proof.Machine.execLea f s
  | .cmp f => Sys2Proof.Machine.execCmp f s
  | .tst f => Sys2Proof.Machine.execTst f s
  | .mad f => Sys2Proof.Machine.execMad f s
  | .chk f => Sys2Proof.Machine.execChk f s
  | .fadd f => Sys2Proof.Machine.execFadd f s
  | .fsub f => Sys2Proof.Machine.execFsub f s
  | .fmul f => Sys2Proof.Machine.execFmul f s
  | .ffma f => Sys2Proof.Machine.execFfma f s
  | .fdiv f => Sys2Proof.Machine.execFdiv f s
  | .fsqrt f => Sys2Proof.Machine.execFsqrt f s
  | .fmin f => Sys2Proof.Machine.execFmin f s
  | .fmax f => Sys2Proof.Machine.execFmax f s
  | .fcmp f => Sys2Proof.Machine.execFcmp f s
  | .fclass f => Sys2Proof.Machine.execFclass f s
  | .fcvt f => Sys2Proof.Machine.execFcvt f s
  | .ftoi f => Sys2Proof.Machine.execFtoi f s
  | .itof f => Sys2Proof.Machine.execItof f s
  | .fsgn f => Sys2Proof.Machine.execFsgn f s
  | .br f => Sys2Proof.Machine.execBr f s
  | .jmp f => Sys2Proof.Machine.execJmp f s
  | .call f => Sys2Proof.Machine.execCall f s
  | .callr f => Sys2Proof.Machine.execCallr f s
  | .ret f => Sys2Proof.Machine.execRet f s
  | .loop f => Sys2Proof.Machine.execLoop f s
  | .qset f => Sys2Proof.Machine.execQset f s
  | .qlog f => Sys2Proof.Machine.execQlog f s
  | .ld f => Sys2Proof.Machine.execLd f s
  | .st f => Sys2Proof.Machine.execSt f s
  | .ldv f => Sys2Proof.Machine.execLdv f s
  | .stv f => Sys2Proof.Machine.execStv f s
  | .ldg f => Sys2Proof.Machine.execLdg f s
  | .stg f => Sys2Proof.Machine.execStg f s
  | .ldt f => Sys2Proof.Machine.execLdt f s
  | .pref f => Sys2Proof.Machine.execPref f s
  | .clean f => Sys2Proof.Machine.execClean f s
  | .inval f => Sys2Proof.Machine.execInval f s
  | .ldf f => Sys2Proof.Machine.execLdf f s
  | .ldff f => Sys2Proof.Machine.execLdff f s
  | .ste f => Sys2Proof.Machine.execSte f s
  | .stf f => Sys2Proof.Machine.execStf f s
  | .sete f => Sys2Proof.Machine.execSete f s
  | .probe f => Sys2Proof.Machine.execProbe f s
  | .aadd f => Sys2Proof.Machine.execAadd f s
  | .aand f => Sys2Proof.Machine.execAand f s
  | .aor f => Sys2Proof.Machine.execAor f s
  | .axor f => Sys2Proof.Machine.execAxor f s
  | .amin f => Sys2Proof.Machine.execAmin f s
  | .amax f => Sys2Proof.Machine.execAmax f s
  | .aswp f => Sys2Proof.Machine.execAswp f s
  | .acas f => Sys2Proof.Machine.execAcas f s
  | .aincw f => Sys2Proof.Machine.execAincw f s
  | .afaddb f => Sys2Proof.Machine.execAfaddb f s
  | .afadd f => Sys2Proof.Machine.execAfadd f s
  | .fence f => Sys2Proof.Machine.execFence f s
  | .phase f => Sys2Proof.Machine.execPhase f s
  | .rel f => Sys2Proof.Machine.execRel f s
  | .acq f => Sys2Proof.Machine.execAcq f s
  | .get f => Sys2Proof.Machine.execGet f s
  | .put f => Sys2Proof.Machine.execPut f s
  | .push f => Sys2Proof.Machine.execPush f s
  | .layout f => Sys2Proof.Machine.execLayout f s
  | .cfill f => Sys2Proof.Machine.execCfill f s
  | .cquery f => Sys2Proof.Machine.execCquery f s
  | .permit f => Sys2Proof.Machine.execPermit f s
  | .vadd f => Sys2Proof.Machine.execVadd f s
  | .vsub f => Sys2Proof.Machine.execVsub f s
  | .vmul f => Sys2Proof.Machine.execVmul f s
  | .vmulh f => Sys2Proof.Machine.execVmulh f s
  | .vmad f => Sys2Proof.Machine.execVmad f s
  | .vand f => Sys2Proof.Machine.execVand f s
  | .vor f => Sys2Proof.Machine.execVor f s
  | .vxor f => Sys2Proof.Machine.execVxor f s
  | .vshl f => Sys2Proof.Machine.execVshl f s
  | .vshr f => Sys2Proof.Machine.execVshr f s
  | .vsar f => Sys2Proof.Machine.execVsar f s
  | .vmin f => Sys2Proof.Machine.execVmin f s
  | .vmax f => Sys2Proof.Machine.execVmax f s
  | .vabs f => Sys2Proof.Machine.execVabs f s
  | .vcmp f => Sys2Proof.Machine.execVcmp f s
  | .vsel f => Sys2Proof.Machine.execVsel f s
  | .vbcast f => Sys2Proof.Machine.execVbcast f s
  | .vext f => Sys2Proof.Machine.execVext f s
  | .vins f => Sys2Proof.Machine.execVins f s
  | .vperm f => Sys2Proof.Machine.execVperm f s
  | .vslide f => Sys2Proof.Machine.execVslide f s
  | .vred f => Sys2Proof.Machine.execVred f s
  | .vscan f => Sys2Proof.Machine.execVscan f s
  | .vpopc f => Sys2Proof.Machine.execVpopc f s
  | .vfirst f => Sys2Proof.Machine.execVfirst f s
  | .viota f => Sys2Proof.Machine.execViota f s
  | .plog f => Sys2Proof.Machine.execPlog f s
  | .vcompress f => Sys2Proof.Machine.execVcompress f s
  | .vtopk f => Sys2Proof.Machine.execVtopk f s
  | .vfadd f => Sys2Proof.Machine.execVfadd f s
  | .vfsub f => Sys2Proof.Machine.execVfsub f s
  | .vfmul f => Sys2Proof.Machine.execVfmul f s
  | .vffma f => Sys2Proof.Machine.execVffma f s
  | .vfdiv f => Sys2Proof.Machine.execVfdiv f s
  | .vfsqrt f => Sys2Proof.Machine.execVfsqrt f s
  | .vfmin f => Sys2Proof.Machine.execVfmin f s
  | .vfmax f => Sys2Proof.Machine.execVfmax f s
  | .vfcmp f => Sys2Proof.Machine.execVfcmp f s
  | .vfexp2 f => Sys2Proof.Machine.execVfexp2 f s
  | .vflog2 f => Sys2Proof.Machine.execVflog2 f s
  | .vfrcp f => Sys2Proof.Machine.execVfrcp f s
  | .vfrsq f => Sys2Proof.Machine.execVfrsq f s
  | .vfred f => Sys2Proof.Machine.execVfred f s
  | .vfcvt f => Sys2Proof.Machine.execVfcvt f s
  | .vftoi f => Sys2Proof.Machine.execVftoi f s
  | .vitof f => Sys2Proof.Machine.execVitof f s
  | .vquant f => Sys2Proof.Machine.execVquant f s
  | .vdeq f => Sys2Proof.Machine.execVdeq f s
  | .vscale f => Sys2Proof.Machine.execVscale f s
  | .vfclass f => Sys2Proof.Machine.execVfclass f s
  | .mgang f => Sys2Proof.Machine.execMgang f s
  | .mldb f => Sys2Proof.Machine.execMldb f s
  | .mma f => Sys2Proof.Machine.execMma f s
  | .mzero f => Sys2Proof.Machine.execMzero f s
  | .mrdz f => Sys2Proof.Machine.execMrdz f s
  | .mwrz f => Sys2Proof.Machine.execMwrz f s
  | .mscale f => Sys2Proof.Machine.execMscale f s
  | .mrel f => Sys2Proof.Machine.execMrel f s
  | .tmv f => Sys2Proof.Machine.execTmv f s
  | .spawn f => Sys2Proof.Machine.execSpawn f s
  | .spawng f => Sys2Proof.Machine.execSpawng f s
  | .touch f => Sys2Proof.Machine.execTouch f s
  | .touchs f => Sys2Proof.Machine.execTouchs f s
  | .touchany f => Sys2Proof.Machine.execTouchany f s
  | .resolve f => Sys2Proof.Machine.execResolve f s
  | .poison f => Sys2Proof.Machine.execPoison f s
  | .cancel f => Sys2Proof.Machine.execCancel f s
  | .keep f => Sys2Proof.Machine.execKeep f s
  | .fdrop f => Sys2Proof.Machine.execFdrop f s
  | .fstat f => Sys2Proof.Machine.execFstat f s
  | .retire f => Sys2Proof.Machine.execRetire f s
  | .yield f => Sys2Proof.Machine.execYield f s
  | .fnew f => Sys2Proof.Machine.execFnew f s
  | .needle f => Sys2Proof.Machine.execNeedle f s
  | .send f => Sys2Proof.Machine.execSend f s
  | .sendv f => Sys2Proof.Machine.execSendv f s
  | .clr f => Sys2Proof.Machine.execClr f s
  | .msg f => Sys2Proof.Machine.execMsg f s
  | .mbind f => Sys2Proof.Machine.execMbind f s
  | .mpost f => Sys2Proof.Machine.execMpost f s
  | .mtake f => Sys2Proof.Machine.execMtake f s
  | .binit f => Sys2Proof.Machine.execBinit f s
  | .barr f => Sys2Proof.Machine.execBarr f s
  | .bwait f => Sys2Proof.Machine.execBwait f s
  | .barw f => Sys2Proof.Machine.execBarw f s
  | .blink f => Sys2Proof.Machine.execBlink f s
  | .getsr f => Sys2Proof.Machine.execGetsr f s
  | .setsr f => Sys2Proof.Machine.execSetsr f s
  | .trap f => Sys2Proof.Machine.execTrap f s
  | .eret f => Sys2Proof.Machine.execEret f s
  | .brk f => Sys2Proof.Machine.execBrk f s
  | .trace f => Sys2Proof.Machine.execTrace f s
  | .tstamp f => Sys2Proof.Machine.execTstamp f s
  | .lpatch f => Sys2Proof.Machine.execLpatch f s
  | .larm f => Sys2Proof.Machine.execLarm f s
  | .patset f => Sys2Proof.Machine.execPatset f s
  | .patget f => Sys2Proof.Machine.execPatget f s
  | .baste f => Sys2Proof.Machine.execBaste f s
  | .fixedLatencyResult task => Sys2Proof.Machine.execFixedLatencyResult task s
  | .valueLands k => Sys2Proof.Machine.execValueLands k s
  | .storeAcknowledged k => Sys2Proof.Machine.execStoreAcknowledged k s
  | .releaseComplete k => Sys2Proof.Machine.execReleaseComplete k s
  | .memoryAccess k => Sys2Proof.Machine.execMemoryAccess k s
  | .taggedRequest k => Sys2Proof.Machine.execTaggedRequest k s
  | .taggedResend k => Sys2Proof.Machine.execTaggedResend k s
  | .withdrawal k => Sys2Proof.Machine.execWithdrawal k s
  | .pageWalk k => Sys2Proof.Machine.execPageWalk k s
  | .firmwareMapPage k m => Sys2Proof.Machine.execFirmwareMapPage k m s
  | .firmwareReflectFault k => Sys2Proof.Machine.execFirmwareReflectFault k s
  | .translationInvalidate lease => Sys2Proof.Machine.execTranslationInvalidate lease s
  | .heldCommandRelease u k => Sys2Proof.Machine.execHeldCommandRelease u k s
  | .copyChannelTake pos chan => Sys2Proof.Machine.execCopyChannelTake pos chan s
  | .copyGranule pos chan => Sys2Proof.Machine.execCopyGranule pos chan s
  | .channelYield pos chan => Sys2Proof.Machine.execChannelYield pos chan s
  | .tileCopyStart pos => Sys2Proof.Machine.execTileCopyStart pos s
  | .matrixCommandStart core => Sys2Proof.Machine.execMatrixCommandStart core s
  | .gangForms pos mask => Sys2Proof.Machine.execGangForms pos mask s
  | .gangStepStart pos mask => Sys2Proof.Machine.execGangStepStart pos mask s
  | .matrixCommandDone core => Sys2Proof.Machine.execMatrixCommandDone core s
  | .accumulatorRelease core => Sys2Proof.Machine.execAccumulatorRelease core s
  | .thresherGranuleRead pos k row => Sys2Proof.Machine.execThresherGranuleRead pos k row s
  | .thresherRow pos k row => Sys2Proof.Machine.execThresherRow pos k row s
  | .resultBeat pos k stack => Sys2Proof.Machine.execResultBeat pos k stack s
  | .sendDelivery k => Sys2Proof.Machine.execSendDelivery k s
  | .sendStatus k => Sys2Proof.Machine.execSendStatus k s
  | .message k => Sys2Proof.Machine.execMessage k s
  | .messageStatus k => Sys2Proof.Machine.execMessageStatus k s
  | .handlerActivationStart core => Sys2Proof.Machine.execHandlerActivationStart core s
  | .postFlit k => Sys2Proof.Machine.execPostFlit k s
  | .postStatus k => Sys2Proof.Machine.execPostStatus k s
  | .grantFlit k => Sys2Proof.Machine.execGrantFlit k s
  | .grantStatus k => Sys2Proof.Machine.execGrantStatus k s
  | .permitReturn k => Sys2Proof.Machine.execPermitReturn k s
  | .spoolRequest k => Sys2Proof.Machine.execSpoolRequest k s
  | .spoolAnswer k => Sys2Proof.Machine.execSpoolAnswer k s
  | .refillRetry lease => Sys2Proof.Machine.execRefillRetry lease s
  | .wakeFlit k => Sys2Proof.Machine.execWakeFlit k s
  | .cancelDelivery k => Sys2Proof.Machine.execCancelDelivery k s
  | .dispatch pos => Sys2Proof.Machine.execDispatch pos s
  | .aging task => Sys2Proof.Machine.execAging task s
  | .gleanerInterval lease => Sys2Proof.Machine.execGleanerInterval lease s
  | .arrive k => Sys2Proof.Machine.execArrive k s
  | .flip k => Sys2Proof.Machine.execFlip k s
  | .nodeWait k => Sys2Proof.Machine.execNodeWait k s
  | .nodeAnswer k => Sys2Proof.Machine.execNodeAnswer k s
  | .wakeWrite lease queue p => Sys2Proof.Machine.execWakeWrite lease queue p s
  | .queueEnable lease queue x => Sys2Proof.Machine.execQueueEnable lease queue x s
  | .queueDisable lease queue x => Sys2Proof.Machine.execQueueDisable lease queue x s
  | .registerWrite lease off x => Sys2Proof.Machine.execRegisterWrite lease off x s
  | .queueEntryTake lease queue => Sys2Proof.Machine.execQueueEntryTake lease queue s
  | .launchStart k => Sys2Proof.Machine.execLaunchStart k s
  | .rootAllocationRetry k => Sys2Proof.Machine.execRootAllocationRetry k s
  | .recordLaunchStart lease => Sys2Proof.Machine.execRecordLaunchStart lease s
  | .launchCommit ver => Sys2Proof.Machine.execLaunchCommit ver s
  | .shadowGranuleCopy ver => Sys2Proof.Machine.execShadowGranuleCopy ver s
  | .launchAbort ver => Sys2Proof.Machine.execLaunchAbort ver s
  | .prepareMsg k => Sys2Proof.Machine.execPrepareMsg k s
  | .preparedMsg k => Sys2Proof.Machine.execPreparedMsg k s
  | .retractMsg k => Sys2Proof.Machine.execRetractMsg k s
  | .commitMsg k => Sys2Proof.Machine.execCommitMsg k s
  | .abortMsg k => Sys2Proof.Machine.execAbortMsg k s
  | .abortqMsg k => Sys2Proof.Machine.execAbortqMsg k s
  | .doneMsg k => Sys2Proof.Machine.execDoneMsg k s
  | .launchKill ver => Sys2Proof.Machine.execLaunchKill ver s
  | .gangStop vdev => Sys2Proof.Machine.execGangStop vdev s
  | .engineInterruption u => Sys2Proof.Machine.execEngineInterruption u s
  | .stopWatchdog vdev => Sys2Proof.Machine.execStopWatchdog vdev s
  | .marker ch => Sys2Proof.Machine.execMarker ch s
  | .contextImageWrite lease => Sys2Proof.Machine.execContextImageWrite lease s
  | .restore r => Sys2Proof.Machine.execRestore r s
  | .uncorrectableError e => Sys2Proof.Machine.execUncorrectableError e s
  | .rollback => Sys2Proof.Machine.execRollback s
  | .correctedError w => Sys2Proof.Machine.execCorrectedError w s
  | .scrub vdev pa => Sys2Proof.Machine.execScrub vdev pa s
  | .coreDump k ok => Sys2Proof.Machine.execCoreDump k ok s
  | .drainComplete lease slot => Sys2Proof.Machine.execDrainComplete lease slot s
  | .routeSlotWrite lease slot x => Sys2Proof.Machine.execRouteSlotWrite lease slot x s
  | .remapWindowWrite lease win x => Sys2Proof.Machine.execRemapWindowWrite lease win x s
  | .pinnedWindow lease w => Sys2Proof.Machine.execPinnedWindow lease w s
  | .chunkEnd task why => Sys2Proof.Machine.execChunkEnd task why s
  | .writeIndexUpdate lease => Sys2Proof.Machine.execWriteIndexUpdate lease s
  | .traceEnable lease x => Sys2Proof.Machine.execTraceEnable lease x s
  | .traceDisable lease x => Sys2Proof.Machine.execTraceDisable lease x s
  | .trpWrite lease r => Sys2Proof.Machine.execTrpWrite lease r s
  | .levelSample lease unit src => Sys2Proof.Machine.execLevelSample lease unit src s
  | .powerSample avgMilliWatt => Sys2Proof.Machine.execPowerSample avgMilliWatt s
  | .thermalClamp hot => Sys2Proof.Machine.execThermalClamp hot s
  | .overtempReset => Sys2Proof.Machine.execOvertempReset s
  | .linkCrcReplay link => Sys2Proof.Machine.execLinkCrcReplay link s
  | .planeTableWrite tbl => Sys2Proof.Machine.execPlaneTableWrite tbl s
  | .flitReceive f => Sys2Proof.Machine.execFlitReceive f s
  | .timeSync t => Sys2Proof.Machine.execTimeSync t s
  | .trunkControl f => Sys2Proof.Machine.execTrunkControl f s
  | .debugAttach lease => Sys2Proof.Machine.execDebugAttach lease s
  | .debugContinue lease => Sys2Proof.Machine.execDebugContinue lease s
  | .debugChunkStop seq => Sys2Proof.Machine.execDebugChunkStop seq s
  | .watchpointWrite lease ix x => Sys2Proof.Machine.execWatchpointWrite lease ix x s
  | .breakpointPlant lease pc code => Sys2Proof.Machine.execBreakpointPlant lease pc code s
  | .deviceReset imageOk => Sys2Proof.Machine.execDeviceReset imageOk s
  | .configurationBlob b => Sys2Proof.Machine.execConfigurationBlob b s
  | .attestationRequest nonce => Sys2Proof.Machine.execAttestationRequest nonce s
  | .leaseCreate r => Sys2Proof.Machine.execLeaseCreate r s
  | .teardown lease => Sys2Proof.Machine.execTeardown lease s
  | .functionLevelReset lease => Sys2Proof.Machine.execFunctionLevelReset lease s
  | .hostWrite vdev pa bytes => Sys2Proof.Machine.execHostWrite vdev pa bytes s
  | .dumpSlotFree lease slot => Sys2Proof.Machine.execDumpSlotFree lease slot s
  | .launchImageLoad lease img => Sys2Proof.Machine.execLaunchImageLoad lease img s
  | .unpinning lease win => Sys2Proof.Machine.execUnpinning lease win s
  | .endToEndAcknowledgement src dst vc seq => Sys2Proof.Machine.execEndToEndAcknowledgement src dst vc seq s
  | .debuggerWrite task spec x => Sys2Proof.Machine.execDebuggerWrite task spec x s

end Sys2Proof.Machine
end

