-- ==== Sys2Proof/Machine/Schedule.lean ====
section
/-! DEFINITION. Who moves next: what the issue of a task begins with (R35, R39, R51, R280, R283), which slots are
eligible (R32, R247), and the events that could take place when the agenda says nothing (assumption log 2). -/
namespace Sys2Proof.Machine

open Sys2Proof

/-- A task may issue (R32, R247): it is in a slot, its wait lets it try, its core is not stopped, and in recorded mode
the order lets it (R345). -/
def State.eligible (s : State) (id : Nat) : Bool :=
  let t := s.task id
  t.live && t.slot.isSome && (t.loom == .running || t.loom == .waiting) && !s.halted (t.core / 8) && s.chunkOpen id &&
    (match t.wait with
     | .no | .place | .reg _ | .arm | .trap .. => true
     | .answer _ | .walk _ | .fault => false)

/-- What the issue of a task begins with: an instruction to run, or a state in which none runs. -/
inductive Begin where
  | runs (i : Instr) (s : State)
  | stays (s : State)

/-- The start of an issue: a debug stop before a chunk (R428), then a deferred error or trap is taken first (R283, R280); then the slot at the PC is fetched,
checked and decoded (R39, R51). -/
def State.begin (s : State) (id : Nat) : Begin :=
  let s := { s with cur := id }
  let t := s.task id
  if !s.eligible id then .stays s
  else if s.stopsHere id then .stays ({ s with chunkStop := none }.debugStop id 0 0)
  else
    match t.deferred with
    | (r, a) :: rest =>
      .stays ((s.onTask id fun t => { t with deferred := rest }).takeTrap id 0x40 t.pc a (w64 (1 + r.spec.toNat * 256)))
    | [] =>
      match t.wait with
      | .trap c a i => .stays ((s.onTask id fun t => { t with wait := .no }).takeTrap id c t.pc a i)
      | _ =>
        match s.fetchAt t t.pc t.tgt.isSome with
        | .miss va => .stays (s.fetchMiss id va t.pc)
        | .trap c a i => .stays (s.takeTrap id c t.pc a (match t.tgt with | some ix => tgtInfo i ix | none => i))
        | .got w lw =>
          match decodeIn (fld lw 22 10 != 0) w with
          | .ok i => .runs i (s.onTask id fun t => { t with tgt := none })
          | .error e => .stays (s.takeTrap id (decodeTrap e).1 t.pc 0 (decodeTrap e).2)

/-- A task's priority at issue: a handler activation counts at 3 (R247). -/
def Task.issuePrio (t : Task) : Nat := if t.act.isSome then 3 else t.prio.toNat

/-- Of two slots, the first goes before the second: by priority, then by the time of the last issue (R32, R247). -/
def State.before (s : State) (a b : Nat) : Bool :=
  let x := s.task a
  let y := s.task b
  decide (y.issuePrio < x.issuePrio) || (x.issuePrio == y.issuePrio && decide (x.issued < y.issued))

/-- A slot that could issue while its core issued 32 others: a core of two issues a cycle issues every ready slot within 16
cycles (R32). -/
def State.overdue (s : State) (id : Nat) : Bool := decide (32 ≤ (s.task id).passed)

/-- The physical place and the translation that let the slot at a PC be fetched: a leaf for its 64 KiB page, X = 1. -/
def fetchLeaf (lease : Nat) (pc : Word) : Tlb :=
  ⟨lease, pc.toNat / 65536 * 65536, 65536, w64 (pc.toNat / 65536 % 2 ^ 38 * 65536 + 0x27)⟩

/-- A word written into the slot at a PC of device 0's memory at that same physical address, its line word's PAR made
right for the slot and its reserved bits zero (R33, R37). -/
def plantWord (m : Memory) (pc : Word) (w : IWord) : Memory :=
  let line := lineOf pc
  let i := slotOf pc
  let old := m.num (line + 60) 4
  let p := slotParity w
  let par := old &&& (2 ^ 32 - 1 - 3 * 2 ^ (2 * i)) &&& 0xFF8003FF
  (m.putNum pc.toNat 12 w.toNat).putNum (line + 60) 4 (par + (p.1 + 2 * p.2) * 2 ^ (2 * i))

/-- The task that `withFetchWord` has issue next: the present one where it can, else one made live in slot 0. -/
def State.fetcher (s : State) : Task :=
  let t := s.me
  let ok := legalPc t.pc && decide (t.pc.toNat < 2 ^ 54) && (s.remapOf t.lease t.pc.toNat).isNone
  { t with live := true, loom := .running, wait := .no, slot := some (t.slot.getD 0), deferred := [], spoiled := [], tgt := none,
           passed := 32, pc := if ok then t.pc else 0 }

/-- The state in which the very next step fetches the word at the issuing task's PC (assumption log 10). -/
def State.placeWord (s : State) (w : IWord) : State :=
  let t := s.fetcher
  let s := s.setTask s.cur t
  let s := s.onCore t.core fun c => { c with stopped := false, tlb := fetchLeaf t.lease t.pc :: c.tlb }
  let strip (l : Launch) : Launch :=
    { l with
      shadow := l.shadow.filter fun e => !(e.granule == granuleOf t.pc.toNat && e.subv == 0)
      toCopy := l.toCopy.filter fun e => e.granule != granuleOf t.pc.toNat }
  { s with
    agenda := .issue s.cur :: s.agenda
    stop := .no
    tasks := s.tasks.map fun (e : Nat × Task) => (e.1, { e.2 with due := none, ended := [] })
    replayLog := []
    images := []
    mem := plantWord s.mem t.pc w
    launches := s.launches.map fun e => (e.1, strip e.2)
    marked := s.marked.filter fun k => k != lineOf t.pc / 64 }

end Sys2Proof.Machine
end

