-- ==== Sys2Proof/Machine/Turns.lean ====
section
/-! DEFINITION. What a step does: the turns that the agenda names, and the model's own choice when it names none
(assumption log 2). -/
namespace Sys2Proof.Machine

open Sys2Proof

/-- What an outcome leaves in recorded mode (R345). -/
def recordOutcome (before : State) (id : Nat) (i : Instr) :
    Host.Outcome State Fault Refusal → Host.Outcome State Fault Refusal
  | .next s => .next (before.afterIssue s id (some i))
  | x => x

/-- The issue of a task by itself. -/
def State.issueAlone (s : State) (id : Nat) : Host.Outcome State Fault Refusal :=
  match s.begin id with
  | .runs i s' => recordOutcome s' id i (exec i s')
  | .stays s' => .next (s.afterIssue s' id none)

/-- The task only waits: it has not issued (R16). -/
def Wait.retries : Wait → Bool
  | .place | .reg _ | .arm | .walk _ | .fault => true
  | .no | .answer _ | .trap .. => false

/-- A slot's next issue is more than a wait: all that it needs is there (R32, R247). -/
def State.issues (s : State) (id : Nat) : Bool :=
  s.eligible id && (match s.issueAlone id with
    | .next t => !(t.task id).wait.retries || !(t.task id).live
    | _ => true)

/-- The slots that can issue now. -/
def State.issuable (s : State) : List Nat := (s.tasks.filter fun e => s.issues e.1).map (·.1)

/-- The slots that can issue now on a core. -/
def State.issuableOn (s : State) (k : Nat) : List Nat := s.issuable.filter fun a => (s.task a).core == k

/-- What the order of issue keeps of an issue (R32, R247): the slot issued last, the slots of its core that could have issued
and did not are passed over once more, and the instruction after it may be of the same cycle (R56). A wait is no issue. -/
def State.noteIssue (before after : State) (id : Nat) : State :=
  if (after.task id).wait.retries && (after.task id).live then after
  else
    let k := (before.task id).core
    let others := before.issuableOn k
    let mine (t : Task) : Task := { t with issued := after.seq, passed := 0 }
    let note (e : Nat × Task) : Nat × Task :=
      if e.1 == id then (e.1, mine e.2)
      else if e.2.core != k || e.2.slot.isNone then e
      else (e.1, { e.2 with passed := if others.contains e.1 then e.2.passed + 1 else 0 })
    let second := (before.core k).pair == some id
    let pairs := !second && { before with cur := id }.pairsAt id && (after.task id).pc == nextPc (before.task id).pc
    State.onCore { after with tasks := after.tasks.map note, seq := after.seq + 1 } k fun c =>
      { c with pair := if pairs then some id else none }

/-- One issue of a task and its place in the order of issue. -/
def State.issueTurn (s : State) (id : Nat) : Host.Outcome State Fault Refusal :=
  match s.issueAlone id with
  | .next t => .next (s.noteIssue t id)
  | x => x

/-- Where a debugger has asked to stop before a task's chunk (R428), the stop comes once nothing else of the job can move: each chunk
before that number has performed, and every other task stands where its own chunk waits for its number. -/
def State.stopTurn (s : State) (id : Nat) : Bool :=
  !s.stopsHere id || ((s.issuable.all fun a => a == id) && (firstEvent s s.candidates).isNone)

/-- A slot may be one of the two that its core issues (R32): fewer than two that can issue go before it, it is overdue, or its
instruction is the second of a pair. -/
def State.mayIssue (s : State) (id : Nat) : Bool :=
  s.stopTurn id && (s.overdue id || (s.core (s.task id).core).pair == some id || decide (((s.issuableOn (s.task id).core).filter fun a => s.before a id).length < 2))

/-- A COHERENT line leaves a core's L1 because its directory entry is evicted (R296). -/
def State.unlistLine (s : State) (k : Nat) (host : Bool) (ln : Nat) : State :=
  match (s.core k).line host ln with
  | some e => if e.attr == 3 then s.invalLine k host ln else s
  | none => s

/-- One turn. The issue of a slot that its core's choice passes over leaves everything as it is (R32). -/
def turn (s : State) : Turn → Host.Outcome State Fault Refusal
  | .event i => exec i s
  | .hostFill a bytes => .next { s with host := s.host.write a bytes }
  | .issue id => if s.mayIssue id then s.issueTurn id else .next s
  | .tick ns => .next { s with now := s.now + w64 ns }
  | .evict core line => .next ((s.invalLine core false line).invalLine core true line)
  | .dropTlb core => .next (s.onCore core fun c => { c with tlb := c.tlb.drop 1 })
  | .unlist host line => .next (s.cores.foldl (fun (s : State) e => s.unlistLine e.1 host line) s)
  | .idle => .next s

/-- The first of some tasks by an order. -/
def bestBy (f : Nat → Nat → Bool) : List Nat → Option Nat
  | [] => none
  | a :: l => match bestBy f l with
    | none => some a
    | some b => if f a b then some a else some b

/-- The task that the model's own scheduler issues: of the slots that are overdue or the first choice of their core
(R32, R247), the one that issued least recently. -/
def State.pick (s : State) : Option Nat :=
  let l := s.issuable.filter s.stopTurn
  let first (a : Nat) : Bool := !l.any fun b => (s.task b).core == (s.task a).core && s.before b a
  bestBy (fun a b => decide ((s.task a).issued ≤ (s.task b).issued)) (l.filter fun a => s.overdue a || first a)

/-- The best eligible slot issues; with none, nothing happens. -/
def State.issueBest (s : State) : Host.Outcome State Fault Refusal :=
  match s.pick with
  | some id => s.issueTurn id
  | none => .next s

/-- The step that the model takes by itself: events and slots have their turns by the alternation bit, and where it is
the events' turn and none can take place, the best slot issues. -/
def State.ownStep (s : State) : Host.Outcome State Fault Refusal :=
  let s' := { s with eventsTurn := !s.eventsTurn }
  if s.eventsTurn then
    match firstEvent s' s'.candidates with
    | some t => .next t
    | none => s'.issueBest
  else s'.issueBest

end Sys2Proof.Machine
end

