-- ==== Sys2Proof/Machine/Step.lean ====
section
/-! DEFINITION. One step: the turn that the agenda names, or the model's own choice when it names none. -/
namespace Sys2Proof.Machine

open Sys2Proof

/-- One step of the machine (R32; assumption log 2): the first turn of the agenda, or with an empty agenda the model's own
choice. -/
def step (s : State) : Host.Outcome State Fault Refusal :=
  match s.agenda with
  | t :: rest => turn { s with agenda := rest } t
  | [] => s.ownStep

/-- The state with an instruction stored where the next step fetches it (assumption log 10). -/
def State.withFetchWord (s : State) (_nbits w : Nat) : State := s.placeWord (BitVec.ofNat 96 w)

end Sys2Proof.Machine
end

