-- ==== Sys2Proof/Machine/HostView.lean ====
section
/-! DEFINITION. What the host reads: the registers of BAR0 (R5, R395 to R398, R420), the capability list (R1, R413), and what the
management function reports (R294, R429). -/
namespace Sys2Proof.Machine

open Sys2Proof

/-- What a capability entry of an id is about (R413): the numbers that the spec names for it. -/
def State.capabilityFacts (s : State) : Nat → List Nat
  | 2 => [16, 4, 16]
  | 3 => s.fabric.links.toNat :: s.fabric.domain.length :: s.fabric.dead.length :: s.fabric.dead ++ s.fabric.plane
  | 4 => [32, 64, 60000, 8, 8, 16, 8, 30, 256]
  | 8 => [s.device.powerLimit]
  | _ => []

/-- The words of a capability entry after its header: for the identification, part string and stepping as in the report
(R412, R413). -/
def State.capabilityBody (s : State) (id : Nat) : List Word :=
  if id = 1 then [w64 (leNat (padText "GN2-0824")), w64 (leNat (padText "B1"))]
  else (List.range (Config.capabilityLength id).toNat).map fun i => Config.capabilityWord id i (s.capabilityFacts id)

/-- The header of a capability entry (R413): id, version, length in words with the header, offset of the next entry. -/
def capabilityHeader (id words next : Nat) : Word :=
  w64 (id + (if id = 1 then 1 else (Config.capabilityVersion id).toNat) * 2 ^ 16 + words * 2 ^ 24 + next * 2 ^ 32)

/-- The entries of some ids from an offset on, one after another; the last has a next offset of 0. -/
def State.capabilitiesFrom (s : State) : List Nat → Nat → List Word
  | [], _ => []
  | id :: rest, off =>
    let body := s.capabilityBody id
    let next := if rest.isEmpty then 0 else off + 8 * (body.length + 1)
    capabilityHeader id (body.length + 1) next :: body ++ State.capabilitiesFrom s rest next

/-- The capability list of stepping B1 (R413): ids 0x0001 to 0x0008, from offset 0. -/
def State.capabilityList (s : State) : List Word := s.capabilitiesFrom [1, 2, 3, 4, 5, 6, 7, 8] 0

/-- A register of a queue's block as the host reads it (R396 to R398): PIDX is write-only and reads zero (R5). -/
def HostQueue.read (x : HostQueue) : Nat → Word
  | 0x00 => x.ring
  | 0x08 => x.qctl
  | 0x10 => x.cidxa
  | 0x18 => x.wakea
  | 0x20 => x.compl
  | 0x30 => w64 (x.cidx.toNat + x.done.toNat % 2 ^ 31 * 2 ^ 32 + bit x.err * 2 ^ 63)
  | _ => 0

/-- A register of a trace ring's block as the host reads it (R420). -/
def TraceRing.read (x : TraceRing) : Nat → Word
  | 0x00 => x.tring
  | 0x08 => x.tctl
  | 0x10 => x.twpa
  | 0x18 => x.trp.setWidth 64
  | 0x20 => x.tdrop
  | _ => 0

/-- An 8-byte read of BAR0 of a lease's virtual function (R395, R413, R420): what is reserved reads zero (R5), and so does everything
where Polroth's image has failed its check (R410). -/
def State.bar0Read (s : State) (lease off : Nat) : Word :=
  let l := s.lease lease
  if s.device.bootFailed then 0
  else if off < 0x1000 then s.capabilityList.getD (off / 8) 0
  else match hostReg off with
    | .queue q o => if q < 16 then (l.queues.toList.getD q HostQueue.reset).read o else 0
    | .trace o => l.trace.read o
    | .msix i => l.msixTable.toList.getD i 0
    | .none => 0

/-- The same through a virtual function of a device (R393): zero where it serves no lease. -/
def State.vfRead (s : State) (device vf off : Nat) : Word :=
  match s.leaseOfVf device vf with
  | some lease => s.bar0Read lease off
  | none => 0

/-- An 8-byte read of BAR2 of a lease's virtual function (R395): the aperture onto its queue area. The host writes there as HOST_WRITE
says. -/
def State.bar2Read (s : State) (lease off : Nat) : Word :=
  let l := s.lease lease
  if s.device.bootFailed || !l.inQueueArea (l.queueArea + off) 8 then 0
  else w64 (s.mem.num (memKey (s.leaseDev lease) (l.queueArea + off)) 8)

/-- What an 8-byte read of BAR0 of the physical function gives (R395, R410): its status, and the capability list once it runs. The spec
does not place the management registers and the mailbox there. -/
def State.pfRead (s : State) (off : Nat) : PfStatus × Word :=
  (s.device.pfStatus, if s.device.pfStatus == .running then s.capabilityList.getD (off / 8) 0 else 0)

/-- A read of a slice's occupancy counter of a lease through the management function (R294). -/
def State.occupancyRead (s : State) (lease die slice : Nat) : Nat := s.sliceCount lease die slice

/-- The home die of a lease's page as firmware reports it to the host (R429): none for a page that is not mapped. -/
def State.pageHome (s : State) (lease va : Nat) : Option Nat :=
  match s.walk lease va with
  | .leaf e base _ =>
    let host := pteHost e
    let a := if host then ptePa e + (va - base) else memKey (pteVdev e) (ptePa e) + (va - base)
    some (homeDie (s.leaseDie lease / 8) host a)
  | .stop .. => none

/-- Where a granule of a pinned window has its fixed place (R295): its slice and way, granules assigned to slices and ways in
ascending order, 256 to a way of a slice. -/
def PinnedWindow.place (w : PinnedWindow) (granule : Nat) : Option (Nat × Nat) :=
  let ways := maskList 16 w.ways.toNat
  let places := ((List.range 64).filter fun sl => w.slices.contains sl).flatMap fun sl => ways.map fun y => (sl, y)
  places[granule / 256]?

end Sys2Proof.Machine
end

