-- ==== Sys2Proof/Safety.lean ====
section
/-! DEFINITION. What counts as a safe run, and the terms in which claims speak of one instruction: when its operands let
it issue, and what it leaves of the rest of the machine. -/
namespace Sys2Proof.Machine

open Sys2Proof

/-- Device memory, host memory and the scratchpads are in canonical form (R4). -/
def State.memWf (s : State) : Bool := s.mem.wf && s.host.wf && s.spad.wf

/-- The state is safe. -/
def State.Safe (s : State) : Prop := s.memWf = true

/-- A run of `n` steps that never stops. -/
def runs : Nat → State → Prop
  | 0, s => s.Safe
  | n + 1, s => s.Safe ∧ ∃ t, step s = .next t ∧ runs n t

/-- The invariant of every step: the memories, and the scratchpad and device memory of a basting point that a rollback
would put back (R348), are in canonical form. -/
def State.Inv (s : State) : Prop :=
  s.memWf = true ∧ ∀ b, s.basted = some b → b.spad.wf = true ∧ b.saved.wf = true

/-- The registers that an issue reads: its guard where it has one, its source fields, and others. -/
def readRegs (g : Guard) (srcs : List (Nat × Src)) (more : List Reg) : List Reg :=
  (if g.en then [Reg.q g.q] else []) ++ srcs.map (fun (e : Nat × Src) => e.2.reg) ++ more

/-- The state in which an instruction does its own work: where a first read is an acquire point, it has taken place
(R298). -/
def State.working (s : State) (g : Guard) (srcs : List (Nat × Src)) (more : List Reg) : State :=
  s.touch (readRegs g srcs more)

/-- An instruction can issue and execute (R16, R17, R48, R242, R283): a live task stands at the issue port, in its slot and
not in its frame record, its guard lets it execute, everything it reads is full and unspoilt, no result of a fixed latency is
on its way there, and no earlier producer owes what it writes. -/
abbrev Ready (g : Guard) (srcs : List (Nat × Src)) (more outs : List Reg) (s : State) : Prop :=
  s.me.live = true ∧ guardTest g s.me = some true ∧
  (∀ x ∈ srcs, s.me.full x.2.reg = true) ∧ (∀ r ∈ more, s.me.full r = true) ∧
  s.me.landing (srcs.map fun (e : Nat × Src) => e.2.reg) = false ∧ s.me.landing more = false ∧
  (∀ r ∈ outs, s.pendingOn s.cur r = false) ∧ (∀ r ∈ s.me.spoiled, r ∉ readRegs g srcs more) ∧ s.me.inRecord = false

/-- `Ready` for an instruction that reads its three source fields and writes DST. -/
abbrev ReadyF (f : Fields) (s : State) : Prop := Ready f.guard (sourcesOf f) [] [f.dst] s

/-- `State.working` for an instruction that reads its three source fields. -/
def State.workingF (s : State) (f : Fields) : State := s.working f.guard (sourcesOf f) []

/-- Every task but the issuing one is as before. -/
def SameTasks (s t : State) : Prop := ∀ id, id ≠ s.cur → t.task id = s.task id

/-- The issuing task has gone on to its next instruction (R35): of its other control state nothing has changed, so none of
its trap, launch, grid and floating-point registers. -/
def GoesOn (s t : State) (pc : Word) : Prop :=
  t.me = { s.me with
    regs := t.me.regs, pc := pc, wait := .no, loom := .running, wpx := false, wdr := false, tgt := t.me.tgt
    chunk := s.me.chunk + 1, touched := t.me.touched, acquired := t.me.acquired, spoiled := t.me.spoiled }

/-- Every L1 line of a core with unpublished bytes is still there, with all of them: of its other bytes it may know fewer. No
line is new, and a line that is still there is as before but for bytes that it no longer knows. -/
def KeepsDirty (s t : State) (k : Nat) : Prop :=
  (∀ e ∈ (s.core k).l1, e.dirty ≠ 0 →
    ∃ e' ∈ (t.core k).l1, e' = { e with valid := e'.valid } ∧ e.dirty &&& e.valid &&& ~~~e'.valid = 0) ∧
  ∀ e' ∈ (t.core k).l1, ∃ e ∈ (s.core k).l1, e' = { e with valid := e'.valid } ∧ e'.valid &&& ~~~e.valid = 0

/-- Of every core only clean bytes of its L1 and its remap rows may have gone: accumulators, buffers, gang, queues,
inbox, mailboxes, handlers, and every unpublished byte are as before. -/
def SameCores (s t : State) : Prop :=
  ∀ k, t.core k = { s.core k with l1 := (t.core k).l1, rows := (t.core k).rows } ∧ KeepsDirty s t k

/-- The frame of an instruction that writes registers alone: memory, scratchpads, tags, special registers, accumulators,
every other task and everything in flight are as before; its own registers are stated beside it. -/
def RegistersOnly (s t : State) : Prop :=
  t = { s with tasks := t.tasks, cores := t.cores } ∧ SameTasks s t ∧ SameCores s t ∧ GoesOn s t (nextPc s.me.pc)

/-- A queued engine command once the issuing task has written some registers (R49, R50): where it is held on a guard of these and
has not learned its value, it learns from the guard's bit whether it executes; else it is as before. -/
def Learned (t : State) (rs : List Reg) (c : Command) : Command :=
  match c.held, c.heldValue with
  | some (neg, q), none =>
    if c.task == t.cur && rs.contains (.q q) then { c with heldValue := some (t.me.regs.q.getLsbD q.val != neg) } else c
  | _, _ => c

/-- The same for an instruction that may write guards, of the registers `rs`: every queued engine command, of the cores, the copy
units and the Thresher ports, stays in its place, and one that is held on that guard learns its value (R50). -/
def GuardsOnly (s t : State) (rs : List Reg) : Prop :=
  t = { s with tasks := t.tasks, cores := t.cores, clusters := t.clusters } ∧ SameTasks s t ∧
  GoesOn s t (nextPc s.me.pc) ∧
  (∀ k, t.core k = { s.core k with
      l1 := (t.core k).l1, rows := (t.core k).rows, queue := (s.core k).queue.map (Learned t rs) } ∧ KeepsDirty s t k) ∧
  ∀ p, t.cluster p = { s.cluster p with
    jobs := (s.cluster p).jobs.map (Learned t rs), thresher := (s.cluster p).thresher.map (Learned t rs) }

/-- The issuing task's registers are as before but for one, which is written and full (R15); s0 discards (R12). -/
def Wrote (s t : State) (r : Reg) (x : VWord) : Prop := t.me.regs = (s.me.regs.setValue r x).setFull r true

/-- The same for a 64-bit result. -/
def WroteW (s t : State) (r : Reg) (x : Word) : Prop := Wrote s t r (x.setWidth 2048)

/-- A guard is written. -/
def WroteQ (s t : State) (r : Reg) (b : Bool) : Prop := Wrote s t r (if b then 1 else 0)

/-- The issuing task's registers are as before but for one, which is empty with its value kept (R15). -/
def Emptied (s t : State) (r : Reg) : Prop := t.me.regs = s.me.regs.setFull r false

/-- A transfer to a checked target has succeeded (R39): the task goes on at the target. -/
def GoesTo (s t : State) (target : Word) : Prop :=
  t = { s with tasks := t.tasks, cores := t.cores } ∧ SameTasks s t ∧ SameCores s t ∧ GoesOn s t target

/-- Every byte of device memory, host memory and scratchpad, every F and K bit and every launch's shadow is as before,
and so is every dirty byte of every L1 (R291, R313). -/
def SameMemory (s t : State) : Prop :=
  (∀ ver sub host a, t.homeByte ver sub host a = s.homeByte ver sub host a) ∧
  (∀ a, t.spad.get a = s.spad.get a) ∧ (∀ a, t.tagF a = s.tagF a ∧ t.tagK a = s.tagK a) ∧
  ∀ k, KeepsDirty s t k

/-- One thing has been sent, last in the order of sending (R367): a body from the issuing task. -/
def Sent (s t : State) (b : Body') : Prop :=
  ∃ fl, t.flight = s.flight ++ [fl] ∧ fl.id = s.seq ∧ fl.task = s.cur ∧ fl.body = b

/-- The issuing task waits for the answer to what it sends now, and its PC stays (R135, R189). -/
def Awaits (s t : State) : Prop :=
  t.me = { s.me with wait := .answer s.seq, loom := .waiting, touched := t.me.touched, acquired := t.me.acquired }

/-- The task waits where it stands (R16, R248): the PC and every register are as before. -/
def Waits (s t : State) (w : Wait) : Prop :=
  t = { s with tasks := t.tasks, cores := t.cores } ∧ SameTasks s t ∧ SameCores s t ∧
  t.me = { s.me with wait := w, loom := .waiting, touched := t.me.touched, acquired := t.me.acquired }

/-- An acquire point now (R298): what the task does later follows its earlier accesses (R300), and so does what lies between an
earlier acquire point and this one where an access from before that point is still on its way. -/
def Acquired (s t : State) : Prop :=
  s.seq ∈ t.me.acquired ∧ ∀ a ∈ s.me.acquired, (∃ g ∈ s.flight, g.task = s.cur ∧ g.id < a) → a ∈ t.me.acquired

/-- Bin `j` of a monitor's histogram (R423). -/
def histBin (m : Monitor) (j : Nat) : Nat := lane (m.hist.toList.getD (j / 4) 0) 16 (j % 4)

/-- One sample of a source on a unit, and nothing else (R423, R425): of the lease's monitors, those that are enabled for it and whose
SCOPE passes the unit have their least and greatest sample, their count and one bin updated, each saturating; the others, and those of
every other lease, are as before. -/
def Sampled (s t : State) (lease src : Nat) (unit : Option Nat) (x : Word) : Prop :=
  (∃ ms, t = s.onLease lease fun l => { l with monitors := ms }) ∧
  ∀ (i : Nat) (m n : Monitor), (s.lease lease).monitors.toList[i]? = some m → (t.lease lease).monitors.toList[i]? = some n →
    (m.passes src unit = false → n = m) ∧
    (m.passes src unit = true →
      n.cfg = m.cfg ∧ n.min.toNat = Nat.min m.min.toNat x.toNat ∧ n.max.toNat = Nat.max m.max.toNat x.toNat ∧
      n.cnt.toNat = Nat.min (m.cnt.toNat + 1) (2 ^ 64 - 1) ∧
      ∀ j k, j < 16 →
        k = (if x.toNat < bits m.cfg 55 32 then 0 else Nat.min 15 ((x.toNat - bits m.cfg 55 32) / 2 ^ bits m.cfg 28 24)) →
        histBin n j = if j = k then Nat.min (histBin m j + 1) 65535 else histBin m j)

/-- A byte at its home is as before, or is an unpublished byte that a core's L1 held and has written back (R291). -/
def HomeFollows (s t : State) (k : Nat) : Prop :=
  ∀ ver sub host a, t.homeByte ver sub host a = s.homeByte ver sub host a ∨
    ∃ e ∈ (s.core k).l1, e.host = host ∧ e.line = a / 64 ∧ e.dirty.getLsbD (a % 64) = true ∧
      t.homeByte ver sub host a = byteAt e.data (a % 64)

/-- The frame of what only moves lines between a core's L1, the slices and their homes: no task, register, scratchpad byte,
tag, accumulator or queue changes, and nothing in flight. -/
def LinesMoved (s t : State) (k : Nat) : Prop :=
  t = { s with tasks := t.tasks, cores := t.cores, clusters := t.clusters, walkCache := t.walkCache, ways := t.ways
               launches := t.launches, mem := t.mem, host := t.host, marked := t.marked, seq := t.seq, fresh := t.fresh } ∧
  HomeFollows s t k ∧
  (∀ j, t.core j = { s.core j with l1 := (t.core j).l1, tlb := (t.core j).tlb, rows := (t.core j).rows }) ∧
  (∀ p, t.cluster p = { s.cluster p with tlb := (t.cluster p).tlb })

/-- Op of R95 for the width operations that cannot trap, on the interpreted operands and their patterns. -/
def widthRule : List ((Fields → Instr) × (IntArgs → Int)) :=
  [(.add, fun x => x.a + x.b),
   (.sub, fun x => x.a - x.b),
   (.mul, fun x => x.a * x.b),
   (.mulh, fun x => x.a * x.b / 2 ^ x.w),
   (.mad, fun x => x.a * x.b + x.c),
   (.and, fun x => ((x.pa &&& x.pb : Nat) : Int)),
   (.or, fun x => ((x.pa ||| x.pb : Nat) : Int)),
   (.xor, fun x => ((x.pa ^^^ x.pb : Nat) : Int)),
   (.andn, fun x => ((x.pa &&& (2 ^ x.w - 1 - x.pb) : Nat) : Int)),
   (.shl, fun x => if x.w ≤ x.full.toNat then 0 else ((x.pa * 2 ^ x.full.toNat : Nat) : Int)),
   (.shr, fun x => if x.w ≤ x.full.toNat then 0 else ((x.pa / 2 ^ x.full.toNat : Nat) : Int)),
   (.sar, fun x => sgn x.w x.pa / 2 ^ (min x.full.toNat x.w)),
   (.rot, fun x => ((x.pa * 2 ^ (x.full.toNat % x.w) % 2 ^ x.w + x.pa / 2 ^ (x.w - x.full.toNat % x.w) : Nat) : Int)),
   (.min, fun x => min x.a x.b),
   (.max, fun x => max x.a x.b),
   (.abs, fun x => ((sgn x.w x.pa).natAbs : Int)),
   (.clz, fun x => (leadingZeros x.w x.pa : Int)),
   (.ctz, fun x => (trailingZeros x.w x.pa : Int)),
   (.popc, fun x => (popCount x.w x.pa : Int)),
   (.brev, fun x => (reverseBits x.w x.pa : Int)),
   (.bswap, fun x => (reverseBytes x.w x.pa : Int))]

/-- The instructions of class 0x1 whose result goes to s[DST], with the result as a function of the formats, the
rounding and the operands (R107 to R112). -/
def floatRule : List ((Fields → Instr) × (Fields → Fmt → Round → Word → Word → Word → Nat)) :=
  [(.fadd, fun _ t r a b _ => t.round r ((t.decode (fpBits t a)).add (r.mode == 2) (t.decode (fpBits t b)))),
   (.fsub, fun _ t r a b _ => t.round r ((t.decode (fpBits t a)).add (r.mode == 2) (t.decode (fpBits t b)).neg)),
   (.fmul, fun _ t r a b _ => t.round r ((t.decode (fpBits t a)).mul (t.decode (fpBits t b)))),
   (.ffma, fun _ t r a b c =>
      t.round r (((t.decode (fpBits t a)).mul (t.decode (fpBits t b))).add (r.mode == 2) (t.decode (fpBits t c)))),
   (.fdiv, fun _ t r a b _ => t.div r (t.decode (fpBits t a)) (t.decode (fpBits t b))),
   (.fsqrt, fun _ t r a _ _ => t.sqrt r (t.decode (fpBits t a))),
   (.fmin, fun _ t _ a b _ => t.minmax false (fpBits t a) (fpBits t b)),
   (.fmax, fun _ t _ a b _ => t.minmax true (fpBits t a) (fpBits t b)),
   (.fclass, fun _ t _ a _ _ => 2 ^ t.classBit (fpBits t a)),
   (.fsgn, fun f t _ a b _ => fsgnBits t (fld f.mod 3 2) (fpBits t a) (fpBits t b)),
   (.fcvt, fun f t r a _ _ => t.convert (scalarFmt (fld f.mod 3 2)) r (fpBits t a)),
   (.ftoi, fun f t r a _ _ =>
      (extend (f.mod.getLsbD 4) (fiWidth f.mod) (wrap (fiWidth f.mod)
        ((t.decode (fpBits t a)).toInt r (ftoiCode (fiWidth f.mod) (f.mod.getLsbD 4)) (fiWidth f.mod) (f.mod.getLsbD 4)))).toNat),
   (.itof, fun f t r a _ _ => t.round r (Num.ofInt (interp (f.mod.getLsbD 4) (fiWidth f.mod) a)))]

/-- An element-wise operation on exact integers, saturated or wrapped (R160): width, whether DST is read, element `j`. -/
def laneInt (also : Bool) (op : Nat → Int → Int → Int → Int) (s : State) (f : Fields) : Nat × Bool × (Nat → Nat) :=
  let w := vecWidth f.mod
  let sg := vecSigned f.mod
  (w, also, fun j => elemResult f.mod sg w (op w (elemInt sg w (vecA f s w j)) (elemInt sg w (vecB f s w j))
    (elemInt sg w (lane (s.me.value f.dst) w j))))

/-- An element-wise operation on patterns (R160). -/
def lanePat (op : Nat → Nat → Nat → Nat) (s : State) (f : Fields) : Nat × Bool × (Nat → Nat) :=
  (vecWidth f.mod, false, fun j => op (vecWidth f.mod) (vecA f s (vecWidth f.mod) j) (vecB f s (vecWidth f.mod) j))

/-- An element-wise operation of class 0x7, each element with its own rounding (R167, R75). -/
def laneFp (also : Bool) (op : Fmt → Round → Nat → Nat → Nat → Nat) (s : State) (f : Fields) : Nat × Bool × (Nat → Nat) :=
  let t := vecFmt f.mod
  (t.width, also, fun j => op t (roundOf f.mod s.me j) (vecA f s t.width j) (lane (s.me.value f.b.reg) t.width j)
    (lane (s.me.value f.dst) t.width j))

/-- The element-wise vector instructions that keep their inactive elements (R158, R160, R162, R167): the element width,
whether DST is read whatever the mask, and the element `j` of the result. -/
def laneRule : List ((Fields → Instr) × (State → Fields → Nat × Bool × (Nat → Nat))) :=
  [(.vadd, laneInt false fun _ a b _ => a + b),
   (.vsub, laneInt false fun _ a b _ => a - b),
   (.vmul, laneInt false fun _ a b _ => a * b),
   (.vmulh, laneInt false fun w a b _ => a * b / 2 ^ w),
   (.vmad, laneInt true fun _ a b d => d + a * b),
   (.vmin, laneInt false fun _ a b _ => min a b),
   (.vmax, laneInt false fun _ a b _ => max a b),
   (.vand, lanePat fun _ a b => a &&& b),
   (.vor, lanePat fun _ a b => a ||| b),
   (.vxor, lanePat fun _ a b => a ^^^ b),
   (.vshl, lanePat fun w a n => if w ≤ n then 0 else a * 2 ^ n),
   (.vshr, lanePat fun w a n => if w ≤ n then 0 else a / 2 ^ n),
   (.vsar, lanePat fun w a n => wrap w (sgn w a / 2 ^ min n w)),
   (.vabs, fun s f => (vecWidth f.mod, false, fun j =>
      elemResult f.mod true (vecWidth f.mod) (sgn (vecWidth f.mod) (vecA f s (vecWidth f.mod) j)).natAbs)),
   (.vperm, fun s f => (vecWidth f.mod, false, fun j =>
      if 2048 / vecWidth f.mod ≤ lane (s.me.value f.b.reg) (vecWidth f.mod) j then 0
      else vecA f s (vecWidth f.mod) (lane (s.me.value f.b.reg) (vecWidth f.mod) j))),
   (.vslide, fun s f => (vecWidth f.mod, false, fun j =>
      if 0 ≤ (j : Int) + (second f s).toInt ∧ (j : Int) + (second f s).toInt < (2048 / vecWidth f.mod : Nat)
      then vecA f s (vecWidth f.mod) ((j : Int) + (second f s).toInt).toNat else 0)),
   (.vfadd, laneFp false fun t r a b _ => t.round r ((t.decode a).add (r.mode == 2) (t.decode b))),
   (.vfsub, laneFp false fun t r a b _ => t.round r ((t.decode a).add (r.mode == 2) (t.decode b).neg)),
   (.vfmul, laneFp false fun t r a b _ => t.round r ((t.decode a).mul (t.decode b))),
   (.vffma, laneFp true fun t r a b d => t.round r (((t.decode a).mul (t.decode b)).add (r.mode == 2) (t.decode d))),
   (.vfdiv, laneFp false fun t r a b _ => t.div r (t.decode a) (t.decode b)),
   (.vfsqrt, laneFp false fun t r a _ _ => t.sqrt r (t.decode a)),
   (.vfmin, laneFp false fun t _ a b _ => t.minmax false a b),
   (.vfmax, laneFp false fun t _ a b _ => t.minmax true a b),
   (.vfexp2, laneFp false fun t r a _ _ => t.exp2 r (t.decode a)),
   (.vflog2, laneFp false fun t r a _ _ => t.log2 r (t.decode a)),
   (.vfrcp, laneFp false fun t r a _ _ => t.div r Num.one (t.decode a)),
   (.vfrsq, laneFp false fun t r a _ _ => t.rsqrt r (t.decode a)),
   (.vfclass, laneFp false fun t _ a _ _ => 2 ^ t.classBit a),
   (.vscale, fun s f => ((vecFmt f.mod).width, false, fun j =>
      (vecFmt f.mod).round (roundOf f.mod s.me j)
        (((vecFmt f.mod).decode (vecA f s (vecFmt f.mod).width j)).scale (scaleExp f s (vecFmt f.mod).width j))))]

/-- A conversion between widths (R170): DST is read where bytes of it are kept. -/
def convertRule (s : State) (f : Fields) (ws wd : Nat) (g : Nat → Nat → Nat) : List Reg × VWord :=
  (if wd < ws then [f.dst] else [], convertVec ws wd (fld f.imm 2 0) (s.me.value f.a.reg) (s.me.value f.dst) g)

/-- The other instructions whose whole effect is the value of DST, where their operands admit one: the registers read
beside the source fields, and the value (R98 to R103, R161 to R171, R226). -/
def valueRule : List ((Fields → Instr) × (State → Fields → Option (List Reg × VWord))) :=
  [(.bfx, fun s f => some ([], (bfxValue (intSigned f.mod) (s.sa f) (second f s)).setWidth 2048)),
   (.bfi, fun s f => some ([], (bfiValue (s.sa f) (second f s) (s.sc f)).setWidth 2048)),
   (.sel, fun s f => some ([], (if s.sc f = 1 then s.sa f else second f s).setWidth 2048)),
   (.mov, fun s f => some ([], movValue f s)),
   (.lea, fun s f => some ([], (s.sa f + (s.sb f <<< sclShift f.mod) + simm f.imm).setWidth 2048)),
   (.chk, fun s f =>
    if 0 ≤ (intArgs f s).a ∧ (intArgs f s).a < (intArgs f s).b then
      some ([], ((intArgs f s).result (intArgs f s).a).setWidth 2048) else none),
   (.vcmp, fun s f => some (mergeReads f, deliverCompare f.dst (s.me.value f.dst) (maskOf s.me f.c.reg) (vecWidth f.mod) fun i =>
      cmpHolds (vecX f.mod) (elemInt (vecSigned f.mod) (vecWidth f.mod) (vecA f s (vecWidth f.mod) i))
        (elemInt (vecSigned f.mod) (vecWidth f.mod) (vecB f s (vecWidth f.mod) i)))),
   (.vfcmp, fun s f => some (mergeReads f,
      deliverCompare f.dst (s.me.value f.dst) (maskOf s.me f.c.reg) (vecFmt f.mod).width fun i =>
        fcmpHolds (vecX f.mod) (((vecFmt f.mod).decode (vecA f s (vecFmt f.mod).width i)).compare
          ((vecFmt f.mod).decode (lane (s.me.value f.b.reg) (vecFmt f.mod).width i))))),
   (.vsel, fun s f => some ([], vecOf (vecWidth f.mod) ((List.range (2048 / vecWidth f.mod)).map fun i =>
      if activeElem (maskOf s.me f.c.reg) (vecWidth f.mod) i then vecA f s (vecWidth f.mod) i
      else vecB f s (vecWidth f.mod) i))),
   (.vbcast, fun s f => some ([], vecOf (vecWidth f.mod) ((List.range (2048 / vecWidth f.mod)).map fun _ =>
      (if immForm f.mod then simm f.imm else s.sa f).toNat % 2 ^ vecWidth f.mod))),
   (.vext, fun s f =>
    if 2048 / vecWidth f.mod ≤ (second f s).toNat then none
    else some ([], (extend (vecSigned f.mod) (vecWidth f.mod)
      (vecA f s (vecWidth f.mod) (second f s).toNat)).setWidth 2048)),
   (.vins, fun s f =>
    if 2048 / vecWidth f.mod ≤ (second f s).toNat then none
    else some ([f.dst], setLane (s.me.value f.dst) (vecWidth f.mod) (second f s).toNat (s.sa f).toNat)),
   (.vred, fun s f =>
    let w := vecWidth f.mod
    let sg := vecSigned f.mod
    let active := (List.range (2048 / w)).filter fun i => activeElem (maskOf s.me f.c.reg) w i
    some ([], (extend sg w (wrap w (active.foldl
      (fun acc i => redStep f.mod w sg acc (elemInt sg w (vecA f s w i))) (redIdentity (vecX f.mod) w sg)))).setWidth 2048)),
   (.vscan, fun s f => some (mergeReads f, vecOf (vecWidth f.mod) (scanFrom f.mod (maskOf s.me f.c.reg) (vecWidth f.mod)
      (vecSigned f.mod) (s.me.value f.a.reg) (s.me.value f.dst) (2048 / vecWidth f.mod) 0
      (redIdentity (vecX f.mod) (vecWidth f.mod) (vecSigned f.mod))))),
   (.vpopc, fun s f => some ([], (w64 (popCount 64 ((s.sa f).toNat &&& maskOf s.me f.c.reg))).setWidth 2048)),
   (.vfirst, fun s f => some ([], (w64 (trailingZeros 64 (s.sa f).toNat)).setWidth 2048)),
   (.viota, fun s f => some ([], vecOf 32 ((List.range 64).map fun i => popCount i (s.sa f).toNat))),
   (.plog, fun s f => some ([], (w64 (packLanes 1 ((List.range 64).map fun j =>
      bit (qlogBit f.imm.toNat ((s.sa f).getLsbD j) ((s.sb f).getLsbD j))))).setWidth 2048)),
   (.vcompress, fun s f => some ([], vecOf 32 (((List.range 64).filter fun i => (maskOf s.me f.c.reg).testBit i).map fun i =>
      vecA f s 32 i))),
   (.vtopk, fun s f =>
    let w := vecWidth f.mod
    let k := (second f s).toNat
    if k = 0 ∨ 64 < k then none
    else
      let above := rankAbove (vecX f.mod == 1) (vecSigned f.mod) w
      let ranked := (List.range (2048 / w)).foldl (fun l i =>
        if activeElem (maskOf s.me f.c.reg) w i then rankInsert above (i, vecA f s w i) l else l) []
      let top := (ranked.take k).map (·.1)
      some ([], vecOf 32 (top ++ List.replicate (64 - top.length) 0xFFFFFFFF))),
   (.vfred, fun s f =>
    let t := vecFmt f.mod
    let w := t.width
    let inf := (2 ^ t.eb - 1) * 2 ^ t.fb
    let xs := (List.range (2048 / w)).map fun i =>
      if activeElem (maskOf s.me f.c.reg) w i then some (vecA f s w i) else none
    let y := (fredTree f.mod t (fun n => roundOf f.mod s.me n) (if w = 32 then 6 else 7) 0 xs).getD
      (match vecX f.mod with
        | 0 => 0
        | 1 => inf
        | _ => inf + 2 ^ (w - 1))
    some ([], (w64 (if t.decode y = .nan then t.nan else y)).setWidth 2048)),
   (.vfcvt, fun s f =>
    let t := vecFmt f.mod
    let d := cvtFmt (vecX f.mod)
    some (convertRule s f t.width d.width fun n x => t.convert d { roundOf f.mod s.me n with sat := decide (4 ≤ vecX f.mod) } x)),
   (.vftoi, fun s f =>
    let t := vecFmt f.mod
    let d := intFmt (vecX f.mod)
    some (convertRule s f t.width d.width fun n x =>
      wrap d.width ((t.decode x).toInt (roundOf f.mod s.me n) d.code d.width d.isSigned))),
   (.vitof, fun s f =>
    let t := vecFmt f.mod
    let d := intFmt (vecX f.mod)
    some (convertRule s f d.width t.width fun n x => t.round (roundOf f.mod s.me n) (Num.ofInt (elemInt d.isSigned d.width x)))),
   (.vquant, fun s f =>
    let t := vecFmt f.mod
    let d := quantFmt (vecX f.mod)
    some (convertRule s f t.width d.width fun n x =>
      wrap d.width (clampInt (intMin d.width d.isSigned) (intMax d.width d.isSigned)
        (toI32 (roundOf f.mod s.me n) d.code ((t.decode x).mul (multiplier f s)) + zeroPoint f s)))),
   (.vdeq, fun s f =>
    let t := vecFmt f.mod
    let d := deqFmt (vecX f.mod)
    some (convertRule s f d.width t.width fun n x =>
      t.round (roundOf f.mod s.me n) ((multiplier f s).mul
        (if d.isFp then d.decode x else Num.ofInt (elemInt d.isSigned d.width x - zeroPoint f s))))),
   (.patget, fun s f => some ([], (s.pat s.me.lease (fld f.imm 7 0)).setWidth 2048))]

/-- The comparisons and guard operations (R105, R110, R121), and what they write into q[DST]. -/
def guardRule : List ((Fields → Instr) × (State → Fields → Bool)) :=
  [(.cmp, fun s f => cmpHolds (fld f.mod 6 3) (intArgs f s).a (intArgs f s).b),
   (.tst, fun s f => tstHolds (fld f.mod 6 3) (intArgs f s).pa (intArgs f s).pb),
   (.fcmp, fun s f => fcmpHolds (fld f.mod 4 2)
      (((ftOf f.mod).decode (fpBits (ftOf f.mod) (s.sa f))).compare ((ftOf f.mod).decode (fpBits (ftOf f.mod) (s.sb f))))),
   (.qlog, fun s f => qlogBit (fld f.imm 3 0) (s.sa f == 1) (s.sb f == 1))]

/-- A register that is no guard. -/
abbrev NotGuard (r : Reg) : Prop := ∀ n, r ≠ .q n

/-- The transfers (R117, R118): what each reads beside its guard, its target, and the value that it writes into DST first. -/
def transferRule : List ((Fields → Instr) × (Fields → State → List (Nat × Src) × List Reg × List Reg × Word × Option Word)) :=
  [(.br, fun f s => ([], [], [], branchTarget s.me.pc f.imm, .none)),
   (.jmp, fun f s => (sourcesOf f, [], [f.dst], s.sa f, .none)),
   (.call, fun f s => (sourcesOf f, [], [f.dst], branchTarget s.me.pc f.imm, some (nextPc s.me.pc))),
   (.callr, fun f s => (sourcesOf f, [], [f.dst], s.sa f, some (nextPc s.me.pc))),
   (.ret, fun f s => (sourcesOf f, [], [f.dst], s.sa f, .none)),
   (.loop, fun f s => ([], [f.dst], [f.dst], branchTarget s.me.pc f.imm, some (s.me.get64 f.dst - 1)))]

/-- The core-local instructions that read three source fields (R16, R40). -/
def sourceReaders : List (Fields → Instr) :=
  [.add, .sub, .mul, .mulh, .div, .rem, .and, .or, .xor, .andn, .shl, .shr, .sar, .rot, .min, .max, .abs,
   .clz, .ctz, .popc, .brev, .bswap, .bfx, .bfi, .sel, .mov, .lea, .cmp, .tst, .mad, .chk, .fadd, .fsub, .fmul,
   .ffma, .fdiv, .fsqrt, .fmin, .fmax, .fcmp, .fclass, .fcvt, .ftoi, .itof, .fsgn, .jmp, .call, .callr, .ret, .qlog, .ld, .st, .ldv, .stv, .ldg, .stg, .ldt, .pref, .clean, .inval, .ldf, .ldff, .ste,
   .stf, .sete, .probe, .aadd, .aand, .aor, .axor, .amin, .amax, .aswp, .acas, .aincw, .afaddb, .afadd,
   .vadd, .vsub, .vmul, .vmulh, .vmad, .vand, .vor, .vxor, .vshl, .vshr, .vsar, .vmin,
   .vmax, .vabs, .vcmp, .vsel, .vbcast, .vext, .vins, .vperm, .vslide, .vred, .vscan, .vpopc, .vfirst, .viota,
   .plog, .vcompress, .vtopk, .vfadd, .vfsub, .vfmul, .vffma, .vfdiv, .vfsqrt, .vfmin, .vfmax, .vfcmp, .vfexp2,
   .vflog2, .vfrcp, .vfrsq, .vfred, .vfcvt, .vftoi, .vitof, .vquant, .vdeq, .vscale, .vfclass, .spawn, .spawng,
   .touch, .touchany, .resolve, .poison, .cancel, .keep, .fdrop, .fstat, .retire, .yield, .fnew,
   .needle, .send, .sendv, .clr, .msg, .mbind, .mpost, .mtake, .binit, .barr, .bwait, .barw, .blink, .getsr,
   .lpatch, .larm, .patset, .patget, .baste]

/-- Every instruction that a core executes by itself (R48): all but the engine commands, and MOVI, which has fields of its
own. -/
def coreLocal : List (Fields → Instr) :=
  sourceReaders ++ [.nop, .br, .loop, .qset, .fence, .phase, .rel, .acq, .touchs, .setsr, .trap, .eret, .brk, .trace, .tstamp]

/-- Every command of an engine (R49): classes 0x5 and 0x8. -/
def engineRule : List (Fields → Instr) :=
  [.get, .put, .push, .layout, .cfill, .cquery, .permit, .mgang, .mldb, .mma, .mzero, .mrdz, .mwrz, .mscale,
   .mrel, .tmv]

/-- The checks of ranks 6 to 9 let an access go on (R270, R279), as these parts. -/
abbrev Cleared (s : State) (u : Use) (align : Req → Option (BitVec 8)) (reqs : List Req) (parts : List Part) : Prop :=
  ∃ rows, s.check s.me s.cur u align reqs = .ok (parts, rows)

/-- One body has been sent by the issuing task (R127, R367). Of memory, tags, special registers, accumulators, queues and
every other task nothing has changed, nor has any register; those of the task are stated beside it. -/
def SentOn (s t : State) (b : Body') : Prop :=
  t = { s with tasks := t.tasks, cores := t.cores, launches := t.launches, fabric := t.fabric, seq := s.seq + 1, flight := t.flight } ∧
  SameTasks s t ∧ SameCores s t ∧ SameMemory s t ∧ Sent s t b

/-- The state in which a release point does its own work (R298): the task's earlier accesses have performed and its
releases have completed, and the dirty PHASED bytes of its L1 have been published (R298 as `OrderingInstructionsComplete` states it). -/
abbrev Released (s w : State) : Prop := s.release = some w

/-- The loads that name their bytes by an address (R126, R129): alignment rule, requests, whether a value always comes
back by itself, and the access sent. -/
def loadRule : List ((Fields → Instr) ×
    (Fields → State → (Req → Option (BitVec 8)) × List Req × Bool × (List Part → Access))) :=
  [(.ld, fun f s => (anyAlign, [Req.plain (effAddr f s) (widBytes f.mod) 0 0], false, fun ps =>
      Access.load f.dst ps (widBytes f.mod) 0 (f.mod.getLsbD 3) (ordOf f.mod))),
   (.ldv, fun f s => (alignedTo 8, [Req.vector (effAddr f s) (2 ^ 64 - 1)], false, fun ps =>
      Access.load f.dst ps 256 0 false (ordOf f.mod))),
   (.ldg, fun f s => (alignedTo (widBytes f.mod), laneReqs f (maskOf s.me f.c.reg) s, true, fun ps =>
      Access.load f.dst ps (widBytes f.mod) 64 (f.mod.getLsbD 3) (ordOf f.mod)))]

/-- The bytes of its parts in a scratchpad, assembled as the access assembles them (R126). -/
def Access.fromPad (a : Access) (m : Memory) : VWord :=
  { a with value := a.parts.foldl (fun v (p : Part) => putBytes v p.off (m.bytes p.loc.addr p.size)) 0 }.result

/-- The stores (R126, R128, R129): the registers read beside the sources, those that no producer may owe, alignment rule
and requests. -/
def storeRule : List ((Fields → Instr) ×
    (Fields → State → List Reg × List Reg × (Req → Option (BitVec 8)) × List Req)) :=
  [(.st, fun f s => ([], [f.dst], anyAlign, [Req.plain (effAddr f s) (widBytes f.mod) 0 0])),
   (.stv, fun f s => ([f.dst], [], alignedTo 8, [Req.vector (effAddr f s) (maskOf s.me f.dst)])),
   (.stg, fun f s => ([f.dst], [], alignedTo (widBytes f.mod), laneReqs f (maskOf s.me f.dst) s))]

/-- The byte that a store puts at an address: that of its last part there (R129), if any. -/
def storedAt (parts : List Part) (data : VWord) (a : Nat) : Option Byte :=
  (parts.reverse.find? fun p => decide (p.loc.addr ≤ a) && decide (a < p.loc.addr + p.size)).map fun p =>
    byteAt data (p.off + (a - p.loc.addr))

/-- The atomics with their operation and address (R137, R140). -/
def atomicTable : List ((Fields → Instr) × AtomicOp × (Fields → State → Word)) :=
  [(.aadd, .add, effAddr), (.aand, .and, effAddr), (.aor, .or, effAddr), (.axor, .xor, effAddr), (.amin, .min, effAddr),
   (.amax, .max, effAddr), (.aswp, .swp, effAddr), (.acas, .cas, baseAddr), (.aincw, .incw, effAddr),
   (.afaddb, .faddb, baseAddr), (.afadd, .fadd, effAddr)]

/-- The checked request of an atomic (R122, R137). -/
def atomicReq (f : Fields) (a : Word) : Req := ⟨a, widBytes f.mod, 0, [(a, widBytes f.mod, 0)]⟩

/-- The registers of the sources. -/
def sourceRegs (f : Fields) : List Reg := (sourcesOf f).map fun (e : Nat × Src) => e.2.reg

/-- An engine command can issue (R49): its sources are full, no producer owes its token, its guard, when full, lets it, and
nothing that it reads is spoilt (R283); its task is in its slot. -/
abbrev EngineReady (f : Fields) (s : State) : Prop :=
  s.me.live = true ∧ guardTest f.guard s.me ≠ some false ∧ (∀ x ∈ sourcesOf f, s.me.full x.2.reg = true) ∧
  s.me.landing (sourceRegs f) = false ∧ s.pendingOn s.cur f.dst = false ∧
  (∀ r ∈ s.me.spoiled, r ∉ readRegs f.guard (sourcesOf f) []) ∧ s.me.inRecord = false

/-- The hold of an engine command whose guard is empty (R49, R50). -/
def holdOf (f : Fields) (s : State) : Option (Bool × Fin 8) :=
  if (guardTest f.guard s.me).isNone then some (f.guard.neg, f.guard.q) else none

/-- A command has joined the end of an engine's queue and its token register is empty (R46, R148); the PRIVATE lines of the
issuing core have been written back and are gone (R149). No other queue or task, no scratchpad byte, tag or special register
has changed, and no other byte of memory. -/
def Enqueued (s t : State) (u : EngineUnit) (c : Command) : Prop :=
  t = { s with tasks := t.tasks, cores := t.cores, clusters := t.clusters, seq := t.seq, ways := t.ways
               launches := t.launches, mem := t.mem, host := t.host, marked := t.marked } ∧
  s.seq < t.seq ∧ (s.memWf = true → HomeFollows s t s.me.core) ∧ (∀ e ∈ (t.core s.me.core).l1, e.attr ≠ 0) ∧
  t.jobs u = s.jobs u ++ [c] ∧ (∀ v, v ≠ u → t.jobs v = s.jobs v) ∧ SameTasks s t ∧
  (∀ k, t.core k = { s.core k with queue := (t.core k).queue, l1 := (t.core k).l1 }) ∧
  (∀ p, t.cluster p = { s.cluster p with
    jobs := (t.cluster p).jobs, thresher := (t.cluster p).thresher, channels := (t.cluster p).channels }) ∧
  GoesOn (s.onMe fun m => { m with enqueued := m.enqueued + 1 }) t (nextPc s.me.pc) ∧ Emptied s t c.dst

/-- The commands of the copy unit and the Thresher port that only queue (R145, R184): unit, operation, and the queue's
room in all and for one task (R148). -/
def queueRule : List ((Fields → Instr) × EngineOp × (State → EngineUnit) × Nat × Nat) :=
  [(.get, .get, fun s => .copy s.me.pos, 64, 16), (.put, .put, fun s => .copy s.me.pos, 64, 16),
   (.layout, .layout, fun s => .copy s.me.pos, 64, 16), (.cfill, .cfill, fun s => .copy s.me.pos, 64, 16),
   (.permit, .permit, fun s => .copy s.me.pos, 64, 16), (.tmv, .tmv, fun s => .thresher s.me.pos, 16, 4)]

/-- The matrix commands that the holder of the accumulators queues (R174, R186), with what their operands must be. -/
def matrixRule : List ((Fields → Instr) × EngineOp × (Fields → State → Bool)) :=
  [(.mldb, .mldb, fun _ _ => true), (.mma, .mma, fun _ _ => true), (.mzero, .mzero, fun _ _ => true),
   (.mrdz, .mrdz, fun _ _ => true), (.mwrz, .mwrz, fun _ _ => true),
   (.mscale, .mscale, fun f s => validScale (bits (s.sa f) 31 0) && validScale (bits (s.sb f) 31 0)),
   (.mrel, .mrel, fun _ s => !s.gangPending s.cur)]

/-- An MGANG or MREL that acts at issue (R176, R177): its task goes on, and of the machine only the task's registers, the
task's own core and what MREL withdraws may have changed. In recorded mode the commands that have ended with it, by their
numbers, end chunks (R345, R346). -/
def ActsAtIssue (w t : State) (ended : List Nat) : Prop :=
  t = { w with tasks := t.tasks, cores := t.cores, fresh := t.fresh } ∧ SameTasks w t ∧
  GoesOn (w.onMe fun m => { m with
    enqueued := m.enqueued + 1, ended := if w.recorded w.cur then m.ended ++ ended else m.ended }) t (nextPc w.me.pc) ∧
  ∀ j, j ≠ w.me.core → t.core j = { w.core j with pending := (t.core j).pending }

/-- A request to a Spool has been sent (R189, R198 to R200): DST is empty, the PC stays, and the task issues nothing until the
answer; nothing else has changed. -/
def Asks (s t : State) (f : Fields) (op : SpoolOp) (h : Word) : Prop :=
  SentOn s t (.spool op h f.dst) ∧ Emptied s t f.dst ∧
  t.me = { s.me.request f with
    wait := .answer s.seq, loom := .waiting, touched := t.me.touched, acquired := t.me.acquired }

/-- The requests that manage a future (R200): the request, and whether the instruction is a release point. -/
def manageRule : List ((Fields → Instr) × (Fields → State → SpoolOp) × Bool) :=
  [(.resolve, fun f s => .resolve (s.sb f), true),
   (.poison, fun f s => .poison (BitVec.ofNat 8 (bits (s.sb f) 7 0)) (s.sc f), true),
   (.cancel, fun _ _ => .cancel, false), (.keep, fun _ _ => .keep, false), (.fdrop, fun _ _ => .fdrop, false),
   (.fstat, fun _ _ => .fstat, false)]

/-- What such a request answers of an entry (R200 to R203). -/
def manageWord (op : SpoolOp) (e : Entry) : Word :=
  match op with
  | .resolve _ | .poison _ _ | .cancel => if e.isSettled then 0x93 else 0
  | .keep =>
    if e.notask || (e.bsub == 0 && !e.folded && !e.dropped) then 0x94
    else if e.dropped || e.state == .cancelled then 0x93 else 0
  | .fstat => fstatWord e
  | _ => 0

/-- An entry given back: FREE, with the next generation (R231). -/
def Freed (e x : Entry) : Prop := x.state = .free ∧ x.gen = e.gen + 1

/-- An entry after one consumption (R198, R235). -/
def Consumed (nc : Bool) (e x : Entry) : Prop :=
  if nc = true ∨ e.cnt = 0 then x.state = e.state ∧ x.left = e.left
  else if e.left.toNat ≤ 1 then Freed e x
  else x.state = e.state ∧ x.left = e.left - 1

/-- An entry settled, and FREE at once when FDROP has left no consumer (R200, R235). -/
def Settled (e x : Entry) (st : FutureState) : Prop := if e.fos = true then Freed e x else x.state = st ∧ x.waiters = []

/-- What such a request makes of its entry `e`: `x` (R200 to R203, R235). -/
def ManageEntry (op : SpoolOp) (e x : Entry) : Prop :=
  match op with
  | .resolve y => if e.isSettled = true then x = e else Settled e x .resolved ∧ (e.fos = false → x.value = y)
  | .poison c r => if e.isSettled = true then x = e
    else Settled e x .poisoned ∧ (e.fos = false → x.record = w64 (bits r 55 0) ∧ x.cause = if c = 0 then 0x31 else c)
  | .cancel => if e.isSettled = true then x = e else Settled e x .cancelled
  | .keep => x.state = e.state ∧ x.value = e.value ∧ x.left = e.left
  | .fdrop =>
    if e.isSettled = true then Consumed false e x
    else if e.cnt = 0 ∨ e.left = 0 then x = e
    else x = { e with left := e.left - 1, fos := e.fos || e.left - 1 = 0 }
  | .fstat => x = e
  | _ => True

/-- Every number in flight is an earlier one, and nothing is on its way to an endpoint on a channel (R367). -/
abbrev Quiet (s : State) (dst : Nat) (vc : BitVec 2) : Prop :=
  ∀ g ∈ s.flight, g.id < s.seq ∧ ¬ (s.endNow g = dst ∧ g.vc = vc)

/-- An instruction has completed with one value: the task is at the next instruction and running, DST alone of its
registers has changed. -/
def CompletedWith (s t : State) (r : Reg) (x : Word) : Prop :=
  t.me.pc = nextPc s.me.pc ∧ t.me.wait = .no ∧ t.me.loom = .running ∧ WroteW s t r x ∧ t.cur = s.cur

/-- A trap with a handler has been taken (R264): the four trap registers say what happened, INH is set, the task is at the
vector, where the next fetch is that of a target, and nothing else has changed. -/
def TrapTaken (s t : State) (cause : BitVec 8) (pc addr info : Word) : Prop :=
  t.me = { s.me with
    trapCause := cause.setWidth 64, trapPc := pc, trapAddr := addr, trapInfo := info, wait := .no, wpx := false
    wpPc := if cause = 0x16 then some pc else .none, wdr := false, tgt := some 0, inh := true, pc := (s.lease s.me.lease).trapVec
    loom := if s.me.slot.isSome then .running else s.me.loom } ∧
  t = { s with tasks := t.tasks } ∧ SameTasks s t

/-- A request that reports a status (R209, R212, R214): with TRAP the task waits for it, else DST is emptied and the task
goes on. `s` is the state in which it is sent. -/
def Reported (s t : State) (trap : Bool) (dst : Reg) (b : Body') : Prop :=
  SentOn s t b ∧ if trap then Awaits s t else GoesOn s t (nextPc s.me.pc) ∧ Emptied s t dst

/-- The state in which a send is sent (R208): with REL it is a release point. -/
abbrev SendState (f : Fields) (s w : State) : Prop := if f.mod.getLsbD 1 then Released (s.workingF f) w else w = s

/-- The second check of a handle (R189): its entry is not FREE, and their generations agree. -/
abbrev Fresh (s : State) (h : Word) : Prop := (s.entry (hKey h)).gen = hGen h ∧ (s.entry (hKey h)).isFree = false

/-- Nothing is on its way to a Spool, nor to the core of the issuing task, on the channel of requests and answers. -/
abbrev QuietSpool (s : State) (h : Word) : Prop := Quiet s (spoolEnd (hDie h)) 2 ∧ Quiet s (coreEnd s.me.core) 2

/-- A request to a Spool finds its entry there (R189, R235): the handle is good, nothing that was sent there is still on its
way, and the entry's generation agrees. -/
abbrev Finds (s : State) (h : Word) : Prop := s.goodHandle h = true ∧ QuietSpool s h ∧ Fresh s h

/-- The checks of a barrier instruction at its node (R216, R122). -/
abbrev NodeChecked (f : Fields) (s w : State) (n : Place) : Prop :=
  ∃ p ps rows, (s.workingF f).check (s.workingF f).me s.cur (.tagged false) nodeAlign
      [⟨s.sa f, 16, 0, [(s.sa f, 8, 0), (s.sa f + 8, 8, 8)]⟩] = .ok (p :: ps, rows) ∧ n = p.loc ∧
    w = if rows.isEmpty then s.workingF f else (s.workingF f).keepRows s.me.core rows

/-- What arrives next under a number: from a task, between two endpoints, with nothing sent earlier between them on its
channel still on its way (R367). -/
abbrev Arrives (s : State) (k task src dst : Nat) (b : Body') : Prop :=
  ∃ vc, s.flight? k = some ⟨k, task, src, dst, vc, b⟩ ∧ s.first ⟨k, task, src, dst, vc, b⟩ = true

/-- Nothing under a number is on its way any more. -/
def Landed (t : State) (k : Nat) : Prop := ∀ g ∈ t.flight, g.id ≠ k

/-- An answer goes back under the number of its request. -/
def Replies (t : State) (k task src dst : Nat) (b : Body') : Prop := ∃ vc, ⟨k, task, src, dst, vc, b⟩ ∈ t.flight

/-- A command has ended: it is gone from its queue, and its token, where it has one, holds the status and information of
R146. -/
def Ended (s t : State) (u : EngineUnit) (c : Command) (status : BitVec 8) (info : Nat) : Prop :=
  (∀ x ∈ t.jobs u, x.id ≠ c.id) ∧
  ∀ n : Fin 64, c.dst = .s n → n ≠ 0 → (s.task c.task).live = true → (∀ j, c.op ≠ .tileCopy j) →
    (t.task c.task).get64 c.dst = tokenWord status info ∧ (t.task c.task).full c.dst = true

/-- Only one task has changed, and of it only its registers. -/
def TaskWrote (s t : State) (id : Nat) (r : Reg) (x : VWord) : Prop :=
  (t.task id).regs = ((s.task id).regs.setValue r x).setFull r true ∧ ∀ j, j ≠ id → t.task j = s.task j

end Sys2Proof.Machine
end

