-- ==== Sys2Proof/Certificates/Slice0/Obligations.lean ====
section
/-! DEFINITION. The statements for the provers. -/
section

open Sys2Proof Sys2Proof.Machine

/-! Registers, arithmetic and comparisons. -/

/-- R12, R15: a register written reads back the value written and is full, any other register of the task is unchanged,
and s0 discards the write, reads as zero and is always full. A register made empty keeps its value, and no other register
changes; s0 stays full. Nothing else of the task changes but which registers hold spoiled contents (R283), of which a
register just written is none. -/
def Obligations.RegisterWriteReadsBack : Prop :=
  ∀ (t : Task) (x : VWord),
    (∀ n : Fin 64, n ≠ 0 → (t.write (.s n) x).get64 (.s n) = x.setWidth 64 ∧ (t.write (.s n) x).full (.s n) = true ∧
      (t.clear (.s n)).full (.s n) = false) ∧
    (∀ n : Fin 16, (t.write (.v n) x).value (.v n) = x ∧ (t.write (.v n) x).full (.v n) = true ∧
      (t.clear (.v n)).full (.v n) = false) ∧
    (∀ n : Fin 8, (t.write (.p n) x).get64 (.p n) = x.setWidth 64 ∧ (t.write (.p n) x).full (.p n) = true ∧
      (t.clear (.p n)).full (.p n) = false) ∧
    (∀ n : Fin 8, (t.write (.q n) x).get64 (.q n) = (if x.getLsbD 0 then 1 else 0) ∧ (t.write (.q n) x).full (.q n) = true ∧
      (t.clear (.q n)).full (.q n) = false) ∧
    ((t.write (.s 0) x).regs = t.regs ∧ (t.clear (.s 0)).regs = t.regs ∧ t.value (.s 0) = 0 ∧ t.full (.s 0) = true) ∧
    ∀ r : Reg,
      (∀ r', r ≠ r' → (t.write r x).value r' = t.value r' ∧ (t.write r x).full r' = t.full r' ∧
        (t.clear r).full r' = t.full r') ∧
      (∀ r', (t.clear r).value r' = t.value r') ∧ r ∉ (t.write r x).spoiled ∧
      t.write r x = { t with regs := (t.write r x).regs, spoiled := t.spoiled.filter (· != r) } ∧
      t.clear r = { t with regs := (t.clear r).regs }

/-- R35: a PC is legal when it is a line address plus 0, 12, 24, 36 or 48; from slot i below 4 an instruction that does
not transfer control goes on at the same line plus 12(i + 1), and from slot 4 at the line address plus 64, which is
legal again; the fetch that follows is no target's, and such a fetch never fails for want of a target mark. -/
def Obligations.NextPcFollowsTheLine : Prop :=
  (∀ pc : Word, (legalPc pc = true ↔ ∃ o ∈ [0, 12, 24, 36, 48], pc.toNat = lineOf pc + o) ∧
    (legalPc pc = true →
      (slotOf pc < 4 → nextPc pc = w64 (lineOf pc + 12 * (slotOf pc + 1))) ∧
      (slotOf pc = 4 → nextPc pc = w64 (lineOf pc + 64)) ∧
      (pc.toNat + 16 < 2 ^ 64 → legalPc (nextPc pc) = true))) ∧
  (∀ (s : State) (id : Nat), ((s.advance id).task id).pc = nextPc (s.task id).pc ∧ ((s.advance id).task id).tgt = none) ∧
  ∀ (s : State) (t : Task) (pc : Word), s.fetchAt t pc false ≠ .trap 0x03 pc 2

/-- R92, R95, R97: every width operation but DIV and REM completes: s[DST] receives the low w bits of Op, extended by S,
and nothing else changes. -/
def Obligations.WidthOperationsComplete : Prop :=
  ∀ e ∈ widthRule, ∀ (f : Fields) (s : State), NotGuard f.dst → ReadyF f s →
    ∃ t, exec (e.1 f) s = .next t ∧ RegistersOnly s t ∧ WroteW s t f.dst ((intArgs f s).result (e.2 (intArgs f s)))

/-- R96: DIV and REM with a divisor that is not zero at the width write the quotient rounded toward zero or the
remainder; with a divisor of 0 at the width they trap DIVIDE_ZERO with address 0 and s[SA] as the information, and no
register changes. -/
def Obligations.DivisionCompletesOrTraps : Prop :=
  ∀ (f : Fields) (s : State), NotGuard f.dst → ReadyF f s →
    ((intArgs f s).b ≠ 0 →
      (∃ t, exec (.div f) s = .next t ∧ RegistersOnly s t ∧
        WroteW s t f.dst ((intArgs f s).result ((intArgs f s).a.tdiv (intArgs f s).b))) ∧
      ∃ t, exec (.rem f) s = .next t ∧ RegistersOnly s t ∧
        WroteW s t f.dst ((intArgs f s).result ((intArgs f s).a.tmod (intArgs f s).b))) ∧
    ((intArgs f s).b = 0 →
      exec (.div f) s = .next (s.takeTrap s.cur 0x18 s.me.pc 0 (s.sa f)) ∧
      exec (.rem f) s = .next (s.takeTrap s.cur 0x18 s.me.pc 0 (s.sa f)) ∧
      (s.me.inh = false → (s.lease s.me.lease).trapVec ≠ 0 →
        (∃ t, exec (.div f) s = .next t ∧ TrapTaken s t 0x18 s.me.pc 0 (s.sa f)) ∧
        ∃ t, exec (.rem f) s = .next t ∧ TrapTaken s t 0x18 s.me.pc 0 (s.sa f)))

/-- R106 to R112: every operation of class 0x1 that writes s[DST] completes with the value of its rule at its format and
rounding, zero-extended, and nothing else changes. -/
def Obligations.FloatOperationsComplete : Prop :=
  ∀ e ∈ floatRule, ∀ (f : Fields) (s : State), NotGuard f.dst → ReadyF f s →
    ∃ t, exec (e.1 f) s = .next t ∧ RegistersOnly s t ∧
      WroteW s t f.dst (w64 (e.2 f (ftOf f.mod) (roundOf f.mod s.me 0) (s.sa f) (s.sb f) (s.sc f)))

/-- R158, R160, R162, R167: every element-wise vector operation completes: an active element of v[DST] receives its
result, an inactive one keeps its old value, and nothing else changes. -/
def Obligations.LaneOperationsComplete : Prop :=
  ∀ e ∈ laneRule, ∀ (f : Fields) (s : State), NotGuard f.dst →
    Ready f.guard (sourcesOf f) (if (e.2 s f).2.1 then [f.dst] else mergeReads f) [f.dst] s →
    ∃ t x, exec (e.1 f) s = .next t ∧ RegistersOnly s t ∧ Wrote s t f.dst x ∧
      ∀ j, j < 2048 / (e.2 s f).1 →
        lane x (e.2 s f).1 j =
          if activeElem (maskOf s.me f.c.reg) (e.2 s f).1 j then (e.2 s f).2.2 j % 2 ^ (e.2 s f).1
          else lane (s.me.value f.dst) (e.2 s f).1 j

/-- R98 to R104, R161 to R171, R226: every other instruction whose whole effect is the value of DST completes with that
value, and nothing else changes; MOV and the comparisons may name a guard or a mask there. R99, R164, R162, R104: the
operand values that VEXT, VINS, VTOPK and CHK refuse trap BOUNDS with the address and information of R268. -/
def Obligations.ValueInstructionsComplete : Prop :=
  (∀ e ∈ valueRule, ∀ (f : Fields) (more : List Reg) (x : VWord) (s : State),
    e.2 s f = some (more, x) → Ready f.guard (sourcesOf f) more [f.dst] s →
    ∃ t, exec (e.1 f) s = .next t ∧ Wrote s t f.dst x ∧ GuardsOnly s t [f.dst] ∧ (NotGuard f.dst → RegistersOnly s t)) ∧
  (∀ (f : Fields) (s : State), ReadyF f s →
    (2048 / vecWidth f.mod ≤ (second f s).toNat →
      exec (.vext f) s = .next (s.takeTrap s.cur 0x1A s.me.pc 0 (second f s))) ∧
    (2048 / vecWidth f.mod ≤ (second f s).toNat → s.me.full f.dst = true → s.me.landing [f.dst] = false →
      exec (.vins f) s = .next (s.takeTrap s.cur 0x1A s.me.pc 0 (second f s))) ∧
    ((second f s).toNat = 0 ∨ 64 < (second f s).toNat →
      exec (.vtopk f) s = .next (s.takeTrap s.cur 0x1A s.me.pc 0 (second f s))) ∧
    (¬ (0 ≤ (intArgs f s).a ∧ (intArgs f s).a < (intArgs f s).b) →
      exec (.chk f) s = .next (s.takeTrap s.cur 0x1A s.me.pc (s.sa f) (second f s))))

/-- R105, R110, R121: CMP, TST, FCMP and QLOG complete: q[DST] receives the condition and nothing else changes but a
held command's knowledge of that guard. R101, R120, R210, R53: MOVI writes its 64-bit immediate, QSET writes each guard
it names and no other register, CLR empties DST and keeps its value, and NOP only goes on. -/
def Obligations.ComparisonsAndPlainMovesComplete : Prop :=
  (∀ e ∈ guardRule, ∀ (f : Fields) (s : State), ReadyF f s →
    ∃ t, exec (e.1 f) s = .next t ∧ GuardsOnly s t [f.dst] ∧ WroteQ s t f.dst (e.2 s f)) ∧
  ((∀ (f : LFields) (s : State), NotGuard f.dst → Ready f.guard [] [] [f.dst] s →
    ∃ t, exec (.movi f) s = .next t ∧ RegistersOnly s t ∧ WroteW s t f.dst f.imm) ∧
  (∀ (f : Fields) (s : State), Ready f.guard [] [] ((qsetRegs f.imm).map Reg.q) s →
    ∃ t, exec (.qset f) s = .next t ∧ GuardsOnly s t ((qsetRegs f.imm).map Reg.q) ∧
      ∀ r : Reg, t.me.value r = (match r with
        | .q n => if f.imm.getLsbD n.val then (if f.imm.getLsbD (8 + n.val) then 1 else 0) else s.me.value (.q n)
        | r => s.me.value r) ∧
        t.me.full r = (match r with
          | .q n => f.imm.getLsbD n.val || s.me.full (.q n)
          | r => s.me.full r)) ∧
  (∀ (f : Fields) (s : State), ReadyF f s →
    ∃ t, exec (.clr f) s = .next t ∧ RegistersOnly s t ∧ Emptied s t f.dst ∧ ∀ r, t.me.value r = s.me.value r) ∧
  ∀ (f : Fields) (s : State), Ready f.guard [] [] [] s →
    ∃ t, exec (.nop f) s = .next t ∧ RegistersOnly s t ∧ t.me.regs = s.me.regs)

/-- R48: an instruction that is no engine command and whose guard is full and unspoilt and does not let it execute has
no effect but to go on: it reads no source and takes no trap. One whose guard is empty waits, and the PC stays. R16:
with its guard passed, an instruction that reads three source fields and whose first empty source is not marked to
trap waits, its PC and registers unchanged, or retires CANCELLED when a cancel has reached it (R248); one that is
marked traps EMPTY_READ with the register and the operand's position. R283: an operation of class 0x0 or 0x1 or a
comparison or guard operation that cannot trap otherwise, ready but for a register among those it reads whose contents
an uncorrectable error has spoilt, traps UNCORRECTABLE. That a result on its way is looked for before an empty source
is the model's reading (log 46). -/
def Obligations.GuardsAndEmptySourcesDecide : Prop :=
  (∀ (g : Guard) (s : State), s.me.live = true →
    (guardTest g s.me = some false → .q g.q ∉ s.me.spoiled →
      (∀ e ∈ coreLocal, ∀ f : Fields, f.guard = g → exec (e f) s = .next (s.advance s.cur)) ∧
      ∀ f : LFields, f.guard = g → exec (.movi f) s = .next (s.advance s.cur)) ∧
    (guardTest g s.me = none →
      (∀ e ∈ coreLocal, ∀ f : Fields, f.guard = g → exec (e f) s = .next (s.waitFor s.cur (.reg (.q g.q)))) ∧
      ∀ f : LFields, f.guard = g → exec (.movi f) s = .next (s.waitFor s.cur (.reg (.q g.q))))) ∧
  (∀ i ∈ sourceReaders, ∀ (f : Fields) (s : State) (n : Nat) (x : Src),
    s.me.live = true → guardTest f.guard s.me = some true → s.me.landing (sourceRegs f) = false →
    firstEmpty s.me (sourcesOf f) = some (n, x) →
    (x.trap = true → exec (i f) s = .next (s.takeTrap s.cur 0x08 s.me.pc 0 (w64 (x.reg.spec.toNat + n * 256)))) ∧
    (x.trap = false →
      (s.me.canp = false →
        ∃ t, exec (i f) s = .next t ∧ t.me = { s.me with wait := .reg x.reg, loom := .waiting } ∧ SameTasks s t ∧
          t = { s with tasks := t.tasks }) ∧
      (s.me.canp = true → exec (i f) s = .next (s.cancelTask s.cur)))) ∧
  ∀ i ∈ widthRule.map (·.1) ++ floatRule.map (·.1) ++ guardRule.map (·.1), ∀ (f : Fields) (s : State) (r : Reg),
    s.me.live = true → guardTest f.guard s.me = some true → (∀ x ∈ sourcesOf f, s.me.full x.2.reg = true) →
    s.me.landing (sourceRegs f) = false → s.pendingOn s.cur f.dst = false →
    r ∈ s.me.spoiled → r ∈ readRegs f.guard (sourcesOf f) [] →
    exec (i f) s = .next (s.takeTrap s.cur 0x40 s.me.pc 0 0)

/-! Control and memory. -/

/-- R36, R39, R117, R118: BR, CALL and LOOP transfer to their branch target, JMP, CALLR and RET to s[SA] as it was read;
CALL and CALLR first write the PC of the next instruction into s[DST], and LOOP s[DST] less 1, at 0 of which it goes on to
the next instruction. A transfer whose target can be fetched as one goes on there, and nothing else changes. One whose
target cannot be fetched as one traps with the target as the PC, the information names the transfer (R268, R272), and its
register write stands. One whose target's translation is not held waits for the walk with the target as its PC, its check
still to be made (R280). -/
def Obligations.TransfersGoToTheirTarget : Prop :=
  ∀ e ∈ transferRule, ∀ (f : Fields) (s : State) (srcs : List (Nat × Src)) (more outs : List Reg) (target : Word)
    (link : Option Word) (l : State),
    e.2 f s = (srcs, more, outs, target, link) → Ready f.guard srcs more outs s → (link.isSome = true → NotGuard f.dst) →
    l = (match link with
      | some x => (s.working f.guard srcs more).put f.dst x
      | none => s.working f.guard srcs more) →
    (e.1 f = .loop f → link = some 0 → ∃ t, exec (e.1 f) s = .next t ∧ RegistersOnly s t ∧ WroteW s t f.dst 0) ∧
    ((e.1 f = .loop f → link ≠ some 0) →
      (∀ w lw, l.fetchAt l.me target true = .got w lw →
        ∃ t, exec (e.1 f) s = .next t ∧ GoesTo s t target ∧
          t.me.regs = match link with
            | some x => (s.me.regs.setValue f.dst (x.setWidth 2048)).setFull f.dst true
            | none => s.me.regs) ∧
      (∀ c a i, l.fetchAt l.me target true = .trap c a i →
        exec (e.1 f) s = .next (l.takeTrap s.cur c target a (tgtInfo i (w64 (slotIndex s.me.pc))))) ∧
      ∀ va, l.fetchAt l.me target true = .miss va →
        ∃ t, exec (e.1 f) s = .next t ∧ SameTasks s t ∧ SameCores s t ∧
          t = { s with tasks := t.tasks, cores := t.cores, walks := t.walks } ∧ t.me.pc = target ∧ t.me.regs = l.me.regs ∧
          t.me.tgt = some (w64 (slotIndex s.me.pc)) ∧ t.me.wait = .walk (va / 65536) ∧
          ∃ w ∈ t.walks, w.lease = s.me.lease ∧ w.page = va / 65536 ∧
            .fetch s.cur target (some (w64 (slotIndex s.me.pc))) ∈ w.who)

/-- R122, R126 to R129: a checked LD, LDV or LDG elsewhere than its core's own banks, and every LDG, sends its
request, empties DST and goes on; LD and LDV in the core's own banks, once no earlier access of the task that they
must follow is on its way, leave DST full, with the value of those bytes to land after a fixed latency, or, where an
uncorrectable error lies in one of those bytes, trap UNCORRECTABLE with its address (R283). R130: LDT of an origin
inside its pattern sends one request for the elements that exist, at their places in a v[DST] that is zero elsewhere;
an empty or FP64 pattern, an origin outside it, or more elements than v[DST] holds trap BOUNDS. That a value from the
core's own banks is read at issue and lands later is the model's reading (log 14); the order of an access's parts is
the model's choice (log 17). -/
def Obligations.LoadsComplete : Prop :=
  (∀ e ∈ loadRule, ∀ (f : Fields) (s : State) (parts : List Part), ReadyF f s →
    Cleared (s.workingF f) .read (e.2 f s).1 (e.2 f s).2.1 parts →
    ((ownBanks s.me parts = false ∨ (e.2 f s).2.2.1 = true) →
      ∃ t, exec (e.1 f) s = .next t ∧ SentOn s t (.access ((e.2 f s).2.2.2 parts)) ∧ GoesOn s t (nextPc s.me.pc) ∧
        Emptied s t f.dst) ∧
    (ownBanks s.me parts = true → (e.2 f s).2.2.1 = false →
      (s.workingF f).heldBack s.cur s.seq (ordOf f.mod) false parts = false →
      (parts.find? (fun p => s.isMarked p.loc p.size) = none →
        ∃ t, exec (e.1 f) s = .next t ∧ t.me.regs = s.me.regs ∧
          RegistersOnly (s.onMe fun m => { m with
            fixed := if f.dst = .s 0 then m.fixed else m.fixed ++ [(f.dst, ((e.2 f s).2.2.2 parts).fromPad s.spad)] }) t) ∧
      ∀ p, parts.find? (fun p => s.isMarked p.loc p.size) = some p →
        exec (e.1 f) s = .next (s.takeTrap s.cur 0x40 s.me.pc p.loc.va 0))) ∧
  (∀ (f : Fields) (s : State), ReadyF f s → ∀ p, p = s.pat s.me.lease (pxOf f) →
    ∀ c, c = ldtCase p (s.sa f).toNat (s.sb f).toNat (bits (s.sc f) 31 0) (bits (s.sc f) 63 32) (fld f.imm 9 0) →
    (∀ n, c = .error n → exec (.ldt f) s = .next (s.takeTrap s.cur 0x1A s.me.pc 0 (w64 (pxOf f + n * 256)))) ∧
    ∀ n parts, c = .ok n →
      Cleared (s.workingF f) .read anyAlign
        (ldtReqs p (s.sa f).toNat (s.sb f).toNat (bits (s.sc f) 31 0) (bits (s.sc f) 63 32) n) parts →
      ∃ t, exec (.ldt f) s = .next t ∧ GoesOn s t (nextPc s.me.pc) ∧ Emptied s t f.dst ∧
        SentOn s t (.access
          { kind := .load, parts := parts.map fun q => { q with off := if patBits p = 4 then q.off else q.off * patBytes p }
            value := 0, data := 0, operand := if patBits p = 4 then w64 (1 + (s.sa f).toNat % 2) else 0, dst := some f.dst
            bytes := 256, signed := false, lanes := 0, ord := ordOf f.mod }))

/-- R122, R126 to R129: a checked ST, STV or STG elsewhere than its core's own banks sends its bytes and goes on; in
the core's own banks, once no earlier access of the task that it must follow is on its way, its bytes are in place at
once, the later of two lanes winning, and every other byte is as before. STG with a mask of zeros stores nothing;
R128: STV with a mask of zeros performs no part and takes no trap, whatever its address. That a store to the core's
own banks is in place at issue is the model's reading (log 14); the order of an access's parts is the model's choice
(log 17). -/
def Obligations.StoresComplete : Prop :=
  (∀ e ∈ storeRule, ∀ (f : Fields) (s : State) (parts : List Part),
    Ready f.guard (sourcesOf f) (e.2 f s).1 (e.2 f s).2.1 s → s.spad.wf = true →
    Cleared (s.working f.guard (sourcesOf f) (e.2 f s).1) .write (e.2 f s).2.2.1 (e.2 f s).2.2.2 parts →
    (parts ≠ [] → ownBanks s.me parts = false →
      ∃ t, exec (e.1 f) s = .next t ∧ SentOn s t (.access (Access.store parts (s.me.value f.c.reg) (ordOf f.mod))) ∧
        GoesOn s t (nextPc s.me.pc) ∧ t.me.regs = s.me.regs) ∧
    (ownBanks s.me parts = true →
      (s.working f.guard (sourcesOf f) (e.2 f s).1).heldBack s.cur s.seq (ordOf f.mod) true parts = false →
      ∃ t, exec (e.1 f) s = .next t ∧ t = { s with tasks := t.tasks, cores := t.cores, spad := t.spad } ∧
        SameTasks s t ∧ SameCores s t ∧ GoesOn s t (nextPc s.me.pc) ∧ t.me.regs = s.me.regs ∧
        ∀ a, t.spad.get a = (storedAt parts (s.me.value f.c.reg) a).getD (s.spad.get a))) ∧
  (∀ (f : Fields) (s : State), Ready f.guard (sourcesOf f) [f.dst] [] s → maskOf s.me f.dst = 0 →
    (∃ t, exec (.stv f) s = .next t ∧ RegistersOnly s t ∧ t.me.regs = s.me.regs) ∧
    ∃ t, exec (.stg f) s = .next t ∧ RegistersOnly s t ∧ t.me.regs = s.me.regs)

/-- R131: PREF completes whatever its address, and only lines, cached translations and read marks move: no register,
scratchpad byte or tag changes, and a byte at its home changes only to what an evicted line held. A checked CLEAN or INVAL
at a location that uses the L1 sends, for the line or the lines of the granule that it names, a request to clean or to
remove them, and goes on; at a window, a COHERENT or a REDUCE page it only goes on. -/
def Obligations.CacheInstructionsComplete : Prop :=
  ∀ (f : Fields) (s : State), ReadyF f s →
    (s.memWf = true → ∃ t, exec (.pref f) s = .next t ∧ SameTasks s t ∧ GoesOn s t (nextPc s.me.pc) ∧ t.me.regs = s.me.regs ∧
      LinesMoved s t s.me.core) ∧
    ∀ (p : Part) (ps : List Part), Cleared (s.workingF f) .none anyAlign [Req.plain (effAddr f s) 1 0 0] (p :: ps) →
      ((p.loc.space = .spad ∨ p.loc.space = .mem 3 ∨ p.loc.space = .mem 4 ∨ p.loc.space = .host 3) →
        (∃ t, exec (.clean f) s = .next t ∧ RegistersOnly s t ∧ t.me.regs = s.me.regs) ∧
        ∃ t, exec (.inval f) s = .next t ∧ RegistersOnly s t ∧ t.me.regs = s.me.regs) ∧
      (¬ (p.loc.space = .spad ∨ p.loc.space = .mem 3 ∨ p.loc.space = .mem 4 ∨ p.loc.space = .host 3) →
        ∀ e ∈ [(Instr.clean, false), (Instr.inval, true)],
          ∃ t, exec (e.1 f) s = .next t ∧ GoesOn s t (nextPc s.me.pc) ∧ t.me.regs = s.me.regs ∧
            SentOn s t (.access
              { kind := .clean e.2, parts := (cacheLines f p.loc).map fun ln => ⟨{ p.loc with addr := ln * 64 }, 64, 0⟩
                value := 0, data := 0, operand := 0, dst := none, bytes := 0, signed := false, lanes := 0, ord := 0 }))

/-- R133, R134: an LDF or LDFF of a full, unspoilt word, or an STE of an empty one, for which nobody waits, completes
by its request and its answer: the load's DST holds the word and LDF leaves F = 0 where LDFF leaves it 1; the store's
word holds s[SC] and F = 1; K is as before, and the task is at the next instruction. R133 to R135: a checked LDF, LDFF
or STE that no cancel has reached sends its request and issues nothing further until it has performed; STE first
publishes. R133: STF writes the word and sets F, SETE clears F and keeps the word, PROBE answers F and K, or traps
UNCORRECTABLE where the word is spoilt (R283), each in the same step and without waiting, once no earlier access of
the task that it must follow is on its way; where nobody waits for the word no other word or tag changes. What a full
list returns, and that an older request that could perform goes first, is the model's reading (log 49). -/
def Obligations.TaggedOperationsComplete : Prop :=
  (∀ (f : Fields) (s : State) (p : Part) (ps : List Part), ReadyF f s → NotGuard f.dst → s.me.canp = false →
    s.me.inRecord = false → Quiet s (coreEnd (coreOfKey p.loc.addr)) 0 → Quiet s (coreEnd s.me.core) 1 →
    (∀ w ∈ s.bank, w.loc.addr ≠ p.loc.addr) →
    (∀ e ∈ [(Instr.ldf, false), (Instr.ldff, true)],
      Cleared (s.workingF f) (.tagged !e.2) taggedAlign [Req.plain (effAddr f s) 8 0 0] (p :: ps) →
      (s.workingF f).heldBack s.cur s.seq (ordOf f.mod) false [⟨p.loc, 8, 0⟩] = false → s.tagF p.loc.addr = true →
      p.loc.addr / 8 ∉ s.spoilt →
      ∃ t u v, exec (e.1 f) s = .next t ∧ exec (.taggedRequest s.seq) t = .next u ∧
        exec (.valueLands s.seq) u = .next v ∧ CompletedWith s v f.dst (w64 (s.spad.num p.loc.addr 8)) ∧
        v.spad = s.spad ∧ v.tagF p.loc.addr = e.2 ∧ v.tagK p.loc.addr = s.tagK p.loc.addr ∧
        ∀ a, a ≠ p.loc.addr → v.tagF a = s.tagF a ∧ v.tagK a = s.tagK a) ∧
    ∀ rows w, (s.workingF f).check (s.workingF f).me s.cur (.tagged true) taggedAlign [Req.plain (effAddr f s) 8 0 0] =
        .ok (p :: ps, rows) →
      Released (if rows.isEmpty then s.workingF f else (s.workingF f).keepRows s.me.core rows) w →
      s.tagF p.loc.addr = false →
      ∃ t u v, exec (.ste f) s = .next t ∧ exec (.taggedRequest w.seq) t = .next u ∧
        exec (.storeAcknowledged w.seq) u = .next v ∧ v.me.pc = nextPc s.me.pc ∧ v.me.wait = .no ∧ v.me.regs = s.me.regs ∧
        v.spad = s.spad.putNum p.loc.addr 8 (s.sc f).toNat ∧ v.tagF p.loc.addr = true ∧
        v.tagK p.loc.addr = s.tagK p.loc.addr ∧ ∀ a, a ≠ p.loc.addr → v.tagF a = s.tagF a ∧ v.tagK a = s.tagK a) ∧
  (∀ (f : Fields) (s : State) (p : Part) (ps : List Part), ReadyF f s → s.me.canp = false →
    ((s.workingF f).heldBack s.cur s.seq (ordOf f.mod) false [⟨p.loc, 8, 0⟩] = false →
      (Cleared (s.workingF f) (.tagged true) taggedAlign [Req.plain (effAddr f s) 8 0 0] (p :: ps) →
        ∃ t, exec (.ldf f) s = .next t ∧ Awaits s t ∧ SentOn s t (.tagged .ldf p.loc f.dst (s.sc f) true)) ∧
      (Cleared (s.workingF f) (.tagged false) taggedAlign [Req.plain (effAddr f s) 8 0 0] (p :: ps) →
        ∃ t, exec (.ldff f) s = .next t ∧ Awaits s t ∧ SentOn s t (.tagged .ldff p.loc f.dst (s.sc f) true))) ∧
    ∀ rows w, (s.workingF f).check (s.workingF f).me s.cur (.tagged true) taggedAlign [Req.plain (effAddr f s) 8 0 0] =
        .ok (p :: ps, rows) →
      Released (if rows.isEmpty then s.workingF f else (s.workingF f).keepRows s.me.core rows) w →
      ∃ t, exec (.ste f) s = .next t ∧ Awaits w t ∧ SentOn w t (.tagged .ste p.loc (.s 0) (s.sc f) false)) ∧
  (∀ (f : Fields) (s : State) (p : Part) (ps : List Part), ReadyF f s →
    (Cleared (s.workingF f) (.tagged false) taggedAlign [Req.plain (effAddr f s) 8 0 0] (p :: ps) →
      (s.isMarked p.loc 8 = true → exec (.probe f) s = .next (s.takeTrap s.cur 0x40 s.me.pc p.loc.va 0)) ∧
      (s.isMarked p.loc 8 = false → (s.workingF f).heldBack s.cur s.seq (ordOf f.mod) false [⟨p.loc, 8, 0⟩] = false →
        NotGuard f.dst →
        ∃ t, exec (.probe f) s = .next t ∧ RegistersOnly s t ∧
          WroteW s t f.dst (w64 (bit (s.tagF p.loc.addr) + 2 * bit (s.tagK p.loc.addr))))) ∧
    (Cleared (s.workingF f) (.tagged true) taggedAlign [Req.plain (effAddr f s) 8 0 0] (p :: ps) →
      (s.workingF f).heldBack s.cur s.seq (ordOf f.mod) true [⟨p.loc, 8, 0⟩] = false →
      (∀ w ∈ s.bank, w.loc.addr ≠ p.loc.addr) →
      (∃ t, exec (.stf f) s = .next t ∧ GoesOn s t (nextPc s.me.pc) ∧ t.me.regs = s.me.regs ∧ SameTasks s t ∧ SameCores s t ∧
        t = { s with tasks := t.tasks, cores := t.cores, spad := s.spad.putNum p.loc.addr 8 (s.sc f).toNat, tags := t.tags } ∧
        t.tagF p.loc.addr = true ∧ t.tagK p.loc.addr = s.tagK p.loc.addr ∧
        ∀ a, a ≠ p.loc.addr → t.tagF a = s.tagF a ∧ t.tagK a = s.tagK a) ∧
      ∃ t, exec (.sete f) s = .next t ∧ GoesOn s t (nextPc s.me.pc) ∧ t.me.regs = s.me.regs ∧ SameTasks s t ∧ SameCores s t ∧
        t = { s with tasks := t.tasks, cores := t.cores, tags := t.tags } ∧
        t.tagF p.loc.addr = false ∧ t.tagK p.loc.addr = s.tagK p.loc.addr ∧
        ∀ a, a ≠ p.loc.addr → t.tagF a = s.tagF a ∧ t.tagK a = s.tagK a))

/-- R137, R138, R140: a checked atomic sends its operation, operands and width to its location, empties DST when that is
not s0, and goes on. -/
def Obligations.AtomicsComplete : Prop :=
  ∀ e ∈ atomicTable, ∀ (f : Fields) (s : State) (parts : List Part), ReadyF f s →
    Cleared (s.workingF f) (.atomic e.2.1 (f.dst == .s 0)) atomicAlign [atomicReq f (e.2.2 f s)] parts →
    ∃ t, exec (e.1 f) s = .next t ∧ GoesOn s t (nextPc s.me.pc) ∧ Emptied s t f.dst ∧
      SentOn s t (.access ⟨.atomic e.2.1, parts, 0, (s.sb f).setWidth 2048, s.sc f, some f.dst, widBytes f.mod,
        f.mod.getLsbD 3, 0, ordOf f.mod⟩)

/-- R143, R144, R298, R300: FENCE goes on once every access of the task has performed, and waits before; REL sends its
release and goes on; ACQ, once the task's releases have completed, leaves of the PHASED lines in the core's L1 only
unpublished bytes, and what the task does later follows its earlier accesses; before that it waits; PHASE publishes
and then does the same, so that no PHASED line is left. R298: at every release point, once the task's accesses have
performed and its releases have completed, no PHASED line of the core's L1 is left with an unpublished byte, a byte at
its home changes only to what such a line held, and no task, register, scratchpad byte or tag changes. That FENCE
waits for every access whatever its scope is the model's choice (log 16); when a release point publishes is its
reading (log 20). -/
def Obligations.OrderingInstructionsComplete : Prop :=
  (∀ (f : Fields) (s : State), Ready f.guard [] [] [] s →
    (s.unperformed s.cur = false → ∃ t, exec (.fence f) s = .next t ∧ RegistersOnly s t ∧ t.me.regs = s.me.regs) ∧
    (s.unperformed s.cur = true → s.me.canp = false → ∃ t, exec (.fence f) s = .next t ∧ Waits s t .place) ∧
    (∃ t, exec (.rel f) s = .next t ∧ SentOn s t .release ∧ GoesOn s t (nextPc s.me.pc) ∧ t.me.regs = s.me.regs) ∧
    (s.releasing s.cur = false → ∃ t, exec (.acq f) s = .next t ∧ RegistersOnly s t ∧ t.me.regs = s.me.regs ∧
      Acquired s t ∧ ∀ e ∈ (t.core s.me.core).l1, e.attr = 2 → e.dirty ≠ 0 ∧ e.valid &&& ~~~e.dirty = 0) ∧
    (s.releasing s.cur = true → s.me.canp = false → ∃ t, exec (.acq f) s = .next t ∧ Waits s t .place) ∧
    ∀ w, Released (s.working f.guard [] []) w →
      ∃ t, exec (.phase f) s = .next t ∧ RegistersOnly w t ∧ t.me.regs = s.me.regs ∧ Acquired w t ∧
        ∀ e ∈ (t.core s.me.core).l1, e.attr ≠ 2) ∧
  ∀ s w : State, s.memWf = true → Released s w →
    s.unperformed s.cur = false ∧ s.releasing s.cur = false ∧ LinesMoved s w s.me.core ∧ w.tasks = s.tasks ∧
    ∀ e ∈ (w.core s.me.core).l1, e.attr = 2 → e.dirty = 0

/-! Engines: what their commands do at issue. -/

/-- R46, R49, R89, R148, R149, R184, R298: GET, PUT, LAYOUT, CFILL, PERMIT and TMV join the end of their queue when it has
room for the job and for the task, after a release point, with their operands, pattern entries, seed and mode as they
are now, and held when their guard is empty; with no room they wait. R48, R49, R146: an engine command whose guard is
full and does not let it execute is not enqueued: its token register receives DISCARDED, and nothing else changes. R156:
CQUERY with its guard passed and no held command of its task before it answers at once, without entering the queue, with the
commands of its task, the free places and the returned permits of its core, whose counter it clears; with its guard empty, or
behind a held command of its task, it is enqueued. That CQUERY with its guard passed answers at once is the model's reading
(log 30); when a release point publishes is its reading (log 20),
and so is that PRIVATE lines are written back then (log 53). -/
def Obligations.EngineCommandsIssue : Prop :=
  (∀ e ∈ queueRule, ∀ (f : Fields) (s : State), EngineReady f s →
    ((s.jobs (e.2.2.1 s)).length < e.2.2.2.1 → jobsOf (s.jobs (e.2.2.1 s)) s.cur < e.2.2.2.2 →
      ∀ w, Released (s.touch (sourceRegs f)) w →
        ∃ t, exec (e.1 f) s = .next t ∧ Enqueued w t (e.2.2.1 s) (w.newCommand f e.2.1 (holdOf f s))) ∧
    ((e.2.2.2.1 ≤ (s.jobs (e.2.2.1 s)).length ∨ e.2.2.2.2 ≤ jobsOf (s.jobs (e.2.2.1 s)) s.cur) → s.me.canp = false →
      ∃ t, exec (e.1 f) s = .next t ∧ Waits s t .place)) ∧
  (∀ e ∈ engineRule, ∀ (f : Fields) (s : State), s.me.live = true → guardTest f.guard s.me = some false →
    .q f.guard.q ∉ s.me.spoiled → s.pendingOn s.cur f.dst = false → NotGuard f.dst →
    ∃ t, exec (e f) s = .next t ∧ RegistersOnly s t ∧ WroteW s t f.dst 0x80) ∧
  (∀ (f : Fields) (s : State), EngineReady f s → NotGuard f.dst →
    (holdOf f s = none → heldBefore (s.jobs (.copy s.me.pos)) s.cur s.seq = false →
      ∃ t, exec (.cquery f) s = .next t ∧ WroteW s t f.dst (cqueryWord s s.cur) ∧ GoesOn s t (nextPc s.me.pc) ∧
        SameTasks s t ∧ t = { s with tasks := t.tasks, cores := t.cores } ∧ (t.core s.me.core).retp = 0 ∧
        ∀ k, t.core k = { s.core k with l1 := (t.core k).l1, rows := (t.core k).rows, retp := (t.core k).retp } ∧
          KeepsDirty s t k ∧ (k ≠ s.me.core → (t.core k).retp = (s.core k).retp)) ∧
    ((holdOf f s).isSome = true ∨ heldBefore (s.jobs (.copy s.me.pos)) s.cur s.seq = true →
      (s.jobs (.copy s.me.pos)).length < 64 → jobsOf (s.jobs (.copy s.me.pos)) s.cur < 16 →
      ∀ w, Released (s.touch (sourceRegs f)) w →
        ∃ t, exec (.cquery f) s = .next t ∧ Enqueued w t (.copy s.me.pos) (w.newCommand f .cquery (holdOf f s))))

/-- R153, R154: a PUSH whose destination no permit of its task covers traps PERMIT_NONE at its first destination byte;
one that a permit with a count covers joins the queue with that permit, whose count goes down by 1, and nothing else
changes. Of several permits that cover it the first of the table is taken, the model's choice (log 51). -/
def Obligations.PushTakesAPermit : Prop :=
  ∀ (f : Fields) (s : State), EngineReady f s → ∀ w0, w0 = s.touch (sourceRegs f) →
    ((s.cluster (s.cur / 65536)).permits.find? (fun p => p.covers s.cur (pushSpan w0 f)) = none →
      exec (.push f) s = .next (s.takeTrap s.cur 0x27 s.me.pc
        (w64 (boxSpan (w0.newCommand f .push none).py (dstBox (w0.newCommand f .push none))).1) 0)) ∧
    ∀ p, (s.cluster (s.cur / 65536)).permits.find? (fun p => p.covers s.cur (pushSpan w0 f)) = some p →
      (s.jobs (.copy s.me.pos)).length < 64 → jobsOf (s.jobs (.copy s.me.pos)) s.cur < 16 →
      ∀ w, Released w0 w →
        ∃ t u, exec (.push f) s = .next t ∧
          Enqueued w u (.copy s.me.pos) { w.newCommand f .push (holdOf f s) with permit := some p } ∧
          t = { u with clusters := t.clusters } ∧
          (∀ q, t.cluster q = { u.cluster q with permits := (t.cluster q).permits }) ∧
          (∀ q, q ≠ s.cur / 65536 → (t.cluster q).permits = (s.cluster q).permits) ∧
          (t.cluster (s.cur / 65536)).permits =
            listUpdate (fun x => x.idx == p.idx && x.granter == p.granter && x.first == p.first && x.last == p.last)
              (fun x => { x with count := x.count - 1 }) (s.cluster (s.cur / 65536)).permits

/-- R174, R179, R186, R268: MLDB, MMA, MZERO, MRDZ, MWRZ, MSCALE and MREL of the holder of the accumulators join the
slice's queue of 8 after a release point; of any other task they trap ACC_BUSY; an MSCALE by a scale that is not a
positive finite number traps SCALE_INVALID; every matrix command finding the queue full waits. R176: an MGANG with no
earlier matrix command of its task is refused when the core has a holder or a pending MGANG, or its own core is not in the
mask; for its own core alone it forms a gang at once, with the accumulators undefined and the buffers empty; for several
cores it becomes the core's pending one; behind other commands, or held, it is enqueued. R177: an MREL of a task whose
MGANG is pending withdraws it, whose token receives DISCARDED; behind other commands, or held, it is enqueued. Commands
that end so end a chunk of a recorded run (R345, R346). That a full queue is looked for before the holder is the model's choice (log 51); that a command with no earlier one acts at issue is
its reading (log 30), and when a release point publishes (log 20); undefined accumulators hold free values (log 3). -/
def Obligations.MatrixCommandsIssue : Prop :=
  (∀ e ∈ matrixRule, ∀ (f : Fields) (s : State), EngineReady f s →
    ((s.core s.me.core).queue.length < 8 → s.holds s.cur = true → e.2.2 f s = true →
      ∀ w, Released (s.touch (sourceRegs f)) w →
        ∃ t, exec (e.1 f) s = .next t ∧
          Enqueued w t (.slice s.me.core) { w.newCommand f e.2.1 (holdOf f s) with acc := zOf f }) ∧
    ((s.core s.me.core).queue.length < 8 → s.holds s.cur = false → (e.1 f = .mrel f → s.gangPending s.cur = false) →
      exec (e.1 f) s = .next (s.takeTrap s.cur 0x26 s.me.pc 0 (zSpec f)))) ∧
  (∀ e ∈ Instr.mgang :: matrixRule.map (·.1), ∀ (f : Fields) (s : State), EngineReady f s →
    8 ≤ (s.core s.me.core).queue.length → s.me.canp = false → ∃ t, exec (e f) s = .next t ∧ Waits s t .place) ∧
  (∀ (f : Fields) (s : State), EngineReady f s → (s.core s.me.core).queue.length < 8 → s.holds s.cur = true →
    (validScale (bits (s.sa f) 31 0) && validScale (bits (s.sb f) 31 0)) = false →
    exec (.mscale f) s = .next (s.takeTrap s.cur 0x19 s.me.pc 0 (w64 (bits (s.sa f) 31 0 + bits (s.sb f) 31 0 <<< 32)))) ∧
  (∀ (f : Fields) (s w : State) (m : BitVec 8) (k : Nat), m = BitVec.ofNat 8 (exOf f) → k = s.me.core → EngineReady f s →
    (s.core k).queue.length < 8 → NotGuard f.dst → Released (s.touch (sourceRegs f)) w →
    (holdOf f s = none → (s.core k).queue.all (fun c => c.task != s.cur) = true →
      ((s.core k).holder ≠ none ∨ (s.core k).pending ≠ none →
        ∃ t, exec (.mgang f) s = .next t ∧ ActsAtIssue w t [s.me.enqueued] ∧ WroteW s t f.dst 0x26 ∧ t.core k = w.core k) ∧
      ((s.core k).holder = none → (s.core k).pending = none → m.getLsbD (k % 8) = false →
        ∃ t, exec (.mgang f) s = .next t ∧ ActsAtIssue w t [s.me.enqueued] ∧ WroteW s t f.dst 0x1A ∧ t.core k = w.core k) ∧
      ((s.core k).holder = none → (s.core k).pending = none → maskList 8 m.toNat = [k % 8] →
        ∃ t, exec (.mgang f) s = .next t ∧ ActsAtIssue w t [s.me.enqueued] ∧ WroteW s t f.dst 0 ∧
          t.core k = { w.core k with
            holder := some s.cur, gang := m, gangStep := 0, broken := false, pending := none
            pendingOrdinal := s.me.enqueued, release := false
            buf := Vector.replicate 2 none, acc := Vector.replicate 2 (Acc.fresh s.fresh) }) ∧
      ((s.core k).holder = none → (s.core k).pending = none → m.getLsbD (k % 8) = true → maskList 8 m.toNat ≠ [k % 8] →
        ∃ t, exec (.mgang f) s = .next t ∧ ActsAtIssue w t [] ∧ Emptied s t f.dst ∧
          t.core k = { w.core k with pending := some (s.cur, m, f.dst), pendingOrdinal := s.me.enqueued })) ∧
    ((holdOf f s ≠ none ∨ (s.core k).queue.all (fun c => c.task != s.cur) = false) →
      ∃ t, exec (.mgang f) s = .next t ∧
        Enqueued w t (.slice k) { w.newCommand f .mgang (holdOf f s) with acc := zOf f })) ∧
  ∀ (f : Fields) (s w : State) (d : Reg), EngineReady f s → (s.core s.me.core).queue.length < 8 →
    NotGuard f.dst → NotGuard d → s.gangToken s.cur = some d → Released (s.touch (sourceRegs f)) w →
    (holdOf f s = none → (s.core s.me.core).queue.all (fun c => c.task != s.cur) = true →
      ∃ t, exec (.mrel f) s = .next t ∧ ActsAtIssue w t [s.gangOrdinal s.cur, s.me.enqueued] ∧
        t.me.regs = (((s.me.regs.setValue d 0x80).setFull d true).setValue f.dst 0).setFull f.dst true ∧
        (∀ j, t.core j = { w.core j with pending := (t.core j).pending }) ∧ t.gangPending s.cur = false ∧
        ∀ j i m r, i ≠ s.cur → ((t.core j).pending = some (i, m, r) ↔ (s.core j).pending = some (i, m, r))) ∧
    ((holdOf f s ≠ none ∨ (s.core s.me.core).queue.all (fun c => c.task != s.cur) = false) →
      ∃ t, exec (.mrel f) s = .next t ∧
        Enqueued w t (.slice s.me.core) { w.newCommand f .mrelPending (holdOf f s) with acc := zOf f })

/-! Tasks and futures. -/

/-- R190 to R196, R234: a SPAWN or SPAWNG whose argument block, placement and checks allow it makes a PENDING entry
bound to its first child, puts the handle into DST and onto the task's child list, and queues the child at its home
cluster with s[SA] as its PC, the priority it names, its parent's version and the handle as its own; no other task
that lives changes, and no tag. R191, R194, R234: FNEW makes a PENDING entry without a task and puts its handle into
DST; with no free index it traps SPOOL_QUOTA with 2, and with an index but no room for a body with 0. The child's task
index and the cluster of `.any` are free values (log 7); what its argument copy holds beyond the counts is the model's
choice (log 25), and that one grid takes one sub-version its reading (log 26). -/
def Obligations.SpawnsAndNewFuturesComplete : Prop :=
  (∀ (f : Fields) (s w x : State) (args : ArgBlock) (grid : Bool) (ms : List Member) (m : Member) (rest : List Member)
    (y z b : State) (h : Word) (key id : Nat) (g : BitVec 7),
    ReadyF f s → NotGuard f.dst → s.me.canp = false → Released (s.workingF f) w →
    (∀ work, withArgs f.b.reg work w = work args x) → args.bad = none → x.tasks = w.tasks → x.cur = w.cur → x.tags = w.tags → ms = m :: rest →
    (if grid then
      ¬ (patEmpty (x.pat s.me.lease (pxOf f)) ∨ fld (x.pat s.me.lease (pxOf f)) 63 56 = 0x15 ∨
        patTrows (x.pat s.me.lease (pxOf f)) = 0 ∨ patTcols (x.pat s.me.lease (pxOf f)) = 0 ∨
        4096 < gridMembers (x.pat s.me.lease (pxOf f))) ∧
      gridList f x (x.pat s.me.lease (pxOf f)) (gridMembers (x.pat s.me.lease (pxOf f))) 0 = some ms ∧
      y = { x with fresh := x.fresh + gridMembers (x.pat s.me.lease (pxOf f)) }
    else (∃ p, placement f x (s.sc f) = some p ∧ m = ⟨p, zero4, zero4⟩) ∧ rest = [] ∧ y = x.freshen) →
    spawnRefused y (childSub f y).1 (childSub f y).2 (ms.map (·.pos)) = none →
    (y.takeSub (childSub f y).2).1.allocate s.me.lease (dieOf s.me.pos) (fld f.imm 11 0)
      { Entry.free with live := true, grid := grid, members := if grid then ms.length else 0, total := ms.length, ver := s.me.ver
                        bsub := (y.takeSub (childSub f y).2).2 } = some (z, h, key) →
    z.takeIndex m.pos = some (b, id, g) →
    ∃ t, exec (if grid then .spawng f else .spawn f) s = .next t ∧ t.me.regs = (s.me.regs.setValue f.dst (h.setWidth 2048)).setFull f.dst true ∧
      GoesOn (s.onMe fun n => { n with children := n.children ++ [h], childBlocks := t.me.childBlocks }) t (nextPc s.me.pc) ∧
      (∀ j, j ≠ s.cur → (s.task j).live = true → t.task j = s.task j) ∧ t.tags = s.tags ∧
      (t.entry key).state = .pending ∧ (t.entry key).bound = id ∧ (t.entry key).grid = grid ∧
      (t.entry key).members = (if grid then ms.length else 0) ∧ (t.entry key).live = true ∧
      (t.task id).live = true ∧ (t.task id).pc = s.sa f ∧ (t.task id).prio = BitVec.ofNat 2 (fld f.mod 5 4) ∧
      (t.task id).ver = s.me.ver ∧ (t.task id).self = h ∧ (t.task id).parent = s.me.self ∧ (t.task id).pos = m.pos ∧
      (t.task id).regs = argRegs args.scalars ∧ (t.task id).org = m.org ∧ (t.task id).ext = m.ext ∧
      (t.task id).loom = (if args.tiles = [] then .ready else .queued)) ∧
  (∀ (f : Fields) (s : State), ReadyF f s → NotGuard f.dst →
    ∀ l die, l = s.lease s.me.lease → die = dieOf s.me.pos →
    (1 ≤ s.freeCount l die → ∀ i, s.freeIndex l die = some i →
      (s.resident l die < l.quota ∨ (s.victim l die []).isSome = true) →
      ∃ t, exec (.fnew f) s = .next t ∧ GoesOn s t (nextPc s.me.pc) ∧ SameTasks s t ∧ SameCores s t ∧
        WroteW s t f.dst (s.makeHandle die i (s.entry (die * 65536 + i)).gen (fld f.imm 11 0)) ∧
        t = { s with tasks := t.tasks, cores := t.cores, spool := t.spool, mem := t.mem, leases := t.leases, seq := s.seq + 1 } ∧
        (s.resident l die < l.quota → t.mem = s.mem ∧ t.leases = s.leases ∧
          ∀ k, k ≠ die * 65536 + i → t.entry k = s.entry k) ∧
        (t.entry (die * 65536 + i)).state = .pending ∧ (t.entry (die * 65536 + i)).notask = true ∧
        (t.entry (die * 65536 + i)).ver = s.me.ver ∧ (t.entry (die * 65536 + i)).cnt = BitVec.ofNat 12 (fld f.imm 11 0)) ∧
    (1 ≤ s.freeCount l die → (s.freeIndex l die).isSome = true → l.quota ≤ s.resident l die → s.victim l die [] = none →
      exec (.fnew f) s = .next (s.takeTrap s.cur 0x24 s.me.pc 0 0)) ∧
    (s.freeCount l die < 1 → exec (.fnew f) s = .next (s.takeTrap s.cur 0x24 s.me.pc 0 2)))

/-- R189, R198, R199: a TOUCH, TOUCHS or TOUCHANY whose (first) handle passes its check empties DST, sends its request
and issues nothing until the answer; one whose handle fails it traps BAD_CHECK. Where no cancel has reached the task
and nothing is still on its way to that Spool: TOUCH of a RESOLVED entry completes with its value, of a POISONED or
CANCELLED one it traps FUTURE_POISONED or FUTURE_CANCELLED with the record and the cause, DST as it was; TOUCHS
completes with the value and q[SC] = 1, or the poison word and q[SC] = 0; either is one consumption of the entry
unless NC is set (R235). TOUCHANY completes with the position and status of the first of its handles whose entry is
settled, and consumes nothing. That TOUCHANY asks all its entries in one step is the model's reading (log 21). -/
def Obligations.TouchesComplete : Prop :=
  (∀ (f : Fields) (s : State) (h : Word) (e : Entry), h = s.sa f → e = s.entry (hKey h) →
    (ReadyF f s → s.goodHandle h = false → exec (.touch f) s = .next (s.takeTrap s.cur 0x21 s.me.pc h 0)) ∧
    (Ready f.guard [(1, f.a)] [] [f.dst, f.c.reg] s → s.goodHandle h = false →
      exec (.touchs f) s = .next (s.takeTrap s.cur 0x21 s.me.pc h 0)) ∧
    (ReadyF f s → s.goodHandle h = true →
      ∃ t, exec (.touch f) s = .next t ∧ Asks s t f (.touch (f.mod.getLsbD 0)) h ∧
        (Finds s h → s.me.canp = false → e.spilled = false → NotGuard f.dst →
          (e.state = .resolved → ∃ u v, exec (.spoolRequest s.seq) t = .next u ∧ exec (.spoolAnswer s.seq) u = .next v ∧
            CompletedWith s v f.dst e.value ∧ Consumed (f.mod.getLsbD 0) e (v.entry (hKey h))) ∧
          (e.state = .poisoned ∨ e.state = .cancelled → s.me.emptied = none → s.me.inh = false →
            (s.lease s.me.lease).trapVec ≠ 0 →
            ∃ u v, exec (.spoolRequest s.seq) t = .next u ∧ exec (.spoolAnswer s.seq) u = .next v ∧
              v.me.regs = s.me.regs ∧ v.me.pc = (s.lease s.me.lease).trapVec ∧ v.me.inh = true ∧
              v.me.trapCause = (if e.state = .cancelled then 0x23 else 0x22) ∧ v.me.trapPc = s.me.pc ∧
              v.me.trapAddr = e.record ∧ v.me.trapInfo = w64 e.cause.toNat ∧
              Consumed (f.mod.getLsbD 0) e (v.entry (hKey h))))) ∧
    (Ready f.guard [(1, f.a)] [] [f.dst, f.c.reg] s → s.goodHandle h = true →
      ∃ t, exec (.touchs f) s = .next t ∧ Asks s t f (.touchs (f.mod.getLsbD 0) (qNum f.c.reg)) h ∧
        (Finds s h → s.me.canp = false → e.spilled = false → NotGuard f.dst → e.isSettled = true →
          ∀ q, f.c.reg = .q q →
          ∃ u v, exec (.spoolRequest s.seq) t = .next u ∧ exec (.spoolAnswer s.seq) u = .next v ∧
            v.me.pc = nextPc s.me.pc ∧ v.me.wait = .no ∧ v.me.loom = .running ∧ v.cur = s.cur ∧
            Consumed (f.mod.getLsbD 0) e (v.entry (hKey h)) ∧
            v.me.regs = ((((s.me.regs.setValue f.dst ((if e.state = .resolved then e.value else poisonWord e).setWidth 2048)).setFull
              f.dst true).setValue (.q q) (if e.state = .resolved then 1 else 0)).setFull (.q q) true)))) ∧
  ∀ (f : Fields) (s : State) (hs : Nat → Word), (∀ i, hs i = w64 (lane (s.me.value f.a.reg) 64 i)) → ReadyF f s →
    (s.goodHandle (hs 0) = false → exec (.touchany f) s = .next (s.takeTrap s.cur 0x21 s.me.pc (hs 0) 0)) ∧
    (s.goodHandle (hs 0) = true →
      ∃ t, exec (.touchany f) s = .next t ∧ Asks s t f (.touchany (fld f.imm 5 0) (s.me.value f.a.reg)) (hs 0) ∧
        (QuietSpool s (hs 0) → s.me.canp = false → NotGuard f.dst → ∀ n, n = fld f.imm 5 0 →
          (∀ i, i < n → s.goodHandle (hs i) = true ∧ Fresh s (hs i) ∧ (s.entry (hKey (hs i))).spilled = false) →
          ∀ i, i < n → (s.entry (hKey (hs i))).isSettled = true →
            (∀ j, j < i → (s.entry (hKey (hs j))).isSettled = false) →
            ∃ u v, exec (.spoolRequest s.seq) t = .next u ∧ exec (.spoolAnswer s.seq) u = .next v ∧
              CompletedWith s v f.dst (w64 (i + 256 * (match (s.entry (hKey (hs i))).state with
                | .resolved => 0x03
                | .poisoned => 0x22
                | _ => 0x23)))))

/-- R200 to R203, R235: RESOLVE, POISON, CANCEL, KEEP, FDROP and FSTAT of a handle that passes its check empty DST,
send their request and issue nothing until the answer, RESOLVE and POISON after a release point; of one that fails it
they trap BAD_CHECK. Where nothing is still on its way to that Spool: a handle whose entry has gone traps STALE_HANDLE
with DST as it was; RESOLVE, POISON and CANCEL settle an unsettled entry and answer 0, which FREEs it where FDROP has
left no consumer, and of a settled one change nothing and answer 0x93; CANCEL of the task's own entry sets its CANP (R201); FDROP answers 0 and takes one consumer away,
FSTAT answers the entry's state and counts, and KEEP answers 0x94 of an entry without a speculative task, 0x93 of a
discarded one, and else 0. -/
def Obligations.FutureManagementCompletes : Prop :=
  ∀ r ∈ manageRule, ∀ (f : Fields) (s : State) (h : Word) (e : Entry), ReadyF f s → h = s.sa f → e = s.entry (hKey h) →
    (s.goodHandle h = false → exec (r.1 f) s = .next (s.takeTrap s.cur 0x21 s.me.pc h 0)) ∧
    (s.goodHandle h = true →
      ∀ w, (if r.2.2 then Released (s.workingF f) w else w = s) →
        ∃ t, exec (r.1 f) s = .next t ∧ Asks w t f (r.2.1 f s) h ∧
          (Finds s h → NotGuard f.dst →
            ∃ u v, exec (.spoolRequest w.seq) t = .next u ∧ exec (.spoolAnswer w.seq) u = .next v ∧
              CompletedWith s v f.dst (manageWord (r.2.1 f s) e) ∧ ManageEntry (r.2.1 f s) e (v.entry (hKey h)) ∧
              (r.2.1 f s = .cancel → s.cur ∈ s.bound e h → v.me.canp = true)) ∧
          (QuietSpool s h → ¬ Fresh s h → s.me.emptied = none → s.me.inh = false →
            (s.lease s.me.lease).trapVec ≠ 0 →
            ∃ u v, exec (.spoolRequest w.seq) t = .next u ∧ exec (.spoolAnswer w.seq) u = .next v ∧
              v.me.regs = s.me.regs ∧ v.me.pc = (s.lease s.me.lease).trapVec ∧ v.me.inh = true ∧ v.me.trapCause = 0x20 ∧
              v.me.trapPc = s.me.pc ∧ v.me.trapAddr = h ∧ v.me.trapInfo = 0 ∧ v.entry (hKey h) = e))

/-- R204, R246, R19: RETIRE ends the task at once, waiting for none of its operations, sends the settlement of its own
entry, and releases its accumulators on every core where none of its commands is queued; a task that is not
speculative, no activation and in no gang changes no other; an activation adds its transit, queue wait and run time to the
account of its sender on its core (R422), a new one where there is none, for which the least recently updated of 64 goes.
R204, R26: YIELD puts the task back among the READY at its
priority, out of its slot and at the next instruction; while it holds accumulators it only goes on; while a load or a
fixed-latency result of its own is still to land it waits; when a cancel has reached it, it retires CANCELLED. -/
def Obligations.LeavingTheSlot : Prop :=
  ∀ (f : Fields) (s : State), ReadyF f s →
    (∃ t, exec (.retire f) s = .next t ∧ t.me.live = false ∧ t.me.slot = none ∧ t.me.loom = .retiring ∧
      t.me.regs = s.me.regs ∧ t.tags = s.tags ∧
      (s.me.act = none → s.me.self ≠ 0 →
        ∃ fl ∈ t.flight, fl.task = s.cur ∧ fl.dst = spoolEnd (bits s.me.self 63 52) ∧
          fl.body = .spool (.retire (s.sa f)) s.me.self (.s 0)) ∧
      (s.me.act = none → s.me.spec = false → (∀ k, (s.core k).holder = some s.cur → s.gangMates k = []) → SameTasks s t) ∧
      (∀ k, (s.core k).holder = some s.cur → ((s.core k).queue.any fun c => c.task == s.cur) = false →
        (t.core k).holder = none) ∧
      ∀ a n tr qu ru l, s.me.act = some a → tr = (a.msg.accepted - a.msg.sent).toNat → qu = (a.start - a.msg.accepted).toNat →
        ru = (s.now - a.start).toNat → l = (s.core a.core).accounts →
        n = (l.filter fun x => x.sender != a.msg.sender) →
        (t.core a.core).activation = none ∧
        ∃ y rest, (t.core a.core).accounts = y :: rest ∧ y.sender = a.msg.sender ∧
          (∀ x, l.find? (fun x => x.sender == a.msg.sender) = some x → rest = n ∧
            (y.count, y.transit, y.queue, y.run) = (x.count + 1, x.transit + tr, x.queue + qu, x.run + ru)) ∧
          (l.find? (fun x => x.sender == a.msg.sender) = none → (y.count, y.transit, y.queue, y.run) = (1, tr, qu, ru) ∧
            rest = if l.length < 64 then l else l.dropLast)) ∧
    (s.me.canp = true → exec (.yield f) s = .next ((s.workingF f).cancelTask s.cur)) ∧
    (s.me.canp = false → s.holdsAny s.cur = true →
      ∃ t, exec (.yield f) s = .next t ∧ RegistersOnly s t ∧ t.me.regs = s.me.regs) ∧
    (s.me.canp = false → s.holdsAny s.cur = false → s.localPending s.cur = true →
      ∃ t, exec (.yield f) s = .next t ∧ Waits s t .place) ∧
    (s.me.canp = false → s.holdsAny s.cur = false → s.localPending s.cur = false →
      ∃ t, exec (.yield f) s = .next t ∧ t.me.live = true ∧ t.me.slot = none ∧ t.me.loom = .ready ∧
        t.me.pc = nextPc s.me.pc ∧ t.me.prio = s.me.prio ∧ t.me.regs = s.me.regs ∧ t.me.inRecord = true ∧ SameTasks s t)

/-! Needles, sends, messages, mailboxes and barriers. -/

/-- R207, R359: NEEDLE writes the capability for its register; with mode `.once` the register is armed when the arm
table has room, and otherwise the task waits. R213, R215: MBIND binds its handler id on the issuing core, or with
`.all` on the cores of its lease on its device, and on no other core, and the messages of that id that were accepted
unbound there take it; MTAKE empties DST and delivers up to its number of highest-ranked posts of a mailbox of its own
core after a fixed latency, taking them away unless it only looks, and with `.conf` empties the mailbox and sets its
depth. -/
def Obligations.NeedlesAndMailboxesComplete : Prop :=
  (∀ (f : Fields) (s : State), ReadyF f s → NotGuard f.dst → ∀ n, n = s.makeNeedle s.cur (BitVec.ofNat 7 (fld f.imm 6 0)) (fld f.mod 1 0) →
    (fld f.mod 1 0 ≠ 0 → ∃ t, exec (.needle f) s = .next t ∧ RegistersOnly s t ∧ WroteW s t f.dst n) ∧
    ∀ r c, r = Reg.ofSpec (BitVec.ofNat 7 (fld f.imm 6 0)) → c = s.cluster (s.cur / 65536) → fld f.mod 1 0 = 0 →
      (s.armed s.cur r = true ∨ c.arms.length + c.armsAhead s.cur < 4096 →
        ∃ t, exec (.needle f) s = .next t ∧ WroteW s t f.dst n ∧ GoesOn s t (nextPc s.me.pc) ∧ SameTasks s t ∧ SameCores s t ∧
          t = { s with tasks := t.tasks, cores := t.cores, clusters := t.clusters } ∧
          (∀ q, t.cluster q = { s.cluster q with arms := (t.cluster q).arms, armWaiters := (t.cluster q).armWaiters }) ∧
          t.armed s.cur r = true) ∧
      (s.armed s.cur r = false → 4096 ≤ c.arms.length + c.armsAhead s.cur → s.me.canp = false →
        ∃ t, exec (.needle f) s = .next t ∧ SameTasks s t ∧ SameCores s t ∧
          t = { s with tasks := t.tasks, cores := t.cores, clusters := t.clusters } ∧
          t.me = { s.me with wait := .arm, loom := .waiting, touched := t.me.touched, acquired := t.me.acquired } ∧
          s.cur ∈ (t.cluster (s.cur / 65536)).armWaiters)) ∧
  (∀ (f : Fields) (s : State), ReadyF f s →
    (∃ t, exec (.mbind f) s = .next t ∧ GoesOn s t (nextPc s.me.pc) ∧ t.me.regs = s.me.regs ∧ SameTasks s t ∧
      t = { s with tasks := t.tasks, cores := t.cores } ∧
      ∀ k, KeepsDirty s t k ∧
        t.core k = { s.core k with
          l1 := (t.core k).l1, rows := (t.core k).rows, handlers := (t.core k).handlers, inbox := (t.core k).inbox } ∧
        if (if f.mod.getLsbD 0 then (s.lease s.me.lease).positions.contains (k / 8) && k / 8 / 128 == s.me.pos / 128
            else k == s.me.core)
        then (t.core k).handlers = (s.core k).handlers.set (Fin.ofNat 64 (fld f.imm 5 0)) (s.sa f) ∧
          (t.core k).inbox = (s.core k).inbox.map fun m =>
            if m.id = Fin.ofNat 64 (fld f.imm 5 0) ∧ m.bound = 0 then { m with bound := s.sa f } else m
        else (t.core k).handlers = (s.core k).handlers ∧ (t.core k).inbox = (s.core k).inbox) ∧
    ∀ (b : Fin 4) (box : List Post), b = Fin.ofNat 4 (fld f.imm 1 0) → box = (s.core s.me.core).boxes.get b →
      ∃ t, exec (.mtake f) s = .next t ∧ Emptied s t f.dst ∧ SameTasks s t ∧
        GoesOn (s.onMe fun m => { m with
          fixed := m.fixed ++ [(f.dst, if f.mod.getLsbD 1 then 0 else vecOf 128 ((box.take (fld f.imm 12 8)).map Post.element))] })
          t (nextPc s.me.pc) ∧
        t = { s with tasks := t.tasks, cores := t.cores, leases := t.leases } ∧
        (f.mod.getLsbD 1 = false → t.leases = s.leases) ∧
        (∀ k, KeepsDirty s t k ∧ t.core k = { s.core k with
          l1 := (t.core k).l1, rows := (t.core k).rows, boxes := (t.core k).boxes, depths := (t.core k).depths }) ∧
        (∀ k c, (k, c) ≠ (s.me.core, b) →
          (t.core k).boxes.get c = (s.core k).boxes.get c ∧ (t.core k).depths.get c = (s.core k).depths.get c) ∧
        (t.core s.me.core).boxes.get b =
          (if f.mod.getLsbD 1 then [] else if f.mod.getLsbD 0 then box else box.drop (fld f.imm 12 8)) ∧
        (t.core s.me.core).depths.get b =
          (if f.mod.getLsbD 1 then fld f.imm 12 8 else (s.core s.me.core).depths.get b))

/-- R208, R209, R268: a SEND or SENDV through a needle whose check fails or that names no cluster of the job traps
BAD_CHECK; one whose register is of the other kind reports MISMATCH at once, or traps SEND_REFUSED with it under TRAP;
any other sends its value to the needle's task, with REL after a release point. R211 to R214, R220: MSG to a core of
the job sends its handler id, sender, version, time, address and payload, and MPOST to a mailbox of a core of the same
lease its value, priority and tag; a position word that names none traps BOUNDS. That MISMATCH is reported in the form
that TRAP asks for is the model's reading (log 30). -/
def Obligations.SendsMessagesAndPostsComplete : Prop :=
  (∀ e ∈ [(Instr.send, false, fun (f : Fields) (s : State) => (s.sb f).setWidth 2048),
      (Instr.sendv, true, fun f s => s.me.value f.b.reg)],
    ∀ (f : Fields) (s w : State) (n : Word) (isVec : Bool), ReadyF f s → n = s.sa f →
      isVec = (match nReg n with | .v _ => true | _ => false) →
      ((s.populated (nPos n) = false ∨ bits n 15 0 ≠ checkN s.secret n) →
        exec (e.1 f) s = .next (s.takeTrap s.cur 0x21 s.me.pc n 1)) ∧
      (s.populated (nPos n) = true → bits n 15 0 = checkN s.secret n → isVec ≠ e.2.1 →
        (f.mod.getLsbD 2 = true → exec (e.1 f) s = .next (s.takeTrap s.cur 0x25 s.me.pc n 0x92)) ∧
        (f.mod.getLsbD 2 = false → NotGuard f.dst →
          ∃ t, exec (e.1 f) s = .next t ∧ RegistersOnly s t ∧ WroteW s t f.dst 0x92)) ∧
      (s.populated (nPos n) = true → bits n 15 0 = checkN s.secret n → isVec = e.2.1 → SendState f s w →
        ∃ t, exec (e.1 f) s = .next t ∧ Reported w t (f.mod.getLsbD 2) f.dst
          (.send n (e.2.2 f s) e.2.1 (f.mod.getLsbD 0) (f.mod.getLsbD 1) f.dst (f.mod.getLsbD 2)))) ∧
  (∀ (f : Fields) (s : State), ReadyF f s →
    (∀ core, (if f.mod.getLsbD 0 then s.nearCore (s.sa f)
        else if s.goodWord (s.sa f) false then some (wordCore (s.sa f)) else none) = some core →
      ∃ t, exec (.msg f) s = .next t ∧ Reported s t (f.mod.getLsbD 1) f.dst
        (.message core
          { id := Fin.ofNat 64 (fld f.imm 5 0), sender := BitVec.ofNat 32 s.cur, ver := s.me.ver, sent := s.now, addr := s.sc f
            payload := (s.me.value f.b.reg).setWidth 320, accepted := 0, bound := 0 }
          (s.sa f) f.dst (f.mod.getLsbD 1))) ∧
    ((if f.mod.getLsbD 0 then s.nearCore (s.sa f)
        else if s.goodWord (s.sa f) false then some (wordCore (s.sa f)) else none) = none →
      exec (.msg f) s = .next (s.takeTrap s.cur 0x1A s.me.pc 0 (s.sa f))) ∧
    (s.goodWord (s.sa f) true = true → (s.cluster (wordPos (s.sa f))).lease = s.me.lease →
      ∃ t, exec (.mpost f) s = .next t ∧ Reported s t false f.dst
        (.post (wordCore (s.sa f)) (Fin.ofNat 4 (bits (s.sa f) 5 4))
          ⟨s.sb f, BitVec.ofNat 16 (bits (s.sc f) 15 0), BitVec.ofNat 16 (bits (s.sc f) 31 16)⟩ f.dst)) ∧
    ((s.goodWord (s.sa f) true = false ∨ (s.cluster (wordPos (s.sa f))).lease ≠ s.me.lease) →
      exec (.mpost f) s = .next (s.takeTrap s.cur 0x1A s.me.pc 0 (s.sa f))))

/-- R216, R217: BINIT of a target from 1 to 65,535 at a checked node, once no earlier access of the task to it is on
its way, writes the node's two words, sets F and K of both and leaves nothing waiting or complete there; `.free`
clears both K bits and changes no byte; a target of 0, or of 65,536 or more, traps BOUNDS. R218, R219: at a checked
node BARR, after a release point, sends its arrival and goes on with DST empty, as BLINK does with its change of the
target; BWAIT sends its token and waits; BARW, after a release point, sends its arrival and waits, or, where a
gang-stop has withdrawn it after its arrival was counted (R366), its token. R218, R348: a BWAIT whose token has passed
completes by its request and its answer with the node's phase, and OLD when two or more phases have gone by; a BARW
that is the last arrival at a root with nobody else there flips the root, and completes with the new phase. R227:
BASTE at a root that has not passed the phase it names makes the job's request and answers 0; at words that are no
root, or for a phase already passed, it answers 0x1A and makes none. That BINIT's BOUNDS has the information 0 is the
model's reading (log 30); the answer at words with K = 0 (log 51), and that a basting point is taken in the step of
the flip (log 28), are its choices. -/
def Obligations.BarrierInstructionsComplete : Prop :=
  (∀ (f : Fields) (s : State) (p : Part) (ps : List Part), ReadyF f s →
    Cleared (s.workingF f) (.tagged (!f.mod.getLsbD 0)) nodeAlign [⟨s.sa f, 16, 0, [(s.sa f, 8, 0), (s.sa f + 8, 8, 8)]⟩] (p :: ps) →
    (s.workingF f).heldBack s.cur s.seq 0 true [⟨p.loc, 16, 0⟩] = false →
    (f.mod.getLsbD 0 = false → s.sb f ≠ 0 → (s.sb f).toNat < 65536 → s.spad.wf = true → (∀ w ∈ s.bank, w.loc.addr ≠ p.loc.addr ∧
        w.loc.addr ≠ p.loc.addr + 8) →
      ∃ t, exec (.binit f) s = .next t ∧ GoesOn s t (nextPc s.me.pc) ∧ t.me.regs = s.me.regs ∧ SameTasks s t ∧ SameCores s t ∧
        t = { s with tasks := t.tasks, cores := t.cores, spad := t.spad, tags := t.tags, nodes := t.nodes } ∧
        t.nodeTarget p.loc.addr = (s.sb f).toNat ∧ t.nodeArrived p.loc.addr = 0 ∧ t.nodePhase p.loc.addr = 0 ∧
        t.nodeParent p.loc.addr = wideAddr s.me.pos (s.sc f).toNat % 2 ^ 48 ∧ t.node p.loc.addr = Node.idle ∧
        (∀ a, t.tagK a = (s.tagK a || a == p.loc.addr || a == p.loc.addr + 8) ∧
          t.tagF a = (s.tagF a || a == p.loc.addr || a == p.loc.addr + 8)) ∧
        (∀ n, n ≠ p.loc.addr → t.node n = s.node n) ∧
        ∀ a, a < p.loc.addr ∨ p.loc.addr + 16 ≤ a → t.spad.get a = s.spad.get a) ∧
    (f.mod.getLsbD 0 = true →
      ∃ t, exec (.binit f) s = .next t ∧ GoesOn s t (nextPc s.me.pc) ∧ t.me.regs = s.me.regs ∧ SameTasks s t ∧ SameCores s t ∧
        t = { s with tasks := t.tasks, cores := t.cores, tags := t.tags, nodes := t.nodes, flight := t.flight, seq := t.seq
                     fabric := t.fabric, launches := t.launches } ∧
        (∀ a, t.tagK a = (s.tagK a && a != p.loc.addr && a != p.loc.addr + 8) ∧ t.tagF a = s.tagF a) ∧
        t.node p.loc.addr = Node.idle ∧ ∀ n, n ≠ p.loc.addr → t.node n = s.node n) ∧
    (f.mod.getLsbD 0 = false → (s.sb f = 0 ∨ 65536 ≤ (s.sb f).toNat) →
      exec (.binit f) s = .next (s.takeTrap s.cur 0x1A s.me.pc 0 0))) ∧
  (∀ (f : Fields) (s w : State) (n : Place), ReadyF f s → NodeChecked f s w n →
    (∀ r, Released w r →
      ∃ t, exec (.barr f) s = .next t ∧ Reported r t false f.dst (.arrive n.addr .barr (.task s.cur f.dst none))) ∧
    (∃ t, exec (.blink f) s = .next t ∧ Reported s t false f.dst
      (.arrive n.addr (.blink (BitVec.ofNat 16 (bits (s.sb f) 15 0))) (.task s.cur f.dst none))) ∧
    (s.me.canp = false →
      (∃ t, exec (.bwait f) s = .next t ∧ Reported s t true f.dst
        (.nodeWait n.addr (BitVec.ofNat 32 (bits (s.sb f) 31 0)) (.task s.cur f.dst (some s.seq)))) ∧
      (s.me.standing = none → ∀ r, Released w r →
        ∃ t, exec (.barw f) s = .next t ∧ Reported r t true f.dst (.arrive n.addr .barw (.task s.cur f.dst (some r.seq)))) ∧
      ∀ tok, s.me.standing = some tok →
        ∃ t, exec (.barw f) s = .next t ∧ Reported s t true f.dst (.nodeWait n.addr tok (.task s.cur f.dst (some s.seq))))) ∧
  (∀ (f : Fields) (s w : State) (n : Place), ReadyF f s → NotGuard f.dst → NodeChecked f s w n → s.me.canp = false →
    Quiet s (coreEnd (coreOfKey n.addr)) 2 → Quiet s (coreEnd s.me.core) 2 → s.tagK n.addr = true → s.spad.wf = true →
    (tokenPassed (s.nodePhase n.addr) (bits (s.sb f) 31 0) = true →
      ∃ t u v, exec (.bwait f) s = .next t ∧ exec (.nodeWait s.seq) t = .next u ∧ exec (.nodeAnswer s.seq) u = .next v ∧
        CompletedWith s v f.dst (barrierWord (s.nodePhase n.addr) (bits (s.sb f) 31 0) false) ∧ v.spad = s.spad ∧
        v.nodes = s.nodes) ∧
    (s.me.standing = none → s.nodeParent n.addr = 0 → s.nodeArrived n.addr + 1 = s.nodeTarget n.addr →
      s.node n.addr = Node.idle → s.bankLoad (bankOf n.addr) < 32 → s.basteReq = none → ∀ r, Released w r →
      ∃ t u v, exec (.barw f) s = .next t ∧ exec (.arrive r.seq) t = .next u ∧ exec (.nodeAnswer r.seq) u = .next v ∧
        CompletedWith s v f.dst (w64 ((s.nodePhase n.addr + 1) % 2 ^ 32)) ∧
        v.nodePhase n.addr = (s.nodePhase n.addr + 1) % 2 ^ 32 ∧ v.nodeArrived n.addr = 0 ∧
        v.nodeTarget n.addr = s.nodeTarget n.addr)) ∧
  (∀ (f : Fields) (s w : State) (n : Place) (ph : Nat), ReadyF f s → NotGuard f.dst → NodeChecked f s w n →
    ph = bits (s.sb f) 31 0 →
    (s.tagK n.addr = true → s.nodeParent n.addr = 0 → tokenPassed (s.nodePhase n.addr) ph = false →
      ∃ t, exec (.baste f) s = .next t ∧ GoesOn s t (nextPc s.me.pc) ∧ WroteW s t f.dst 0 ∧ SameTasks s t ∧ SameCores s t ∧
        t = { s with tasks := t.tasks, cores := t.cores, basteReq := some (n.addr, BitVec.ofNat 32 ph, s.me.ver.toNat) }) ∧
    ((s.tagK n.addr = false ∨ s.nodeParent n.addr ≠ 0 ∨ tokenPassed (s.nodePhase n.addr) ph = true) →
      ∃ t, exec (.baste f) s = .next t ∧ RegistersOnly s t ∧ WroteW s t f.dst 0x1A))

/-! The system instructions, traps and their return. -/

/-- R21, R221: GETSR of a register below 0x100 writes its value into s[DST], in a replayed chunk the logged one where
the log has it (R347); of a higher one it traps PRIVILEGE. R21, R221, R270: SETSR of a register that only the device
or firmware writes traps PRIVILEGE, of a reserved value ILLEGAL_FIELD with the information 2; any other write of a
register that exists reads back, and no other special register but those of a monitor that `mon.cfg` resets changes.
That a source number of 0 in mon.cfg is a reserved value is the model's reading (log 39). -/
def Obligations.SpecialRegistersReadAndWrite : Prop :=
  (∀ (f : Fields) (s : State), ReadyF f s → NotGuard f.dst →
    (srNum f < 0x100 →
      ∃ t, exec (.getsr f) s = .next t ∧ RegistersOnly s t ∧ WroteW s t f.dst ((s.workingF f).srValue (srNum f)) ∧
        (s.recorded s.cur = false → (s.workingF f).srValue (srNum f) = s.srRead s.cur (srNum f))) ∧
    (0x100 ≤ srNum f → exec (.getsr f) s = .next (s.takeTrap s.cur 0x09 s.me.pc 0 (w64 (srNum f))))) ∧
  (∀ (f : Fields) (s : State) (n : Nat), n = srNum f → Ready f.guard [] [] [] s →
    (srLocked n = true → exec (.setsr f) s = .next (s.takeTrap s.cur 0x09 s.me.pc 0 (w64 n))) ∧
    (srLocked n = false → s.me.full f.a.reg = true → s.me.landing [f.a.reg] = false →
      (srReserved n (s.sa f) = true → exec (.setsr f) s = .next (s.takeTrap s.cur 0x06 s.me.pc 0 2)) ∧
      (srReserved n (s.sa f) = false → f.a.reg ∉ s.me.spoiled →
        ∃ t, exec (.setsr f) s = .next t ∧ t.me.regs = s.me.regs ∧ SameTasks s t ∧ SameCores s t ∧
          t = { s with tasks := t.tasks, cores := t.cores, leases := t.leases } ∧
          GoesOn (s.onMe fun m => { m with
            trapCause := t.me.trapCause, trapPc := t.me.trapPc, trapAddr := t.me.trapAddr, trapInfo := t.me.trapInfo
            prio := t.me.prio, fpMode := t.me.fpMode, fpSeed := t.me.fpSeed }) t (nextPc s.me.pc) ∧
          (n ∈ [0x20, 0x21, 0x22, 0x23, 0x30, 0x38, 0x39] →
            t.srRead s.cur n = s.sa f ∧ ∀ m, m ≠ n → t.srRead s.cur m = s.srRead s.cur m) ∧
          (0x80 ≤ n → n < 0xC0 →
            t.srRead s.cur n = s.sa f ∧
            (∀ m, m ≠ n → m ≠ 0x05 → (n % 8 ≠ 0 ∨ m < n ∨ n + 8 ≤ m) → t.srRead s.cur m = s.srRead s.cur m) ∧
            (n % 8 = 0 → t.srRead s.cur (n + 1) = BitVec.allOnes 64 ∧
              ∀ i, 2 ≤ i → i < 8 → t.srRead s.cur (n + i) = 0)))))

/-- R264, R266: a trap of a task with INH = 0 and a handler saves its cause, PC, address and information in the task's
trap registers, sets INH, and takes the PC to the vector, whose fetch is checked as a target's; everything else of the
machine is as before, CANP and the accumulators too; of a WATCHPOINT trap its PC is kept beside (R273). With no
handler the four registers are saved and the trap is fatal. A trap taken with INH = 1, a failing check of the vector
among them, rewrites no trap register and is fatal with DOUBLE, its own cause, PC, address and information going to
the dump. -/
def Obligations.TrapEntrySavesAndJumps : Prop :=
  ∀ (s : State) (cause : BitVec 8) (pc addr info : Word),
    (s.me.inh = false → (s.lease s.me.lease).trapVec ≠ 0 →
      TrapTaken s (s.takeTrap s.cur cause pc addr info) cause pc addr info) ∧
    (s.me.inh = false → (s.lease s.me.lease).trapVec = 0 →
      s.takeTrap s.cur cause pc addr info =
        (s.onMe fun m => { m with
          trapCause := cause.setWidth 64, trapPc := pc, trapAddr := addr, trapInfo := info, wait := .no, wpx := false
          wpPc := if cause = 0x16 then some pc else none, wdr := false, tgt := none }).fatal s.cur cause []) ∧
    (s.me.inh = true →
      s.takeTrap s.cur cause pc addr info = s.fatal s.cur 0x3F [(cause.setWidth 64, pc, addr, info)])

/-- R222: TRAP traps SOFTWARE with its immediate and the PC of the next instruction; BRK without a debugger traps
BREAKPOINT with its own PC, and with one stops the job there. R222, R265, R273: ERET with INH = 1 clears INH and goes
on at the saved PC, and where that is still the PC of the WATCHPOINT trap leaves that instruction exempt; with INH = 0
it traps PRIVILEGE with 0xFFFF. R266, R267, R284: a trap with INH = 1 is fatal with DOUBLE, and one without a handler
is fatal with its own cause. A fatal trap with no dump area, or with no slot of it free, which is counted, ends the
task POISONED with no fault record; with a free slot the task leaves its slot until its dump, of that instant, is
written. That at most 64 dumps wait is the bound of R284. -/
def Obligations.SoftwareTrapsAndTheirReturn : Prop :=
  (∀ (f : Fields) (s : State), Ready f.guard [] [] [] s →
    (s.me.inh = false → (s.lease s.me.lease).trapVec ≠ 0 →
      (∃ t, exec (.trap f) s = .next t ∧ TrapTaken (s.working f.guard [] []) t 0x31 (nextPc s.me.pc) 0 (w64 f.imm.toNat)) ∧
      ((s.lease s.me.lease).debugger = false →
        ∃ t, exec (.brk f) s = .next t ∧ TrapTaken s t 0x30 s.me.pc 0 (w64 f.imm.toNat))) ∧
    exec (.trap f) s =
      .next ((s.working f.guard [] []).takeTrap s.cur 0x31 (nextPc s.me.pc) 0 (w64 f.imm.toNat)) ∧
    ((s.lease s.me.lease).debugger = false →
      exec (.brk f) s = .next (s.takeTrap s.cur 0x30 s.me.pc 0 (w64 f.imm.toNat))) ∧
    ((s.lease s.me.lease).debugger = true →
      ∃ t, exec (.brk f) s = .next t ∧ t.stop = .debug ∧ t.stoppedAt = some (s.cur, 0x30) ∧ t.me.pc = s.me.pc ∧
        t.me.inh = s.me.inh ∧ (s.me.fixed = [] → t.me.regs = s.me.regs))) ∧
  (∀ (f : Fields) (s : State), Ready f.guard [] [] [] s →
    (s.me.inh = true →
      ∃ t, exec (.eret f) s = .next t ∧ SameTasks s t ∧ SameCores s t ∧ t = { s with tasks := t.tasks, cores := t.cores } ∧
        t.me = { s.me with
          inh := false, pc := s.me.trapPc, wpx := s.me.wpPc == some s.me.trapPc, wpPc := none, tgt := none, wait := .no
          loom := .running, chunk := s.me.chunk + 1, touched := t.me.touched, acquired := t.me.acquired }) ∧
    (s.me.inh = false → exec (.eret f) s = .next (s.takeTrap s.cur 0x09 s.me.pc 0 0xFFFF))) ∧
  (∀ (s t : State) (c : BitVec 8) (cause : BitVec 8) (pc addr info : Word) (waiting : Nat), s.me.live = true →
    c = (if s.me.inh then 0x3F else cause) → (s.me.inh = true ∨ (s.lease s.me.lease).trapVec = 0) →
    t = s.takeTrap s.cur cause pc addr info →
    waiting = (s.dumps.filter fun d => (s.task d.task).lease == s.me.lease).length →
    ∀ l, l = s.lease s.me.lease →
    ∀ full : Bool, full = (decide (l.dumpSlots ≤ l.dumpUsed.length + waiting) || decide (64 < waiting)) →
    ((l.dumpSlots = 0 ∨ full = true) → t.me.live = false ∧
      (l.dumpSlots ≠ 0 → (t.lease s.me.lease).dumpMissed = l.dumpMissed + 1) ∧
      (s.me.act = none → s.me.self ≠ 0 → ∃ fl ∈ t.flight, fl.body = .spool (.retirePoisoned c 0) s.me.self (.s 0))) ∧
    (l.dumpSlots ≠ 0 → full = false → t.me.loom = .retiring ∧
      ∃ d, t.dumps = s.dumps ++ [d] ∧ d.task = s.cur ∧ d.cause = c ∧ d.time = s.now ∧
        d.secondary = if s.me.inh then [(cause.setWidth 64, pc, addr, info)] else []))

/-- R223, R416, R421: TRACE goes on, and with EN = 1, a free ring slot and no pending drops puts its record at the write
index; TSTAMP, once nothing of the task is outstanding, writes the domain time. R225, R260, R261, R311: LPATCH writes
the word of an IDLE record that its offset names, and traps BOUNDS for any other record or offset; LARM of an IDLE
record takes the next version and arms the record with it, and waits while no version is free; of any other record it
answers BUSY, and of a number that is no record it traps BOUNDS; PATSET writes a pattern entry of the lease when its word
is well formed, and traps BOUNDS when it is not. -/
def Obligations.TraceRecordsAndPatternsComplete : Prop :=
  (∀ (f : Fields) (s : State) (r : TraceRing), r = (s.lease s.me.lease).trace →
    (Ready f.guard [(1, f.a)] [] [] s →
      ∃ t, exec (.trace f) s = .next t ∧ GoesOn s t (nextPc s.me.pc) ∧ t.me.regs = s.me.regs ∧ SameTasks s t ∧ SameCores s t ∧
        t = { s with tasks := t.tasks, cores := t.cores, host := t.host, leases := t.leases } ∧
        (∀ l, l ≠ s.me.lease → t.lease l = s.lease l) ∧
        (r.tctl.getLsbD 0 = false → t.host = s.host ∧ t.leases = s.leases) ∧
        ∀ base, base = r.tring.toNat + r.windex.toNat % 2 ^ bits r.tctl 20 16 * 64 →
          r.tctl.getLsbD 0 = true → r.pending = 0 → r.free = true →
          (t.lease s.me.lease) = { s.lease s.me.lease with trace := { r with windex := r.windex + 1 } } ∧
          (s.host.wf = true →
            t.host.bytes base 64 = ((traceWords 1 s.me.route s.cur s.me.entry s.now s.me.launchWord s.me.org.toList
              (w64 (fld f.imm 15 0)) (s.sa f)).flatMap fun (x : Word) => leBytes 8 x.toNat) ∧
            ∀ a, a < base ∨ base + 64 ≤ a → t.host.get a = s.host.get a)) ∧
    (Ready f.guard [] [] [f.dst] s → s.owes s.cur = false → NotGuard f.dst →
      ∃ t, exec (.tstamp f) s = .next t ∧ RegistersOnly s t ∧ WroteW s t f.dst s.now)) ∧
  (∀ (f : Fields) (s : State) (i : Word) (off : Nat), ReadyF f s → i = s.sa f → off = fld f.imm 7 0 →
    (i.toNat < 4096 → patchable off = true → ((s.lease s.me.lease).record i.toNat).state = .idle →
      ∃ t, exec (.lpatch f) s = .next t ∧ GoesOn s t (nextPc s.me.pc) ∧ t.me.regs = s.me.regs ∧ SameTasks s t ∧ SameCores s t ∧
        t = { s with tasks := t.tasks, cores := t.cores, leases := t.leases } ∧
        (∀ l, l ≠ s.me.lease → t.lease l = s.lease l) ∧
        t.lease s.me.lease = { s.lease s.me.lease with records := (t.lease s.me.lease).records } ∧
        (t.lease s.me.lease).record i.toNat = ((s.lease s.me.lease).record i.toNat).setWord off (s.sb f) ∧
        ∀ j, j ≠ i.toNat → (t.lease s.me.lease).record j = (s.lease s.me.lease).record j) ∧
    ((4096 ≤ i.toNat ∨ patchable off = false ∨ ((s.lease s.me.lease).record i.toNat).state ≠ .idle) →
      exec (.lpatch f) s = .next (s.takeTrap s.cur 0x1A s.me.pc 0 (i + w64 (off <<< 16)))) ∧
    (4096 ≤ i.toNat → exec (.larm f) s = .next (s.takeTrap s.cur 0x1A s.me.pc 0 i)) ∧
    (i.toNat < 4096 → NotGuard f.dst →
      (((s.lease s.me.lease).record i.toNat).state ≠ .idle →
        ∃ t, exec (.larm f) s = .next t ∧ RegistersOnly s t ∧ WroteW s t f.dst 0x95) ∧
      (((s.lease s.me.lease).record i.toNat).state = .idle → s.versionFree s.me.lease = false → s.me.canp = false →
        ∃ t, exec (.larm f) s = .next t ∧ Waits s t .place) ∧
      (((s.lease s.me.lease).record i.toNat).state = .idle → s.versionFree s.me.lease = true →
        ∃ t, exec (.larm f) s = .next t ∧ GoesOn s t (nextPc s.me.pc) ∧ WroteW s t f.dst (w64 (s.nextVer.toNat <<< 16)) ∧
          SameTasks s t ∧ SameCores s t ∧
          t = { s with tasks := t.tasks, cores := t.cores, leases := t.leases, launches := t.launches, nextVer := s.nextVer + 1 } ∧
          (∀ l, l ≠ s.me.lease → t.lease l = s.lease l) ∧
          (∀ v, v ≠ s.nextVer.toNat → t.launch? v = s.launch? v) ∧
          ((t.lease s.me.lease).record i.toNat).state = .armed ∧ ((t.lease s.me.lease).record i.toNat).ver = s.nextVer ∧
          ((t.lease s.me.lease).record i.toNat).bits = ((s.lease s.me.lease).record i.toNat).bits ∧
          (∀ j, j ≠ i.toNat → (t.lease s.me.lease).record j = (s.lease s.me.lease).record j) ∧
          (t.lease s.me.lease).armed = (s.lease s.me.lease).armed ++ [i.toNat])) ∧
    (patOk ((s.me.value f.a.reg).setWidth 512) = true →
      ∃ t, exec (.patset f) s = .next t ∧ GoesOn s t (nextPc s.me.pc) ∧ t.me.regs = s.me.regs ∧ SameTasks s t ∧ SameCores s t ∧
        t = { s with tasks := t.tasks, cores := t.cores, leases := t.leases } ∧
        (∀ l, l ≠ s.me.lease → t.lease l = s.lease l) ∧
        t.lease s.me.lease = { s.lease s.me.lease with pats := (t.lease s.me.lease).pats } ∧
        t.pat s.me.lease (fld f.imm 7 0) = (s.me.value f.a.reg).setWidth 512 ∧
        ∀ j, j ≠ fld f.imm 7 0 → t.pat s.me.lease j = s.pat s.me.lease j) ∧
    (patOk ((s.me.value f.a.reg).setWidth 512) = false →
      exec (.patset f) s = .next (s.takeTrap s.cur 0x1A s.me.pc 0 (w64 (fld f.imm 7 0)))))

/-! Device events: memory, engines, sends, barriers, Spools and Looms. -/

/-- R15, R115, R127, R134, R135, R283 to R285: a fixed-latency result and a returning value fill their register; where
the task waited for it, a tagged load, it completes there, an acquire point. A value that an uncorrectable error has
spoiled leaves the register as it was and defers a trap with its address, or, where the task already waits for the
dump writer, is one more record for its dump. An acknowledgment only ends its operation; a completed REL leaves no
dirty PHASED line in the L1 of the core where it issued, nor of the core where its task is now (R309). The task stands in its slot, so that no frame record follows. That results of a
fixed latency land in their order is the model's reading (log 14). -/
def Obligations.ResultsReturn : Prop :=
  (∀ (s : State) (id : Nat) (r : Reg) (x : VWord) (rest : List (Reg × VWord)), (s.task id).fixed = (r, x) :: rest →
    ∃ t, exec (.fixedLatencyResult id) s = .next t ∧ TaskWrote s t id r x ∧ (t.task id).fixed = rest ∧
      t = { s with tasks := t.tasks, cores := t.cores, clusters := t.clusters } ∧
      (NotGuard r → t.cores = s.cores ∧ t.clusters = s.clusters)) ∧
  (∀ (s : State) (k id src dst : Nat) (r : Reg) (x : VWord) (n : Bool) (va : Word), (s.task id).inRecord = false →
    Arrives s k id src dst (.value r x false n va) →
    ((s.task id).wait ≠ .answer k →
      ∃ t, exec (.valueLands k) s = .next t ∧ TaskWrote s t id r x ∧ Landed t k ∧
        t = { s with tasks := t.tasks, flight := t.flight, cores := t.cores, clusters := t.clusters } ∧
        (NotGuard r → t.cores = s.cores ∧ t.clusters = s.clusters)) ∧
    ((s.task id).wait = .answer k → (s.task id).canp = false →
      ∃ t, exec (.valueLands k) s = .next t ∧ TaskWrote s t id r x ∧ Landed t k ∧ (t.task id).wait = .no ∧
        (t.task id).loom = .running ∧ (t.task id).pc = nextPc (s.task id).pc ∧
        ∀ e ∈ (t.core (s.task id).core).l1, e.attr = 2 → e.valid &&& ~~~e.dirty = 0 ∧ e.dirty ≠ 0)) ∧
  (∀ (s : State) (k id src dst : Nat) (r : Reg) (x : VWord) (n : Bool) (va : Word), (s.task id).wait ≠ .answer k →
    Arrives s k id src dst (.value r x true n va) →
    ((∀ d ∈ s.dumps, d.task ≠ id) →
      ∃ t, exec (.valueLands k) s = .next t ∧ (t.task id).regs = (s.task id).regs ∧ Landed t k ∧
        (t.task id).deferred = (s.task id).deferred ++ [(r, va)]) ∧
    ∀ d, s.dumps.find? (fun d => d.task == id) = some d → d.secondary.length < 7 →
      ∃ t, exec (.valueLands k) s = .next t ∧ t.tasks = s.tasks ∧ Landed t k ∧
        { d with secondary := d.secondary ++ [(0x40, (s.task id).pc, va, w64 (1 + r.spec.toNat * 256))] } ∈ t.dumps) ∧
  (∀ (s : State) (k id src dst : Nat), (s.task id).wait ≠ .answer k → Arrives s k id src dst .ack →
    ∃ t, exec (.storeAcknowledged k) s = .next t ∧ t = { s with flight := t.flight } ∧ Landed t k) ∧
  ∀ (s : State) (k id src dst : Nat), Arrives s k id src dst .release →
    (∀ g ∈ s.flight, g.task = id → g.id < k → ¬ (match g.body with
      | .access _ | .tagged .. | .resend .. | .release => True
      | _ => False)) →
    ∃ t, exec (.releaseComplete k) s = .next t ∧ t.tasks = s.tasks ∧ t.spad = s.spad ∧ Landed t k ∧
      ∀ c, c = endCore src ∨ c = (s.task id).core → ∀ e ∈ (t.core c).l1, e.attr = 2 → e.dirty = 0

/-- R122, R124, R130, R137, R138, R283, R303: the last part of a load, a store or an atomic at a scratchpad word, once
nothing earlier of its task holds it back, performs there: the load's value and the atomic's old value go back to DST, the
store's bytes are in place and are acknowledged, and the atomic stores what its rule gives, at no other byte; a word that
an uncorrectable error has spoiled sends back a spoiled value and nothing is stored. R131: a CLEAN or INVAL that performs
leaves its line clean, or out of its core's L1, and is acknowledged. The order of an access's parts is the model's choice
(log 17). -/
def Obligations.MemoryAccessesPerform : Prop :=
  (∀ (s : State) (k id src dst : Nat) (a : Access) (p : Part), Arrives s k id src dst (.access a) → a.parts = [p] →
    p.loc.space = .spad → s.heldBack id k a.ord a.changes a.parts = false → s.spad.wf = true →
    (∀ d, a.dst = some d → (a.kind = .load ∨ ∃ op, a.kind = .atomic op) → s.isMarked p.loc p.size = true →
      ∃ t, exec (.memoryAccess k) s = .next t ∧ t.spad = s.spad ∧ t.tasks = s.tasks ∧
        Replies t k id dst src (.value d 0 true a.changes p.loc.va)) ∧
    (s.isMarked p.loc p.size = false →
      (a.kind = .load → ∀ d, a.dst = some d →
        ∃ t, exec (.memoryAccess k) s = .next t ∧ t.spad = s.spad ∧ t.tasks = s.tasks ∧
          Replies t k id dst src (.value d
            ({ a with parts := [] }.fold p (s.spad.bytes p.loc.addr p.size)).result false false p.loc.va)) ∧
      ∀ op, a.kind = .atomic op →
        ∀ r, r = atomicRule op a.signed (8 * p.size) (s.spad.num p.loc.addr p.size)
          (a.operand.toNat % 2 ^ (8 * p.size)) (a.data.toNat % 2 ^ (8 * p.size)) →
        ∃ t, exec (.memoryAccess k) s = .next t ∧ t.tasks = s.tasks ∧
          t.spad = (match r with | some x => s.spad.putNum p.loc.addr p.size x | none => s.spad) ∧
          (∀ d, a.dst = some d → d ≠ .s 0 → Replies t k id dst src (.value d
            ({ a with parts := [], value := BitVec.ofNat 2048 (s.spad.num p.loc.addr p.size) }.result) false true
              p.loc.va)) ∧
          (a.dst = some (.s 0) → Replies t k id dst src .ack)) ∧
    (a.kind = .store →
      ∃ t, exec (.memoryAccess k) s = .next t ∧ t.spad = s.spad.write p.loc.addr (dataBytes a.data p.off p.size) ∧
        t.tasks = s.tasks ∧ Replies t k id dst src .ack)) ∧
  ∀ (s : State) (k id src dst : Nat) (a : Access) (p : Part) (attr : BitVec 3) (drop : Bool),
    Arrives s k id src dst (.access a) → a.parts = [p] → p.loc.space = .mem attr → a.kind = .clean drop → a.dst = none →
    s.heldBack id k a.ord a.changes a.parts = false →
    ∃ t, exec (.memoryAccess k) s = .next t ∧ t.tasks = s.tasks ∧ t.spad = s.spad ∧ Replies t k id dst src .ack ∧
      ∀ e ∈ (t.core (s.task id).core).l1, e.host = false → e.line = p.loc.addr / 64 → drop = false ∧ e.dirty = 0

/-- R135, R136: a tagged request that may perform performs and its answer goes back; one whose condition does not hold
joins its bank's list of 32, or is returned when the list is full, and a returned one is sent again. A withdrawal that
finds its request still waiting removes it, and its task retires when it was cancelled, or else is ready to issue it
again; one whose request has performed leaves the answer to complete it. R278 to R280: a walk on which the walker
works and that finds a leaf puts the translation into the caches of the core and cluster of its waiter, which issues
again; one that finds none makes one fault record for the page, and the waiter leaves its slot, or, while it holds
accumulators, waits in place; firmware, while the job is not stopped for pre-emption, then maps the page, or reflects the fault, which the task takes
when it next runs; an invalidation takes the lease's translations out of every cache. The order in which a full bank's requests are
tried again is the model's reading (log 49), and how the caches are kept its choice (log 19). -/
def Obligations.TaggedRequestsAndFaultsAreServed : Prop :=
  ((∀ (s : State) (k id src dst : Nat) (op : TaggedOp) (loc : Place) (r : Reg) (x : Word) (q : Bool),
    Arrives s k id src dst (.tagged op loc r x q) →
    (tagReady s op loc.addr = true → (∀ w ∈ s.bank, w.loc.addr ≠ loc.addr) →
      ∃ t, exec (.taggedRequest k) s = .next t ∧ t.bank = s.bank ∧ t.tasks = s.tasks ∧
        t.spad = (tagPerform s op loc.addr x).1.spad ∧ t.tags = (tagPerform s op loc.addr x).1.tags ∧
        Replies t k id (coreEnd (coreOfKey loc.addr)) (coreEnd (s.task id).core) (match op with
          | .ste => .ack
          | _ => .value r ((w64 (s.spad.num loc.addr 8)).setWidth 2048) (s.spoilt.contains (loc.addr / 8)) false
              (w64 (windowBase + loc.addr)))) ∧
    (tagReady s op loc.addr = false → s.bankLoad (bankOf loc.addr) < 32 →
      ∃ t, exec (.taggedRequest k) s = .next t ∧ t.bank = s.bank ++ [⟨k, id, op, loc, r, x⟩] ∧ t.tags = s.tags ∧
        t.spad = s.spad ∧ t.tasks = s.tasks ∧ Landed t k) ∧
    (tagReady s op loc.addr = false → 32 ≤ s.bankLoad (bankOf loc.addr) →
      ∃ t, exec (.taggedRequest k) s = .next t ∧ t.bank = s.bank ∧ t.tags = s.tags ∧ t.spad = s.spad ∧
        t.tasks = s.tasks ∧ Replies t k id src dst (.resend op loc r x))) ∧
  (∀ (s : State) (k id src dst : Nat) (op : TaggedOp) (loc : Place) (r : Reg) (x : Word),
    Arrives s k id src dst (.resend op loc r x) →
    ∃ t, exec (.taggedResend k) s = .next t ∧ t.tasks = s.tasks ∧ Replies t k id src dst (.tagged op loc r x (op != .ste))) ∧
  ∀ (s : State) (k id src dst n w : Nat), Arrives s k id src dst (.withdraw n w) → (s.task id).live = true →
    ((∃ g ∈ s.flight, g.id = w ∧ g.id ≠ k ∧ (g.body = .ack ∨ ∃ d x bad c va, g.body = .value d x bad c va)) →
      (∀ g ∈ s.flight, g.id = w → ¬ (match g.body with
        | .tagged .. | .arrive .. | .nodeWait .. => True
        | _ => False)) →
      ∃ t, exec (.withdrawal k) s = .next t ∧ t.tasks = s.tasks ∧ t.bank = s.bank ∧ Landed t k) ∧
    ((∀ g ∈ s.flight, g.id ≠ w) →
      ((s.task id).canp = false →
        ∃ t, exec (.withdrawal k) s = .next t ∧ (∀ b ∈ t.bank, b.task ≠ id) ∧ (t.task id).wait = .no ∧
          (t.task id).wdr = true ∧ (t.task id).pc = (s.task id).pc ∧ (t.task id).regs = (s.task id).regs) ∧
      ((s.task id).canp = true → ∃ t, exec (.withdrawal k) s = .next t ∧ (t.task id).live = false))) ∧
  (∀ (s s1 : State) (k : Nat) (w : Walk) (id : Nat) (a i : Word), w.who = [.task id a i] → (s.task id).live = true →
    (s.walks[k]? = some w → s.walking k w = true →
      (∀ e base size, { s with walks := s.walks.eraseIdx k }.walkOn w.lease (w.page * 65536) = (s1, .leaf e base size) →
        (s.task id).loom = .waiting → (s.task id).wait = .walk w.page →
        ∃ t, exec (.pageWalk k) s = .next t ∧ t.walks = s.walks.eraseIdx k ∧ (t.task id).wait = .no ∧
          (t.task id).loom = .running ∧ (t.task id).pc = (s.task id).pc ∧ t.walkCache = s1.walkCache ∧
          (t.core (s.task id).core).tlb.head? = some ⟨w.lease, base, size, e⟩ ∧
          (t.cluster (s.task id).pos).tlb.head? = some ⟨w.lease, base, size, e⟩) ∧
      (∀ lvl bad, { s with walks := s.walks.eraseIdx k }.walkOn w.lease (w.page * 65536) = (s1, .stop lvl bad) →
        (∀ x ∈ s.faults, ¬ (x.lease = w.lease ∧ x.page = w.page)) →
        (s.holdsAny id = false → s.localPending id = false →
          ∃ t, exec (.pageWalk k) s = .next t ∧ t.walks = s.walks.eraseIdx k ∧
            t.faults = s.faults ++ [{ w with level := lvl, malformed := bad }] ∧ (t.task id).loom = .faulted ∧
            (t.task id).slot = none) ∧
        (s.holdsAny id = true → (s.task id).canp = false →
          ∃ t, exec (.pageWalk k) s = .next t ∧ t.walks = s.walks.eraseIdx k ∧
            t.faults = s.faults ++ [{ w with level := lvl, malformed := bad }] ∧ (t.task id).wait = .fault ∧
            (t.task id).slot = (s.task id).slot))) ∧
    (s.faults[k]? = some w → s.faultsServed = true → (s.task id).canp = false →
      (∀ m, entriesOk m = true → ∃ t, exec (.firmwareMapPage k m) s = .next t ∧ t.faults = s.faults.eraseIdx k ∧
        ((s.task id).loom = .faulted → (t.task id).loom = .ready) ∧
        ((s.task id).loom = .waiting → (s.task id).wait = .fault → (t.task id).loom = .running ∧ (t.task id).wait = .no ∧
          t.mem = m.entries.foldl (fun mem e => mem.putNum (memKey e.1 e.2.1) 8 e.2.2.toNat) s.mem)) ∧
      ∃ t, exec (.firmwareReflectFault k) s = .next t ∧ t.faults = s.faults.eraseIdx k ∧
        (t.task id).wait = .trap 0x10 a (i + w64 (w.level * 256 + (if w.malformed then 5 else 1) * 16)))) ∧
  ∀ (s : State) (lease : Nat), ∃ t, exec (.translationInvalidate lease) s = .next t ∧ t.tasks = s.tasks ∧ t.mem = s.mem ∧
    (∀ c, ∀ e ∈ (t.core c).tlb, e.lease ≠ lease) ∧ (∀ c, ∀ e ∈ (t.core c).rows, e.lease ≠ lease) ∧
    (∀ p, ∀ e ∈ (t.cluster p).tlb, e.lease ≠ lease) ∧ ∀ e ∈ t.walkCache, ∀ x ∈ e.2, x.lease ≠ lease

/-- R49, R50, R147, R149, R150, R243, R383: a held command whose guard fills with 1 may run, a CQUERY is answered
then, once no earlier command of its task is held, and with 0 it ends DISCARDED, and a PUSH gives back its count (R153); a free channel takes the next command,
which ends with its status when its checks fail, and else holds the channel; the granule that finishes a command ends
it OK with its bytes, one that a fault ends gives that status, one that meets no translation waits for a walk, and any
other moves the command on by one granule; after 16 granules a channel is given up where another command may take it;
the first QUEUED task whose tile buffers fit has them, and its tile copies enter the job queue as far as it has room. R154, R156, R363, R364: a grant
joins its grantee's table, or the entry of the same granter and region, and its status returns to the granting task's
token; a grant to no live task, or to a full table, is refused; returned counts go to the granting core's RETP. What
`.i2c` writes (log 22) and what PLACE and OVERLAP look at (log 27) are the model's readings. -/
def Obligations.CopyCommandsAndPermitsMove : Prop :=
  ((∀ (s : State) (u : EngineUnit) (k : Nat) (c : Command), s.job? u k = some c →
    (c.held ≠ none → c.heldValue = some true → c.op ≠ .cquery →
      ∃ t, exec (.heldCommandRelease u k) s = .next t ∧ t.job? u k = some { c with held := none, heldValue := none }) ∧
    (c.held = none ∨ c.heldValue = some true → c.op = .cquery → heldBefore (s.jobs u) c.task k = false →
      ∃ t, exec (.heldCommandRelease u k) s = .next t ∧ (∀ x ∈ t.jobs u, x.id ≠ k) ∧ (t.task c.task).full c.dst = true ∧
        (t.core (s.task c.task).core).retp = 0) ∧
    (c.held ≠ none → c.heldValue = some false →
      ∃ t, exec (.heldCommandRelease u k) s = .next t ∧ Ended s t u c 0x80 0 ∧
        ∀ p, c.permit = some p → (t.cluster (p.idx / 65536)).permits =
          listUpdate (fun x => x.idx == p.idx && x.granter == p.granter && x.first == p.first && x.last == p.last)
            (fun x => { x with count := min 65535 (x.count + 1) }) (s.cluster (p.idx / 65536)).permits)) ∧
  (∀ (s s' : State) (pos chan : Nat) (c : Command), s.enginesRun pos = true → (s.cluster pos).channel chan = none → chan < 4 →
    s.nextCopy pos = some c →
    s' = { s.onCluster pos (fun cl => { cl with served := cl.served.put c.task s.seq }) with seq := s.seq + 1 } →
    (c.started = true →
      ∃ t, exec (.copyChannelTake pos chan) s = .next t ∧ (t.cluster pos).channel chan = some c.id) ∧
    (c.started = false →
      (∀ st, copyPrecheck s' pos c = some st →
        ∃ t, exec (.copyChannelTake pos chan) s = .next t ∧ Ended s t (.copy pos) c st 0) ∧
      (copyPrecheck s' pos c = none → c.op ≠ .permit →
        ∃ t, exec (.copyChannelTake pos chan) s = .next t ∧ (t.cluster pos).channel chan = some c.id ∧
          (t.job? (.copy pos) c.id).map (·.started) = some true) ∧
      (copyPrecheck s' pos c = none → c.op = .permit →
        ∃ t, exec (.copyChannelTake pos chan) s = .next t ∧ ∃ f ∈ t.flight, ∃ p, f.body = .grant c.id p ∧
          p.idx = bits c.a 31 0 ∧ p.granter = c.member ∧ p.count = c.ex))) ∧
  (∀ (s s1 : State) (pos chan : Nat) (c : Command), ((s.cluster pos).channel chan).bind (s.job? (.copy pos)) = some c →
    (∀ st a, c.status = some (st, a) → ∃ t, exec (.copyGranule pos chan) s = .next t ∧ Ended s t (.copy pos) c st a) ∧
    (c.status = none → s.enginesRun pos = true → s.commandWaits c.id = false → c.granules < 16 →
      (s.copyGranule pos c = (s1, none) →
        (copyTotal c ≤ c.progress + granuleElems c →
          ∃ t, exec (.copyGranule pos chan) s = .next t ∧ Ended s t (.copy pos) c 0 (copyBytes c)) ∧
        (c.progress + granuleElems c < copyTotal c →
          ∃ t, exec (.copyGranule pos chan) s = .next t ∧
            (t.job? (.copy pos) c.id).map (fun x => (x.progress, x.granules)) =
              some (c.progress + granuleElems c, c.granules + 1))) ∧
      (∀ st a, s.copyGranule pos c = (s1, some (.inr (st, a))) →
        ∃ t, exec (.copyGranule pos chan) s = .next t ∧ Ended s t (.copy pos) c st a) ∧
      ∀ v a, s.copyGranule pos c = (s1, some (.inl (v, a))) →
        ∃ t, exec (.copyGranule pos chan) s = .next t ∧ t.commandWaits c.id = true ∧
          (t.job? (.copy pos) c.id).map (·.progress) = some c.progress) ∧
    (16 ≤ c.granules →
      ∃ t, exec (.channelYield pos chan) s = .next t ∧ (t.job? (.copy pos) c.id).map (·.granules) = some 0 ∧
        (((s.onJob (.copy pos) c.id fun x => { x with granules := 0 }).nextCopy pos).isSome = true →
          (t.cluster pos).channel chan = none))) ∧
  ∀ (s : State) (pos id : Nat) (places : List (Option (Nat × Nat) × Nat)) (used : List (Nat × Nat × Nat × Nat)),
    s.firstIn pos .queued = some id → s.enginesRun pos = true →
    (s.liveTasks.filter fun e => e.2.pos == pos && e.2.loom == .prefetching).length < 8 →
    (s.cluster pos).jobs.length < 64 → s.unentered pos = none →
    placeTiles id (s.task id).tiles (s.cluster pos).tiles = some (places, used) →
    ∃ t, exec (.tileCopyStart pos) s = .next t ∧ (t.cluster pos).tiles = used ∧ (t.task id).loom ≠ .queued) ∧
  ((∀ (s : State) (k id src dst cmd : Nat) (p : Permit) (mine : List Permit), Arrives s k id src dst (.grant cmd p) →
    mine = (s.cluster (p.idx / 65536)).permits.filter (fun x => x.idx == p.idx) →
    ((s.task p.idx).live = false →
      ∃ t, exec (.grantFlit k) s = .next t ∧ (∃ f ∈ t.flight, f.body = .grantStatus cmd (tokenWord 0x88 0)) ∧ t.clusters = s.clusters) ∧
    ((s.task p.idx).live = true → (∀ x ∈ mine, ¬ (x.granter = p.granter ∧ x.first = p.first ∧ x.last = p.last)) →
      (mine.length < 16 → (s.cluster (p.idx / 65536)).permits.length < 1024 →
        ∃ t, exec (.grantFlit k) s = .next t ∧ (∃ f ∈ t.flight, f.body = .grantStatus cmd (tokenWord 0 p.count)) ∧
          (t.cluster (p.idx / 65536)).permits = (s.cluster (p.idx / 65536)).permits ++ [p]) ∧
      (16 ≤ mine.length ∨ 1024 ≤ (s.cluster (p.idx / 65536)).permits.length →
        ∃ t, exec (.grantFlit k) s = .next t ∧ (∃ f ∈ t.flight, f.body = .grantStatus cmd (tokenWord 0x87 0)) ∧
          t.clusters = s.clusters)) ∧
    ((s.task p.idx).live = true → (∃ x ∈ mine, x.granter = p.granter ∧ x.first = p.first ∧ x.last = p.last) →
      ∃ t, exec (.grantFlit k) s = .next t ∧ (∃ f ∈ t.flight, f.body = .grantStatus cmd (tokenWord 0 p.count)) ∧
        (t.cluster (p.idx / 65536)).permits =
          listUpdate (fun x => x.idx == p.idx && x.granter == p.granter && x.first == p.first && x.last == p.last)
            (fun x => { x with count := min 65535 (x.count + p.count) }) (s.cluster (p.idx / 65536)).permits)) ∧
  (∀ (s : State) (k id src dst cmd : Nat) (w : Word) (e : Nat × Cluster) (c : Command), Arrives s k id src dst (.grantStatus cmd w) →
    s.clusters.find? (fun e => e.2.jobs.any fun c => c.id == cmd) = some e → e.2.jobs.find? (fun c => c.id == cmd) = some c →
    ∃ t, exec (.grantStatus k) s = .next t ∧ Ended s t (.copy e.1) c (BitVec.ofNat 8 (bits w 7 0)) (bits w 63 16)) ∧
  ∀ (s : State) (k id src dst core n : Nat), Arrives s k id src dst (.permitReturn core n) →
    ∃ t, exec (.permitReturn k) s = .next t ∧ (t.core core).retp = min 65535 ((s.core core).retp + n) ∧ t.tasks = s.tasks)

/-- R174 to R183, R19: a matrix command that may start starts, or ends with its status, and a queued MGANG leaves the queue;
MZERO and MSCALE, when they end, leave zeros with product 1.0, and the product of the two scales; MLDB leaves the block it
read in its buffer; MREL leaves the accumulators to nobody; an MMA whose rows are applied, with those of its gang's step, an MRDZ whose granules are
written and an MWRZ whose rows are loaded end OK. R19, R176, R181, R377: MGANGs with one mask pending on every core of it
form the gang: each holds its core, in the mask, with none pending, and its token holds OK; the MMAs that every member has
reached start as one step, or, where they do not match, all end GANG_MISMATCH; the accumulators of a holder that has
retired are free once its commands have ended. Undefined accumulators hold free values (log 3); the sign of a zero product
is the model's reading (log 48). -/
def Obligations.MatrixCommandsRunAndGangsForm : Prop :=
  (∀ (s : State) (core : Nat) (c : Command), s.enginesRun (core / 8) = true →
    (s.nextMatrix core = some c →
      (c.op = .mzero ∨ c.op = .mscale ∨ c.op = .mrel ∨ c.op = .mrelPending →
        ∃ t, exec (.matrixCommandStart core) s = .next t ∧ (t.job? (.slice core) c.id).map (·.started) = some true) ∧
      (c.op = .mgang →
        ∃ t, exec (.matrixCommandStart core) s = .next t ∧ ∀ x ∈ t.jobs (.slice core), x.id ≠ c.id) ∧
      (c.op = .mma → (s.core core).broken = true →
        ∃ t, exec (.matrixCommandStart core) s = .next t ∧ Ended s t (.slice core) c 0x8A 0) ∧
      ∀ r, (c.op = .mma ∧ (s.core core).broken = false ∧ r = mmaCheck s core c) ∨
          (c.op = .mldb ∧ r = mldbCheck s (s.task c.task) (core / 8) c) ∨
          ((c.op = .mrdz ∨ c.op = .mwrz) ∧ r = moveCheck s core c) →
        (∀ st, r = some st → ∃ t, exec (.matrixCommandStart core) s = .next t ∧ Ended s t (.slice core) c st 0) ∧
        (r = none →
          ∃ t, exec (.matrixCommandStart core) s = .next t ∧ (t.job? (.slice core) c.id).map (·.started) = some true)) ∧
    ((s.runningJob core fun c => c.status.isSome) = none → (s.runningJob core fun _ => true) = some c →
      (c.op = .mzero →
        ∃ t, exec (.matrixCommandDone core) s = .next t ∧ Ended s t (.slice core) c 0 0 ∧
          (t.core core).acc.get c.acc = ⟨none, [], .either, 1, 0⟩) ∧
      (c.op = .mscale → ∀ n m m' e e', Fmt.fp32.decode (bits c.a 31 0) = .fin n m e → Fmt.fp32.decode (bits c.b 31 0) = .fin n m' e' →
        ∃ t, exec (.matrixCommandDone core) s = .next t ∧ Ended s t (.slice core) c 0 0 ∧
          (t.core core).acc.get c.acc = { (s.core core).acc.get c.acc with productMant := m * m', productExp := e + e' }) ∧
      (c.op = .mrel → (s.core core).holder = some c.task →
        ∃ t, exec (.matrixCommandDone core) s = .next t ∧ Ended s t (.slice core) c 0 0 ∧ (t.core core).holder = none ∧
          (t.core core).buf = Vector.replicate 2 none) ∧
      (c.op = .mldb → ∀ s1 b, readBlock (s.task c.task) (core / 8) c s = .ok s1 b →
        ∃ t, exec (.matrixCommandDone core) s = .next t ∧ (∀ x ∈ t.jobs (.slice core), x.id ≠ c.id) ∧
          (t.core core).buf.toList.getD (c.mod.toNat % 2) none = some b) ∧
      (c.op = .mma → (s.core core).running = some c → ∀ ms s1 l, ms = s.stepMembers core → l ∈ ms → (∀ m ∈ ms, l.1 ≤ m.1) →
        mmaAdvance (s.task l.2.task) (core / 8) c ms 8 c.progress s = (s1, none) →
        ∃ t, exec (.matrixCommandDone core) s = .next t ∧
          ∀ m ∈ ms, (∀ x ∈ t.jobs (.slice m.1), x.id ≠ m.2.id) ∧ (t.core m.1).acc = (s1.core m.1).acc) ∧
      (c.op = .mrdz → ∀ s1, mrdzGranules (.slice core) core (moveCols c * moveRows c) c s = (s1, none) →
        ∃ t, exec (.matrixCommandDone core) s = .next t ∧ ∀ x ∈ t.jobs (.slice core), x.id ≠ c.id) ∧
      (c.op = .mwrz → ∀ s1 n, mwrzRows (s.task c.task) (core / 8) core c 128 c.progress s = (s1, n, none) →
        ∃ t, exec (.matrixCommandDone core) s = .next t ∧ (∀ x ∈ t.jobs (.slice core), x.id ≠ c.id) ∧
          ((t.core core).acc.get c.acc).kind = (if patFmt c.px = some .fp32 then .fp32 else .int32)))) ∧
  ((∀ (s : State) (pos : Nat) (mask : BitVec 8), mask ≠ 0 →
    (∀ i ∈ maskList 8 mask.toNat, ∃ id d, (s.core (pos * 8 + i)).pending = some (id, mask, d)) →
    ∃ t, exec (.gangForms pos mask) s = .next t ∧
      ∀ i ∈ maskList 8 mask.toNat, ∀ id d, (s.core (pos * 8 + i)).pending = some (id, mask, d) →
        (t.core (pos * 8 + i)).holder = some id ∧ (t.core (pos * 8 + i)).gang = mask ∧
        (t.core (pos * 8 + i)).pending = none ∧
        ∀ n : Fin 64, d = .s n → n ≠ 0 → (s.task id).live = true →
          (t.task id).get64 d = tokenWord 0 0 ∧ (t.task id).full d = true) ∧
  (∀ (s : State) (pos : Nat) (mask : BitVec 8), s.enginesRun pos = true → 2 ≤ (maskList 8 mask.toNat).length →
    (∀ i ∈ maskList 8 mask.toNat, (s.memberMma (pos * 8 + i) mask).isSome = true) →
    ∃ t, exec (.gangStepStart pos mask) s = .next t ∧
      (∀ i ∈ maskList 8 mask.toNat, (t.core (pos * 8 + i)).gangStep = (s.core (pos * 8 + i)).gangStep + 1) ∧
      ((∀ i ∈ maskList 8 mask.toNat, ∀ j ∈ maskList 8 mask.toNat, ∀ c d, s.memberMma (pos * 8 + i) mask = some c →
          s.memberMma (pos * 8 + j) mask = some d →
          c.pxn = d.pxn ∧ c.a = d.a ∧ c.ex = d.ex ∧ fld c.px 63 56 = fld d.px 63 56 ∧ mmaCheck s (pos * 8 + i) c = none) →
        ∀ i ∈ maskList 8 mask.toNat, ∀ c, s.memberMma (pos * 8 + i) mask = some c →
          (t.job? (.slice (pos * 8 + i)) c.id).map (·.started) = some true) ∧
      ((∃ i ∈ maskList 8 mask.toNat, ∃ j ∈ maskList 8 mask.toNat, ∃ c d, s.memberMma (pos * 8 + i) mask = some c ∧
          s.memberMma (pos * 8 + j) mask = some d ∧
          ¬ (c.pxn = d.pxn ∧ c.a = d.a ∧ c.ex = d.ex ∧ fld c.px 63 56 = fld d.px 63 56)) →
        ∀ i ∈ maskList 8 mask.toNat, ∀ c, s.memberMma (pos * 8 + i) mask = some c →
          Ended s t (.slice (pos * 8 + i)) c 0x89 0)) ∧
  ∀ (s : State) (core id : Nat), (s.core core).holder = some id → (s.core core).release = true →
    (∀ c ∈ (s.core core).queue, c.task ≠ id) →
    ∃ t, exec (.accumulatorRelease core) s = .next t ∧ (t.core core).holder = none ∧ (t.core core).gang = 0 ∧
      (t.core core).buf = Vector.replicate 2 none)

/-- R184, R379 to R381: a TMV of a port, not held nor behind a held one of its task or an earlier one that the port has still to check, ends with its status when its
checks or the checks of its pages fail, and otherwise starts with X and the initial values it reads; a granule read of
a row counts, a row whose granules have arrived is computed when its turn on its Thresher has come, an invalid block
scale ends the command FP_INVALID, and a beat of 8 results, or of a stack's last ones, reaches Y, the last beat ending
the command with the number of rows. R149: a command to which firmware has reflected a fault ends with it. The stack
of a page is a free value (log 11). -/
def Obligations.ThreshersCompute : Prop :=
  ∀ (s : State) (pos k row : Nat) (c : Command), s.job? (.thresher pos) k = some c →
    (∀ st a, c.status = some (st, a) →
      ∃ t, exec (.thresherGranuleRead pos k row) s = .next t ∧ Ended s t (.thresher pos) c st a) ∧
    (c.status = none → s.enginesRun pos = true → s.commandWaits k = false →
      (portMayRun (s.jobs (.thresher pos)) c = true → c.started = false →
        (∀ st, tmvCheck s pos c = some st →
          ∃ t, exec (.thresherGranuleRead pos k row) s = .next t ∧ Ended s t (.thresher pos) c st 0) ∧
        (tmvCheck s pos c = none →
          (∀ s1, pageChecks s (s.task c.task) pos c = .ok s1 false →
            ∃ t, exec (.thresherGranuleRead pos k row) s = .next t ∧ Ended s t (.thresher pos) c 0x85 0) ∧
          ∀ s1 s2 xs ys, pageChecks s (s.task c.task) pos c = .ok s1 true →
            readOperands (s.task c.task) pos c s1 = .ok s2 (xs, ys) →
            ∃ t, exec (.thresherGranuleRead pos k row) s = .next t ∧
              (t.job? (.thresher pos) k).map (fun x => (x.started, x.xcodes, x.inits)) = some (true, xs, ys))) ∧
      (portMayRun (s.jobs (.thresher pos)) c = true → c.started = true → row ∈ tmvRows c → c.rowDone row = false →
        (c.reads.filter fun n => n == row).length < rowReads c → ∀ s1 r, rowBlocks (s.task c.task) pos c row s = .ok s1 r →
          (r = none → ∃ t, exec (.thresherGranuleRead pos k row) s = .next t ∧ Ended s t (.thresher pos) c 0x19 0) ∧
          ∀ bl, r = some bl → ∃ t, exec (.thresherGranuleRead pos k row) s = .next t ∧
            (t.job? (.thresher pos) k).map (·.reads) = some (row :: c.reads)) ∧
      (c.started = true → row ∈ tmvRows c → c.rowDone row = false → rowReads c ≤ (c.reads.filter fun n => n == row).length →
        s.rowTurn pos c row = true → ∀ s1 r, tmvRow (s.task c.task) pos c row s = .ok s1 r →
          (r = none → ∃ t, exec (.thresherRow pos k row) s = .next t ∧ Ended s t (.thresher pos) c 0x19 0) ∧
          ∀ v, r = some v → ∃ t, exec (.thresherRow pos k row) s = .next t ∧
            (t.job? (.thresher pos) k).map (·.rows) = some (c.rows ++ [(row, BitVec.ofNat 32 v)])) ∧
      ∀ stack, c.started = true → c.ready stack ≠ [] →
        ((stackRows c stack).all c.rowDone = true ∨ 8 ≤ (c.ready stack).length) →
        ∀ s1 w, writeResults (s.task c.task) pos c ((c.ready stack).take 8) s = .ok s1 () →
          w = c.written ++ ((c.ready stack).take 8).map (·.1) →
          ((tmvRows c).all w.contains = true →
            ∃ t, exec (.resultBeat pos k stack) s = .next t ∧ Ended s t (.thresher pos) c 0 (tmvRows c).length) ∧
          ((tmvRows c).all w.contains = false →
            ∃ t, exec (.resultBeat pos k stack) s = .next t ∧ t.mem = s1.mem ∧ t.spad = s1.spad ∧
              (t.job? (.thresher pos) k).map (·.written) = some w))

/-- R17, R208, R209, R354 to R358: a send to a task that is gone reports GONE; one whose register a producer of the
target still owes its value is held there, and applied later; `.arm` to an empty armed register, `.fill` to an empty
one and `.over` write it and report DELIVERED, and the arm is gone; the add mode adds to a full one; every other case
reports REFUSED and writes nothing. The status reaches the sender's DST, or, with TRAP, moves the sender on when it is
DELIVERED and traps it there when it is not. R212 to R215, R360, R362: a message to a core with room for it is
accepted, bound as its handler id is bound now, and one to a full inbox is refused; the oldest bound message starts
its activation in a free slot, at its handler, with its address, sender, time and id in s1 to s4; a post is ranked,
past the depth the lowest goes, and the one that goes at once is told so. The frame record that an activation uses,
and the slot it takes, follow the model's choice (log 33). -/
def Obligations.SendsAndMessagesAreHandled : Prop :=
  ((∀ (s : State) (k id src dst : Nat) (n : Word) (x : VWord) (vec fp rel : Bool) (d : Reg) (trap : Bool) (g : Nat) (r : Reg),
    Arrives s k id src dst (.send n x vec fp rel d trap) → s.heldSend k = none → s.behindRelease id k = false →
    g = nTask n → r = nReg n →
    ((s.task g).live = false ∨ (s.task g).gen ≠ nGen n ∨ (s.task g).loom = .retiring →
      ∃ t, exec (.sendDelivery k) s = .next t ∧ t.tasks = s.tasks ∧ Replies t k id dst src (.sendStatus 0x91 n d trap)) ∧
    ((s.task g).live = true → (s.task g).gen = nGen n → (s.task g).loom ≠ .retiring →
      ((s.land k).pendingOn g r = true ∨ (s.land k).readsFirst g r = true →
        ∃ t vc, exec (.sendDelivery k) s = .next t ∧ (t.task g).regs = (s.task g).regs ∧ Landed t k ∧
          (t.task g).held = (s.task g).held ++ [⟨k, id, src, dst, vc, .send n x vec fp rel d trap⟩]) ∧
      ((s.land k).pendingOn g r = false → (s.land k).readsFirst g r = false → (s.task g).held = [] →
        ((nMode n = 0 ∧ (s.task g).full r = false ∧ s.armed g r = true) ∨ (nMode n = 1 ∧ (s.task g).full r = false) ∨
            nMode n = 2 →
          ∃ t, exec (.sendDelivery k) s = .next t ∧ TaskWrote s t g r (sentValue r x) ∧
            (nMode n = 0 → t.armed g r = false) ∧ Replies t k id dst src (.sendStatus 0 n d trap)) ∧
        (nMode n = 3 → (s.task g).full r = true →
          ∃ t, exec (.sendDelivery k) s = .next t ∧ TaskWrote s t g r (addSent r fp ((s.task g).value r) x) ∧
            Replies t k id dst src (.sendStatus 0 n d trap)) ∧
        ((nMode n = 0 ∧ ((s.task g).full r = true ∨ s.armed g r = false)) ∨ (nMode n = 1 ∧ (s.task g).full r = true) ∨
            (nMode n = 3 ∧ (s.task g).full r = false) →
          ∃ t, exec (.sendDelivery k) s = .next t ∧ t.tasks = s.tasks ∧
            Replies t k id dst src (.sendStatus 0x90 n d trap))))) ∧
  (∀ (s : State) (k id src dst g : Nat) (vc : BitVec 2) (n : Word) (x : VWord) (vec fp rel : Bool) (d : Reg) (trap : Bool)
    (rest : List Flight), s.heldSend k = some (g, ⟨k, id, src, dst, vc, .send n x vec fp rel d trap⟩) → nTask n = g →
    (s.task g).held = ⟨k, id, src, dst, vc, .send n x vec fp rel d trap⟩ :: rest → nMode n = 2 →
    s.pendingOn g (nReg n) = false → s.readsFirst g (nReg n) = false →
    ∃ t, exec (.sendDelivery k) s = .next t ∧ TaskWrote s t g (nReg n) (sentValue (nReg n) x) ∧
      Replies t k id dst src (.sendStatus 0 n d trap)) ∧
  ∀ (s : State) (k id src dst : Nat) (st : BitVec 8) (n : Word) (d : Reg),
    (Arrives s k id src dst (.sendStatus st n d false) →
      ∃ t, exec (.sendStatus k) s = .next t ∧ TaskWrote s t id d (st.setWidth 2048)) ∧
    (Arrives s k id src dst (.messageStatus st n d false) →
      ∃ t, exec (.messageStatus k) s = .next t ∧ TaskWrote s t id d (st.setWidth 2048)) ∧
    (Arrives s k id src dst (.postStatus st d) →
      ∃ t, exec (.postStatus k) s = .next t ∧ TaskWrote s t id d (st.setWidth 2048)) ∧
    ((s.task id).live = true → (s.task id).wait = .answer k →
      ∀ e ∈ [(Instr.sendStatus k, Body'.sendStatus st n d true, (0x25 : Word)),
          (Instr.messageStatus k, Body'.messageStatus st n d true, (0x28 : Word))],
        Arrives s k id src dst e.2.1 →
        (st = 0 → ∃ t, exec e.1 s = .next t ∧ TaskWrote s t id d 0 ∧ (t.task id).pc = nextPc (s.task id).pc) ∧
        (st ≠ 0 → (s.task id).inh = false → (s.lease (s.task id).lease).trapVec ≠ 0 →
          ∃ t, exec e.1 s = .next t ∧ (t.task id).trapCause = e.2.2 ∧ (t.task id).trapPc = (s.task id).pc ∧
            (t.task id).trapAddr = n ∧ (t.task id).trapInfo = st.setWidth 64 ∧
            (t.task id).pc = (s.lease (s.task id).lease).trapVec))) ∧
  ((∀ (s : State) (k id src dst core : Nat) (m : Msg) (w : Word) (d : Reg) (trap : Bool) (l : Launch),
    Arrives s k id src dst (.message core m w d trap) → s.behindRelease id k = false →
    ((s.core core).inboxUsed < (s.lease (s.cluster (core / 8)).lease).inbox → s.launch? m.ver.toNat = some l →
      l.killed = false → l.cause = none →
      ∃ t, exec (.message k) s = .next t ∧ Replies t k id dst src (.messageStatus 0 w d trap) ∧
        (t.core core).inbox = (s.core core).inbox ++ [{ m with accepted := s.now, bound := (s.core core).handlers.get m.id }]) ∧
    ((s.lease (s.cluster (core / 8)).lease).inbox ≤ (s.core core).inboxUsed →
      ∃ t, exec (.message k) s = .next t ∧ Replies t k id dst src (.messageStatus 0x90 w d trap) ∧ t.cores = s.cores)) ∧
  (∀ (s s' : State) (core slot id : Nat) (g : BitVec 7) (m : Msg),
    (s.core core).inbox.find? (fun m => m.bound != 0) = some m → s.freeSlot core = some slot →
    s.takeIndex (core / 8) = some (s', id, g) → (s.core core).activation = none → s.halted (core / 8) = false →
    ∃ t, exec (.handlerActivationStart core) s = .next t ∧ (t.core core).activation = some id ∧
      (t.core core).inbox = (s.core core).inbox.erase m ∧ (t.task id).live = true ∧ (t.task id).slot = some slot ∧
      (t.task id).pc = m.bound ∧ (t.task id).regs = activationRegs m ∧ (t.task id).ver = m.ver ∧ (t.task id).prio = 3) ∧
  ∀ (s : State) (k id src dst core : Nat) (b : Fin 4) (p : Post) (d : Reg) (old : List Post) (depth : Nat),
    Arrives s k id src dst (.post core b p d) → s.behindRelease id k = false → old = (s.core core).boxes.get b →
    depth = (s.core core).depths.get b →
    ∃ t, exec (.postFlit k) s = .next t ∧ (t.core core).boxes.get b = (rankPost p old).take depth ∧
      Replies t k id dst src (.postStatus
        (if depth ≤ old.length ∧ depth ≤ (old.takeWhile fun q => postAbove q p).length then 0x96 else 0) d))

/-- R218, R219, R365: an arrival that does not complete its node is counted, and BARR's is answered with the phase;
the one that completes a root flips it, its phase one on and nothing arrived, and the one that completes another node
sends that node's own arrival to its parent; an arrival that finds its node complete is held there; BLINK changes the
target within 1 to 65535 and answers with it, or answers BOUNDS and changes nothing; a request at words that are no
node is answered FREED and changes nothing; a flip of a complete child advances its phase; a BWAIT whose token has
passed is answered at once and otherwise joins the node's list; a token reaches its register, and the end of a BWAIT
moves its task on. -/
def Obligations.BarrierEventsAct : Prop :=
  ∀ (s : State) (k id src dst n : Nat) (d : Reg), s.spad.wf = true →
    (s.tagK n = true → (s.node n).complete = false → s.nodeArrived n + 1 < s.nodeTarget n →
      Arrives s k id src dst (.arrive n .barr (.task id d none)) →
      ∃ t, exec (.arrive k) s = .next t ∧ t.nodeArrived n = s.nodeArrived n + 1 ∧ t.nodePhase n = s.nodePhase n ∧
        t.nodeTarget n = s.nodeTarget n ∧
        ∃ f ∈ t.flight, f.body = .nodeAnswer (.task id d none) (w64 (s.nodePhase n))) ∧
    (s.tagK n = true → (s.node n).complete = false → s.nodeArrived n + 1 = s.nodeTarget n → s.basteReq = none →
      Arrives s k id src dst (.arrive n .barr (.task id d none)) →
      (s.nodeParent n = 0 →
        ∃ t, exec (.arrive k) s = .next t ∧ t.nodeArrived n = 0 ∧ t.nodePhase n = (s.nodePhase n + 1) % 2 ^ 32 ∧
          t.nodeTarget n = s.nodeTarget n ∧
          ∃ f ∈ t.flight, f.body = .nodeAnswer (.task id d none) (w64 (s.nodePhase n))) ∧
      (s.nodeParent n ≠ 0 →
        ∃ t, exec (.arrive k) s = .next t ∧ (t.node n).complete = true ∧ t.nodePhase n = s.nodePhase n ∧
          ∃ f ∈ t.flight, f.body = .arrive (s.nodeParent n) (.child n) (.child n))) ∧
    (s.tagK n = true → (s.node n).complete = true → s.bankLoad (bankOf n) < 32 →
      Arrives s k id src dst (.arrive n .barr (.task id d none)) →
      ∃ t, exec (.arrive k) s = .next t ∧ t.spad = s.spad ∧
        (t.node n).held = (s.node n).held ++ [.barr (.task id d none)]) ∧
    (∀ (x : BitVec 16) (v : Int), s.tagK n = true → (s.node n).complete = false →
      Arrives s k id src dst (.arrive n (.blink x) (.task id d none)) → v = (s.nodeTarget n : Int) + x.toInt →
      ((v < 1 ∨ 65535 < v) →
        ∃ t, exec (.arrive k) s = .next t ∧ t.spad = s.spad ∧
          ∃ f ∈ t.flight, f.body = .nodeAnswer (.task id d none) 0x1A) ∧
      ((s.nodeArrived n : Int) < v → v ≤ 65535 →
        ∃ t, exec (.arrive k) s = .next t ∧ (t.nodeTarget n : Int) = v ∧ t.nodeArrived n = s.nodeArrived n ∧
          t.nodePhase n = s.nodePhase n ∧
          ∃ f ∈ t.flight, f.body = .nodeAnswer (.task id d none) (w64 (v.toNat <<< 16)))) ∧
    (s.tagK n = false →
      (Arrives s k id src dst (.arrive n .barr (.task id d none)) →
        ∃ t, exec (.arrive k) s = .next t ∧ t.spad = s.spad ∧
          ∃ f ∈ t.flight, f.body = .nodeAnswer (.task id d none) 0x200000000) ∧
      ∀ x, Arrives s k id src dst (.arrive n (.blink x) (.task id d none)) →
        ∃ t, exec (.arrive k) s = .next t ∧ t.spad = s.spad ∧
          ∃ f ∈ t.flight, f.body = .nodeAnswer (.task id d none) 0x20000001A) ∧
    (∀ ph, Arrives s k id src dst (.flip n ph) → s.tagK n = true → (s.node n).complete = true → (s.node n).held = [] →
      s.basteReq = none →
      ∃ t, exec (.flip k) s = .next t ∧ t.nodePhase n = (s.nodePhase n + 1) % 2 ^ 32 ∧ t.nodeArrived n = 0 ∧
        (t.node n).complete = false) ∧
    (∀ tok w, Arrives s k id src dst (.nodeWait n tok (.task id d w)) → s.tagK n = true →
      (tokenPassed (s.nodePhase n) tok.toNat = true →
        ∃ t, exec (.nodeWait k) s = .next t ∧ t.spad = s.spad ∧ t.nodes = s.nodes ∧
          ∃ f ∈ t.flight, f.body = .nodeAnswer (.task id d w) (barrierWord (s.nodePhase n) tok.toNat false)) ∧
      (tokenPassed (s.nodePhase n) tok.toNat = false → s.bankLoad (bankOf n) < 32 →
        ∃ t, exec (.nodeWait k) s = .next t ∧ t.spad = s.spad ∧ ∃ x ∈ (t.node n).waiters, x.token = tok ∧ x.client = .task id d w)) ∧
    ∀ word,
      (Arrives s k id src dst (.nodeAnswer (.task id d none) word) →
        ∃ t, exec (.nodeAnswer k) s = .next t ∧ TaskWrote s t id d (word.setWidth 2048)) ∧
      ∀ a, Arrives s k id src dst (.nodeAnswer (.task id d (some a)) word) → (s.task id).wait = .answer a →
        (s.task id).canp = false →
        ∃ t, exec (.nodeAnswer k) s = .next t ∧ TaskWrote s t id d (word.setWidth 2048) ∧ (t.task id).wait = .no ∧
          (t.task id).pc = nextPc (s.task id).pc

/-- R198, R200, R236 to R239, R248, R249: a request acts on its entry in the order of arrival and is answered; a
retiring task's settlement, which comes after its release, settles its own entry. An answer with a value fills DST and
moves the task on; one that finds a TOUCH unsettled parks its task outside its slot, or in place while it holds
accumulators, unless a wake came first, when the task asks again, or a cancel, when it retires; a trap in an answer is
taken, with the presence of the destination as before. A wake makes a parked task READY, or retires it when it was
cancelled, and lets one that waits in place ask again; a CANCEL retires a task that is not running, is kept for one
that is, on a table walk too (R241), and withdraws a wait at a bank; a spilled entry whose waiters could not be served wakes them once a body is
free. -/
def Obligations.SpoolEventsAct : Prop :=
  (∀ (s : State) (k id src dst : Nat) (op : SpoolOp) (h : Word) (d : Reg) (r : SpoolReply),
    Arrives s k id src dst (.spool op h d) → r = spoolAct (s.land k) id op h →
    (op.final = false → ∃ t, exec (.spoolRequest k) s = .next t ∧ t.spool = r.s.spool ∧
      Replies t k id dst src (.answer op h d r.word r.trap r.settled r.park)) ∧
    (op.final = true → s.unperformed id = false → s.releasing id = false → Fresh s h → (s.entry (hKey h)).grid = false →
      (s.entry (hKey h)).isSettled = false →
      ∃ t, exec (.spoolRequest k) s = .next t ∧
        (∀ x, op = .retire x → Settled (s.entry (hKey h)) (t.entry (hKey h)) .resolved ∧
          ((s.entry (hKey h)).fos = false → (t.entry (hKey h)).value = x)) ∧
        (op = .retireCancelled → Settled (s.entry (hKey h)) (t.entry (hKey h)) .cancelled) ∧
        ∀ c x, op = .retirePoisoned c x → Settled (s.entry (hKey h)) (t.entry (hKey h)) .poisoned ∧
          ((s.entry (hKey h)).fos = false → (t.entry (hKey h)).cause = c ∧ (t.entry (hKey h)).record = w64 (bits x 55 0)))) ∧
  (∀ (s : State) (k id src dst : Nat) (h : Word) (d : Reg) (nc : Bool) (e : Entry), (s.task id).live = true →
    (s.task id).wait = .answer k → e = s.entry (hKey h) →
    (∀ x b, Arrives s k id src dst (.answer (.touch nc) h d x none b false) →
      ∃ t, exec (.spoolAnswer k) s = .next t ∧ TaskWrote s t id d (x.setWidth 2048) ∧
        (t.task id).pc = nextPc (s.task id).pc ∧ (t.task id).wait = .no) ∧
    (Arrives s k id src dst (.answer (.touch nc) h d 0 none false true) →
      ((s.task id).canp = true → ∃ t, exec (.spoolAnswer k) s = .next t ∧ (t.task id).live = false) ∧
      ((s.task id).canp = false → id ∈ e.waiters → (e.isSettled = false ∨ e.spilled = true) →
        (s.holdsAny id = false → s.localPending id = false →
          ∃ t, exec (.spoolAnswer k) s = .next t ∧ (t.task id).loom = .parked ∧ (t.task id).slot = none ∧
            (t.task id).waitOn = [h] ∧ (t.task id).pc = (s.task id).pc) ∧
        (s.holdsAny id = true →
          ∃ t, exec (.spoolAnswer k) s = .next t ∧ (t.task id).loom = .waiting ∧ (t.task id).slot = (s.task id).slot ∧
            (t.task id).waitOn = [h] ∧ (t.task id).pc = (s.task id).pc)) ∧
      ((s.task id).canp = false → (s.holdsAny id = true ∨ s.localPending id = false) →
        (id ∉ e.waiters ∨ (e.isSettled = true ∧ e.spilled = false)) →
        ∃ t, exec (.spoolAnswer k) s = .next t ∧ (t.task id).loom = .running ∧ (t.task id).wait = .no ∧
          (t.task id).pc = (s.task id).pc)) ∧
    ∀ c a i, Arrives s k id src dst (.answer (.touch nc) h d 0 (some (c, a, i)) false false) →
      (s.task id).inh = false → (s.lease (s.task id).lease).trapVec ≠ 0 →
      ∃ t, exec (.spoolAnswer k) s = .next t ∧ (t.task id).trapCause = c.setWidth 64 ∧ (t.task id).trapPc = (s.task id).pc ∧
        (t.task id).trapAddr = a ∧ (t.task id).trapInfo = i ∧ (t.task id).pc = (s.lease (s.task id).lease).trapVec ∧
        ∀ r own, (s.task id).emptied = some (r, own) → (t.task id).full r = true) ∧
  (∀ (s : State) (k id src dst p : Nat) (h : Word), Arrives s k id src dst (.wake p [id] h) → (s.task id).live = true →
    h ∈ (s.task id).waitOn →
    ((s.task id).loom = .parked → (s.task id).canp = false →
      ∃ t, exec (.wakeFlit k) s = .next t ∧ (t.task id).loom = .ready ∧ (t.task id).waitOn = []) ∧
    ((s.task id).loom = .parked → (s.task id).canp = true →
      ∃ t, exec (.wakeFlit k) s = .next t ∧ (t.task id).live = false) ∧
    ((s.task id).loom = .waiting → (s.task id).waitObj ≠ 0 →
      ∃ t, exec (.wakeFlit k) s = .next t ∧ (t.task id).loom = .running ∧ (t.task id).wait = .no)) ∧
  (∀ (s : State) (k id src dst : Nat), Arrives s k id src dst (.cancel id) → (s.task id).live = true →
    ((s.task id).loom = .running ∨ ((s.task id).loom = .waiting ∧ ∃ p, (s.task id).wait = .walk p) →
      ∃ t, exec (.cancelDelivery k) s = .next t ∧ (t.task id).canp = true ∧ (t.task id).live = true) ∧
    ((s.task id).loom = .queued ∨ (s.task id).loom = .prefetching ∨ (s.task id).loom = .ready ∨ (s.task id).loom = .parked ∨
        (s.task id).loom = .faulted ∨ ((s.task id).loom = .waiting ∧ (∀ j, (s.task id).wait ≠ .answer j) ∧ ∀ p, (s.task id).wait ≠ .walk p) →
      ∃ t, exec (.cancelDelivery k) s = .next t ∧ (t.task id).live = false) ∧
    ∀ j, (s.task id).loom = .waiting → (s.task id).wait = .answer j → (s.land k).waitsAtBank id j = true →
      ∃ t, exec (.cancelDelivery k) s = .next t ∧ (t.task id).canp = true ∧ (t.task id).live = true ∧
        ∃ f ∈ t.flight, f.body = .withdraw id j) ∧
  ∀ (s u : State) (lease key : Nat) (e : Entry),
    s.spool.find? (fun e => e.2.spilled && !e.2.waiters.isEmpty && s.leaseOfEntry e.1 == some lease &&
      (s.refill [] e.1).isSome) = some (key, e) → s.refill [] key = some u →
    ∃ t, exec (.refillRetry lease) s = .next t ∧ (t.entry key).waiters = [] ∧ (t.entry key).spilled = false

/-- R26, R27, R193, R243 to R245, R253, R254: a dispatch puts the first READY task of a cluster into a free slot of
its emptiest core, as its frame record holds it, with its tile registers, and a task whose frame is malformed stays
where it is; an aged task rises one level; the Gleaner leaves balanced clusters alone, and moves a task from the
fullest to the emptiest, where the one it left keeps a forwarding entry. When a task ages and the Gleaner looks is the
agenda's (log 33); that the moves of one interval come in one step is the model's choice (log 33). -/
def Obligations.LoomsDispatch : Prop :=
  (∀ (s : State) (pos id k slot : Nat) (u : Task), s.halted pos = false → s.firstIn pos .ready = some id →
    s.emptiestCore pos = some k → s.freeSlot k = some slot → s.loadFrame id = some u →
    ∃ t, exec (.dispatch pos) s = .next t ∧ (t.task id).loom = .running ∧ (t.task id).slot = some slot ∧
      (t.task id).core = k ∧ (t.task id).tiles = [] ∧ (t.task id).regs = u.tileRegs.regs ∧
      ((s.task id).inRecord = false → (t.task id).pc = (s.task id).pc) ∧
      ∀ bs, (s.task id).inRecord = true → s.frameBytes id = some bs →
        frameOk bs false = true ∧ (t.task id).pc = w64 (frameNum bs 0x1280 8)) ∧
  (∀ (s t : State) (pos id : Nat) (bs : List Byte), (s.task id).inRecord = true → s.frameBytes id = some bs →
    frameOk bs false = false → exec (.dispatch pos) s = .next t → t.task id = s.task id) ∧
  (∀ (s : State) (id : Nat), (s.task id).live = true →
    ((s.task id).loom = .queued ∨ (s.task id).loom = .prefetching ∨ (s.task id).loom = .ready) →
    (s.lease (s.task id).lease).age ≠ 0 → (s.task id).prio ≠ 3 →
    2 ^ (s.lease (s.task id).lease).age * 1000 ≤ (s.now - (s.task id).agedAt).toNat * s.device.clockMHz →
    ∃ t, exec (.aging id) s = .next t ∧ (t.task id).prio = (s.task id).prio + 1 ∧ (t.task id).agedAt = s.now) ∧
  ∀ (s : State) (lease : Nat), (s.lease lease).live = true → s.stop = .no →
    (∀ n, (∀ p ∈ (s.lease lease).positions, s.gleanCount p = n) → exec (.gleanerInterval lease) s = .next s) ∧
    ∀ p q hi lo id l, l = (s.lease lease).positions.map (fun p => (p, s.gleanCount p)) →
      bestCluster (fun a b => decide (b < a)) l = some (p, hi) → bestCluster (fun a b => decide (a < b)) l = some (q, lo) →
      (hi = lo + 2 ∨ hi = lo + 3) → s.gleanPick p [] = some id → (s.cluster p).forward.length < 4096 →
      ∃ t, exec (.gleanerInterval lease) s = .next t ∧ (t.task id).pos = q ∧ (t.cluster p).forward.find id = some q ∧
        ∀ j, j ≠ id → t.task j = s.task j

/-! Device events: queues, launches, stops, errors, windows, debugging, the device and its leases. -/

/-- R5, R396 to R399, R256, R260, R308: a wake write covers entries of an enabled queue, or sets ERR and clears EN
when it goes beyond the ring, with what it had read and not taken given up; a queue is enabled only with a ring size, and
disabled with ERR clear and nothing covered; a register of an enabled queue ignores its write, and a read-only one every
write; TRING and the words of the MSI-X table are stored; the next covered entry is
taken once, as a start or as a refusal; an image is loaded or refused whole; a host write enters memory. What
addresses of 0 mean, the width of the index at CIDXA and the place of a ring with LOC = 1 are the model's readings
(log 35), and so is what the words of the MSI-X table hold (log 57), and that a host write does not reach running launches is its reading (log 43). -/
def Obligations.QueuesTakeCommands : Prop :=
  (∀ (s : State) (lease q : Nat) (x : HostQueue), (s.lease lease).live = true → q < 16 → x = s.hostQueue lease q →
    (∀ p, (x.on = false → exec (.wakeWrite lease q p) s = .next s) ∧
      (x.on = true → (p - x.cidx).toNat ≠ 0 → (p - x.cidx).toNat ≤ x.size → (p - x.cidx).toNat < 2 ^ 31 →
        ∃ t, exec (.wakeWrite lease q p) s = .next t ∧ t.hostQueue lease q = { x with pidx := p }) ∧
      (x.on = true → x.size < (p - x.cidx).toNat → (p - x.cidx).toNat < 2 ^ 31 →
        ∃ t, exec (.wakeWrite lease q p) s = .next t ∧ (t.hostQueue lease q).err = true ∧ (t.hostQueue lease q).on = false ∧
          ∀ e ∈ t.starts, ¬ (e.2.lease = lease ∧ e.2.queue = some q ∧ e.2.again = false))) ∧
    (∀ v : Word, v.getLsbD 0 = true → x.on = false → x.err = false →
      ∃ t, exec (.queueEnable lease q v) s = .next t ∧ (t.hostQueue lease q).on = sizeOk v ∧
        (t.hostQueue lease q).size = 2 ^ bits v 20 16 ∧ (t.hostQueue lease q).ring = x.ring) ∧
    (∀ v : Word, v.getLsbD 0 = false →
      ∃ t, exec (.queueDisable lease q v) s = .next t ∧ (t.hostQueue lease q).on = false ∧ (t.hostQueue lease q).err = false ∧
        (t.hostQueue lease q).pidx = x.cidx ∧ (t.hostQueue lease q).cidx = x.cidx ∧
        ∀ e ∈ t.starts, ¬ (e.2.lease = lease ∧ e.2.queue = some q ∧ e.2.again = false)) ∧
    (∀ v : Word, ∃ t, exec (.registerWrite lease (0x1000 + 0x100 * q) v) s = .next t ∧
      t.hostQueue lease q = if x.on then x else { x with ring := v &&& 0x80FFFFFFFFFFFFC0 }) ∧
    (∀ v : Word, ∃ t, exec (.registerWrite lease (0x1000 + 0x100 * q + 0x20) v) s = .next t ∧
      t.hostQueue lease q = if x.on then x else { x with compl := v &&& 0xFFFFFFFFFFFFFFE0 }) ∧
    (∀ v : Word, exec (.registerWrite lease (0x1000 + 0x100 * q + 0x30) v) s = .next s ∧
      exec (.registerWrite lease 0x2020 v) s = .next s) ∧
    (∀ v : Word, (s.lease lease).trace.tctl.getLsbD 0 = false →
      ∃ t, exec (.registerWrite lease 0x2000 v) s = .next t ∧
        (t.lease lease).trace = { (s.lease lease).trace with tring := v &&& 0x00FFFFFFFFFFFFC0 }) ∧
    (∀ (i : Nat) (v : Word), i < 16 →
      ∃ t, exec (.registerWrite lease (0x8000 + 8 * i) v) s = .next t ∧ (t.lease lease).msixTable.toList[i]? = some v ∧
        t.tasks = s.tasks) ∧
    (x.on = true → x.err = false → x.cidx ≠ x.pidx → s.stop = .no → (x.qctl.getLsbD 2 = true ∨ x.busy = []) →
      (∀ e ∈ s.starts, ¬ (e.2.lease = lease ∧ e.2.queue = some q ∧ e.2.again = false)) →
      (entryBad (s.queueEntry lease x) = false →
        ∃ t, exec (.queueEntryTake lease q) s = .next t ∧ t.mem = s.mem ∧
          t.starts.find s.seq = some (s.entryLaunch lease q x (s.queueEntry lease x))) ∧
      (entryBad (s.queueEntry lease x) = true →
        ∃ t, exec (.queueEntryTake lease q) s = .next t ∧ t.starts = s.starts ∧
          (t.hostQueue lease q).cidx = x.cidx + 1 ∧ (t.hostQueue lease q).done = x.done + 1))) ∧
  (∀ (s : State) (lease : Nat) (img : LaunchImage), (s.lease lease).live = true →
    (∀ r ∈ img.records, ((s.lease lease).record r.1).state = .idle) →
    (imageOk img = false → exec (.launchImageLoad lease img) s = .next s) ∧
    (imageOk img = true → ∀ p, img.patterns = [p] →
      ∃ t, exec (.launchImageLoad lease img) s = .next t ∧ t.pat lease p.1 = p.2 ∧ t.tasks = s.tasks ∧
        ∀ r, img.records = [r] → (t.lease lease).record r.1 = ⟨r.2, .idle, 0, none⟩)) ∧
  ∀ (s : State) (vdev pa : Nat) (bytes : List Byte), vdev < 384 → pa + bytes.length ≤ hbmBytes → s.device.bootFailed = false →
    ∃ t, exec (.hostWrite vdev pa bytes) s = .next t ∧ t.mem = s.mem.write (memKey vdev pa) bytes ∧ t.tasks = s.tasks ∧
      t.spad = s.spad

/-- R257 to R261, R391: a start whose data address has an owner and whose resources are there becomes a running launch
with its root made, live at its entry with its data and version in s1 and s2; one without them waits and is tried again;
one whose record is not IDLE or whose address has no owner is given up; the first armed record that may start becomes a
start with the version it was armed with. Which number the first version has is the model's choice (log 1), and the
root's task index is a free value (log 7). -/
def Obligations.LaunchesStart : Prop :=
  (∀ (s : State) (k : Nat) (l0 l : Launch), s.starts.find k = some l0 → l = s.renewStart l0 → s.stop = .no →
    (l0.waits = false → (s.recordBusy l = true ∨ s.rootCore l = none) →
      ∃ t, exec (.launchStart k) s = .next t ∧ t.starts.find k = none) ∧
    (l0.waits = true → (s.recordBusy l = true ∨ s.rootCore l = none) →
      ∃ t, exec (.rootAllocationRetry k) s = .next t ∧ t.starts.find k = none) ∧
    (s.recordBusy l = false → ∀ core, s.rootCore l = some core →
      (l0.waits = false → s.startLaunch l core = none →
        exec (.launchStart k) s = .next { s with starts := s.starts.put k { l with waits := true } }) ∧
      ∀ u, s.startLaunch l core = some u →
        (l0.waits = false → ∃ t, exec (.launchStart k) s = .next t ∧ t.starts.find k = none ∧ t.tasks = u.tasks ∧
          t.launches = u.launches) ∧
        (l0.waits = true → ∃ t, exec (.rootAllocationRetry k) s = .next t ∧ t.starts.find k = none ∧ t.tasks = u.tasks ∧
          t.launches = u.launches) ∧
        ∃ v id x, u.launch? v = some x ∧ x.state = .running ∧ x.rootTask = id ∧ (u.task id).live = true ∧
          (u.task id).pc = l.entry ∧ (u.task id).regs = rootRegs l.data (w64 v) l.payload ∧ (u.task id).prio = 3)) ∧
  ∀ (s : State) (lease i : Nat), (s.lease lease).live = true → s.stop = .no →
    (s.lease lease).armed.find? (s.armedReady lease) = some i →
    ∃ t, exec (.recordLaunchStart lease) s = .next t ∧ t.tasks = s.tasks ∧
      t.starts.find s.seq = some { (s.lease lease).launchOf lease i with ver := ((s.lease lease).record i).ver.toNat }

/-- R316 to R318, R323, R324: a launch that may be decided is aborted when what it read is stale, reaches its commit
point on one die when it is quiet, and starts a round on several, where the commit point comes when every participant
has recorded the decision; a younger launch whose sets it meets gets a cause to abort; a participant answers PREPARE
once it is quiet; the last answer decides when the counts agree, nothing was retracted and the conditions still hold,
and else starts a new round; RETRACT, COMMIT and DONE are recorded; a granule to be copied reaches memory after every
older copy of it, and the launch is gone after the last. Which dies take part is the model's reading (log 34), and so
is the abort of a launch that read late what an older one committed (log 6). -/
def Obligations.LaunchesCommit : Prop :=
  (∀ (s : State) (ver : Nat) (l : Launch), s.launch? ver = some l → l.ver = ver → s.stop = .no → s.mayDecide l = true →
    (l.decided = false → l.staleNow = true →
      ∃ t, exec (.launchCommit ver) s = .next t ∧ (t.launch? ver).map (·.cause) = some (some 0x50)) ∧
    ((l.decided = false ∧ l.staleNow = false ∧ s.oneDie l = true ∧ s.quiet l = true) ∨
        (l.decided = true ∧ ∀ d ∈ s.diesOf l, d ∈ l.applied) →
      ∃ t, exec (.launchCommit ver) s = .next t ∧ (∀ x, t.launch? ver = some x → x.state = .committed) ∧
        (l.subvs = [] → (∀ c ∈ s.cores, ∀ x ∈ c.2.l1, x.ver.toNat = ver → x.dirty = 0) →
          ∀ v y, s.launch? v = some y → y.state = .running → olderVer ver v = true → meetsSets l y = true →
            (t.launch? v).map (·.cause.isSome) = some true)) ∧
    (l.decided = false → l.staleNow = false → s.oneDie l = false → l.round = 0 →
      ∃ t, exec (.launchCommit ver) s = .next t ∧ (t.launch? ver).map (·.round) = some 1 ∧
        ∀ d ∈ s.diesOf l, ∃ f ∈ t.flight, f.body = .ctrl (.prepare ver 1 d))) ∧
  (∀ (s : State) (ver : Nat) (l : Launch), s.launch? ver = some l → l.ver = ver → l.state = .committed → s.imaged = false →
    (∀ e rest, l.toCopy = e :: rest →
      (∀ o ∈ s.launches, olderVer o.1 ver = true → ∀ x ∈ o.2.toCopy, x.granule ≠ e.granule) →
      (rest ≠ [] → ∃ t, exec (.shadowGranuleCopy ver) s = .next t ∧ t.mem = overlay s.mem e.bytes ∧
        (t.launch? ver).map (·.toCopy) = some rest) ∧
      (rest = [] → s.oneDie l = true → s.olderCopied ver = true →
        ∃ t, exec (.shadowGranuleCopy ver) s = .next t ∧ t.launch? ver = none)) ∧
    (l.toCopy = [] → l.doneSent = false → s.oneDie l = true → s.olderCopied ver = true →
      ∃ t, exec (.shadowGranuleCopy ver) s = .next t ∧ t.launch? ver = none)) ∧
  ∀ (s : State) (k v : Nat) (l : Launch), s.launch? v = some l → l.ver = v →
    (∀ n d, s.ctrlOf k = some (.prepare v n d) → l.round = n → l.cause = none → s.quietAt v d = true →
      ∃ t, exec (.prepareMsg k) s = .next t ∧
        ∃ f ∈ t.flight, f.body = .ctrl (.prepared v n d (l.sentBy d) (s.acceptedBy l d))) ∧
    (∀ n d sent taken a, s.ctrlOf k = some (.prepared v n d sent taken) → l.round = n → l.cause = none → l.decided = false →
      a = (d, sent, taken) :: l.answered.filter (fun x => x.1 != d) →
      ((∃ die ∈ s.diesOf l, ∀ x ∈ a, x.1 ≠ die) →
        ∃ t, exec (.preparedMsg k) s = .next t ∧ (t.launch? v).map (·.answered) = some a) ∧
      ((∀ die ∈ s.diesOf l, ∃ x ∈ a, x.1 = die) →
        (a.foldl (fun y x => y + x.2.1) 0 = a.foldl (fun y x => y + x.2.2) 0 ∧ l.retracted = false ∧
            s.mayDecide l = true ∧ l.staleNow = false ∧ s.stop = .no →
          ∃ t, exec (.preparedMsg k) s = .next t ∧ (t.launch? v).map (·.decided) = some true ∧
            ∀ die ∈ s.diesOf l, ∃ f ∈ t.flight, f.body = .ctrl (.commit v die)) ∧
        (¬ (a.foldl (fun y x => y + x.2.1) 0 = a.foldl (fun y x => y + x.2.2) 0 ∧ l.retracted = false ∧
            s.mayDecide l = true ∧ l.staleNow = false ∧ s.stop = .no) →
          ∃ t, exec (.preparedMsg k) s = .next t ∧ (t.launch? v).map (·.round) = some (n + 1)))) ∧
    (∀ d, s.ctrlOf k = some (.retract v d) →
      ∃ t, exec (.retractMsg k) s = .next t ∧ (t.launch? v).map (·.retracted) = some true) ∧
    (∀ d, s.ctrlOf k = some (.commit v d) →
      ∃ t, exec (.commitMsg k) s = .next t ∧ (t.launch? v).map (·.applied) = some (d :: l.applied)) ∧
    ∀ d, s.ctrlOf k = some (.done v d) →
      ((∀ die ∈ s.diesOf l, die ∈ d :: l.copied) → ∃ t, exec (.doneMsg k) s = .next t ∧ t.launch? v = none) ∧
      ((∃ die ∈ s.diesOf l, die ∉ d :: l.copied) →
        ∃ t, exec (.doneMsg k) s = .next t ∧ (t.launch? v).map (·.copied) = some (d :: l.copied))

/-- R248, R315, R319, R320, R323: an abort whose cause the coordinator knows begins, with ABORT to every participant
where there are several and the root's entry poisoned with the cause where no retry follows, and is final when every
ABORT has been applied and nothing of the launch is left: it is gone, and a conflict with retries left starts it again; ABORT ends its tasks on one die,
ABORTQ tells its cause, and a kill ends it KILLED whatever it was doing. Which dies take part is the model's reading
(log 34). -/
def Obligations.LaunchesAbort : Prop :=
  (∀ (s : State) (ver : Nat) (l : Launch), s.launch? ver = some l → l.ver = ver → l.decided = false →
    (∀ c, l.cause = some c → s.imaged = false → (∀ f ∈ s.flight, ∀ d c, f.body ≠ .ctrl (.abortq ver d c)) →
      (l.state = .running →
        ∃ t, exec (.launchAbort ver) s = .next t ∧ (t.launch? ver).map (·.state) = some .aborting ∧
          (s.oneDie l = false →
            (∀ d ∈ s.diesOf l, ∃ f ∈ t.flight, f.body = .ctrl (.abort ver d c)) ∧
            (l.retried = false → l.killed = false → (c = 0x50 ∨ c = 0x51) → (s.rootEntry l).isSettled = false →
              (s.rootEntry l).gen = hGen l.root →
              Settled (s.rootEntry l) (t.entry (hKey l.root)) .poisoned ∧
                ((s.rootEntry l).fos = false → (t.entry (hKey l.root)).cause = c)))) ∧
      (l.state = .aborting → (∀ f ∈ s.flight, ∀ d c, f.body ≠ .ctrl (.abort ver d c)) → s.quiet l = true →
        (∀ d ∈ s.dumps, (s.task d.task).ver.toNat ≠ ver) →
        ∃ t, exec (.launchAbort ver) s = .next t ∧ t.launch? ver = none ∧
          (l.conflict = true → l.retries ≠ 0 → l.killed = false → ∃ e ∈ t.starts, e.2 = l.retry (l.retries - 1)))) ∧
    (l.state = .running →
      ∃ t, exec (.launchKill ver) s = .next t ∧ (t.launch? ver).map (fun x => (x.state, x.cause)) = some (.aborting, some 0x52)) ∧
    (l.state = .starting → ∃ t, exec (.launchKill ver) s = .next t ∧ t.launch? ver = none) ∧
    (l.state = .aborting →
      ∃ t, exec (.launchKill ver) s = .next t ∧ (t.launch? ver).map (fun x => (x.killed, x.cause)) = some (true, some 0x52))) ∧
  ∀ (s : State) (k v d : Nat) (c : BitVec 8),
    (s.ctrlOf k = some (.abort v d c) →
      ∃ t, exec (.abortMsg k) s = .next t ∧ ∀ id, (t.task id).live = true → (t.task id).ver.toNat = v →
        dieOf (t.task id).pos = d → (t.task id).loom = .retiring) ∧
    (s.ctrlOf k = some (.abortq v d c) → ∀ l, s.launch? v = some l → l.cause = none →
      ∃ t, exec (.abortqMsg k) s = .next t ∧ (t.launch? v).map (·.cause) = some (some c))

/-- R326 to R334, R341, R343, R366, R382, R414: a gang-stop stops every core of a device and holds the clock; an
engine that stops stands at an interruption point; a device of which a core has not stopped in time is reported, and
every launch that runs is killed; a marker drains a channel, and the last one completes the cut; a lease's image is
written once, its save areas with it, with nothing left in its L1s, and after the last lease's the job is quiescent; a restore maps positions
afresh where it is told to, resumes each lease whose image passes its checks, with empty caches and without its image,
leaves another with its image unstarted, and reports that; it takes nothing from memory but held arrivals. What of the image has no map is the model's choice (log 29), and when serving endpoints send their
markers its reading (log 38). -/
def Obligations.TheJobStopsAndResumes : Prop :=
  ∀ (s : State),
    (∀ vdev, s.deviceCores vdev ≠ [] →
      (s.stop = .no → ∃ t, exec (.gangStop vdev) s = .next t ∧ t.device.clockMHz = 1300 ∧ t.markers = [] ∧ t.cut = s.cut + 1 ∧
        (t.stop = .stopping ∨ t.stop = .draining) ∧ ∀ k ∈ s.deviceCores vdev, (t.core k).stopped = true) ∧
      (s.stop = .stopping → (∃ k ∈ s.deviceCores vdev, (s.core k).stopped = false) → (∀ e ∈ s.launches, e.2.ver = e.1) →
        ∃ t, exec (.stopWatchdog vdev) s = .next t ∧ Report.watchdog vdev ∈ t.reports ∧
          ∀ v l, s.launch? v = some l → l.state = .running → l.decided = false →
            (t.launch? v).map (fun x => (x.state, x.cause)) = some (.aborting, some 0x52))) ∧
    (∀ pos, s.halted pos = true →
      exec (.engineInterruption (.copy pos)) s = .next s ∧ exec (.engineInterruption (.slice (pos * 8))) s = .next s ∧
      ∃ t, exec (.engineInterruption (.thresher pos)) s = .next t ∧
        t.jobs (.thresher pos) = (s.jobs (.thresher pos)).map Command.cutTmv) ∧
    (∀ ch u, (s.stop = .stopping ∨ s.stop = .draining) → ch ∉ s.markers → s.mayMark ch = true →
      u = { s with markers := ch :: s.markers } →
      ∃ t, exec (.marker ch) s = .next t ∧ t.markers = ch :: s.markers ∧ t.tasks = s.tasks ∧
        t.stop = (if u.drained then .cut else s.stop) ∧
        (u.drained = true → ∀ pos, t.jobs (.thresher pos) = (s.jobs (.thresher pos)).map Command.cutTmv)) ∧
    (∀ lease, s.stop = .cut → (s.lease lease).live = true → s.images.find lease = none →
      ∃ t, exec (.contextImageWrite lease) s = .next t ∧ (t.images.find lease).isSome = true ∧ (t.saveAreas.find lease).isSome = true ∧
        (∀ x, x ≠ lease → t.images.find x = s.images.find x) ∧
        ((∀ e ∈ s.leases, e.2.live = true → e.1 = lease ∨ (s.images.find e.1).isSome = true) →
          t.stop = .quiescent ∧ t.device.pendingLower = 0) ∧
        ∀ k ∈ (s.lease lease).cores, (t.core k).l1 = []) ∧
    ∀ damage places, (s.stop = .quiescent ∨ s.stop = .no) → s.images ≠ [] → s.basteReq = none → s.placesOk places = true →
      (s.restorable damage = [] →
        exec (.restore ⟨damage, places⟩) s = .next { s with reports := s.reports ++ [Report.restoreFailed] }) ∧
      (s.restorable damage ≠ [] →
        ∃ t, exec (.restore ⟨damage, places⟩) s = .next t ∧ t.stop = .no ∧ t.spad = s.spad ∧
          ((∀ l ∈ s.restorable damage, (s.mapAfresh places).heldRecords l = []) → t.mem = s.mem) ∧
          (∀ i x p, s.leases.find i = some x → places.find? (fun p => p.1 == i) = some p →
            (t.lease i).phys = p.2.1 ∧ (t.lease i).group = p.2.2) ∧
          (∀ x, t.images.find x = if x ∈ s.restorable damage then none else s.images.find x) ∧
          ((s.restorable damage).length < s.images.length → Report.restoreFailed ∈ t.reports) ∧
          ∀ k, (s.cluster (k / 8)).lease ∈ s.restorable damage →
            (t.core k).l1 = [] ∧ (t.core k).tlb = [] ∧ (t.core k).stopped = false)

/-- R282 to R285, R333, R350: firmware is told of an uncorrectable error and where it is, whether a unit or scrubbing
finds it, and the error waits for its rollback when there is a basting point that does not lie where it is; else it is
reported where it was found: a register of a task in a slot, a
scratchpad word, a line and a piece of memory are spoiled until they are read or written, what fills a register
arrives spoiled, an engine command ends with it, and a control structure, or a register of a task out of its slot,
kills the launch; a rollback puts back what the basting point holds of its leases and is counted, a launch that has
started since is to start again, and past the limit the error is reported; a corrected error is a sample of its monitors
and changes nothing else; a core dump that no stop holds up and whose task owes no result takes a slot and ends its task
POISONED, and a writer that fails resets the lease; a freed slot is free. That a rollback is one step is the model's
choice (log 28). -/
def Obligations.ErrorsAreReported : Prop :=
  ∀ (s : State),
    (∀ e b, s.errorMeets e = true → s.basted = some b → s.inBasting e = true →
      exec (.uncorrectableError e) s =
        .next ({ s with reports := s.reports ++ [Report.uncorrectable e] }.reportError e)) ∧
    (∀ e b, s.errorMeets e = true → s.basted = some b → s.inBasting e = false →
      (s.pendingError = none → exec (.uncorrectableError e) s =
        .next { s with reports := s.reports ++ [Report.uncorrectable e], pendingError := some e }) ∧
      (s.pendingError ≠ none → exec (.uncorrectableError e) s =
        .next { s with reports := s.reports ++ [Report.uncorrectable e] })) ∧
    (s.basted = none →
      (∀ id r, s.errorMeets (.register id r) = true → (s.task id).slot ≠ none →
        ∃ t, exec (.uncorrectableError (.register id r)) s = .next t ∧
          (t.task id).spoiled = Reg.ofSpec r :: (s.task id).spoiled ∧ (t.task id).regs = (s.task id).regs ∧
          ∀ j, j ≠ id → t.task j = s.task j) ∧
      (∀ v l e, s.launch? v = some l → l.ver = v → l.state = .running → l.decided = false → s.errorMeets e = true →
        (e = .control v ∨ ∃ id r, e = .register id r ∧ (s.task id).slot = none ∧ (s.task id).ver.toNat = v) →
        ∃ t, exec (.uncorrectableError e) s = .next t ∧
          (t.launch? v).map (fun x => (x.state, x.cause)) = some (.aborting, some 0x52)) ∧
      (∀ k f, s.flight? k = some f → s.errorMeets (.producer k) = true →
        ∃ t, exec (.uncorrectableError (.producer k)) s = .next t ∧ t.flight? k = some (spoilFlight f) ∧
          t.tasks = s.tasks) ∧
      (∀ a, s.errorMeets (.spad a) = true →
        ∃ t, exec (.uncorrectableError (.spad a)) s = .next t ∧ a / 8 ∈ t.spoilt ∧ t.spad = s.spad ∧ t.tasks = s.tasks) ∧
      (∀ k host ln, s.errorMeets (.line k host ln) = true →
        ∃ t, exec (.uncorrectableError (.line k host ln)) s = .next t ∧
          ((t.core k).line host ln).map (·.bad) = some true ∧ t.tasks = s.tasks) ∧
      (∀ u k, s.errorMeets (.engine u k) = true →
        ∃ t, exec (.uncorrectableError (.engine u k)) s = .next t ∧
          (t.job? u k).map (·.status) = some (some (0x40, 0)) ∧ t.tasks = s.tasks) ∧
      ∀ vdev pa, vdev < 384 → pa < hbmBytes →
        ∃ t, exec (.uncorrectableError (.memory vdev pa)) s = .next t ∧ memKey vdev pa / 64 ∈ t.marked ∧
          t.mem = s.mem ∧ t.tasks = s.tasks) ∧
    (∀ e, s.pendingError = some e → s.stop = .no →
      (∀ b, s.basted = some b → s.mayRollBack = true →
        ∃ t, exec .rollback s = .next t ∧ t.pendingError = none ∧ t.order = b.order ∧
          (∀ id u, b.tasks.find id = some u → u.lease ∈ b.covered →
            ∃ x, (id, x) ∈ b.tasks ∧ t.tasks.find id = some x) ∧
          (∀ id, (s.task id).lease ∈ b.covered → b.tasks.find id = none → t.tasks.find id = none) ∧
          (b.spad.wf = true → s.spad.wf = true → ∀ a, (s.cluster (posOfKey a)).lease ∈ b.covered → t.spad.get a = b.spad.get a) ∧
          (b.saved.wf = true → s.mem.wf = true → ∀ a, inSpans b.spans a = true → t.mem.get a = b.saved.get a) ∧
          (∀ i x, s.leases.find i = some x → i ∈ b.covered → (b.leases.find i).isSome = true →
            (t.lease i).rollbacks = x.rollbacks + 1) ∧
          ∀ e ∈ s.launches, e.2.state = .running → b.launches.find e.2.ver = none →
            ∃ x ∈ t.starts, x.2 = e.2.retry e.2.retries) ∧
      ((s.basted = none ∨ s.mayRollBack = false) →
        exec .rollback s = .next ({ s with pendingError := none }.reportError e))) ∧
    (∀ lease core, (s.lease lease).live = true → (∀ k, core = some k → k ∈ (s.lease lease).cores) →
      ∃ t, exec (.correctedError ⟨lease, core⟩) s = .next t ∧ Sampled s t lease 0x0C core 1) ∧
    (∀ vdev pa, vdev < 384 → pa < hbmBytes →
      (s.basted = none →
        ∃ t, exec (.scrub vdev pa) s = .next t ∧ memKey vdev pa / 64 ∈ t.marked ∧
          t = { s with marked := t.marked, reports := s.reports ++ [Report.uncorrectable (.memory vdev pa)] }) ∧
      (∀ b, s.basted = some b → s.inBasting (.memory vdev pa) = false → s.pendingError = none →
        exec (.scrub vdev pa) s = .next { s with
          reports := s.reports ++ [Report.uncorrectable (.memory vdev pa)], pendingError := some (.memory vdev pa) })) ∧
    (∀ k ok, s.stop ≠ .no → s.stop ≠ .debug → exec (.coreDump k ok) s = .next s) ∧
    (∀ d rest lease, s.dumps = d :: rest → lease = (s.task d.task).lease → (s.stop = .no ∨ s.stop = .debug) →
      s.localPending d.task = false →
      (∀ i, (s.lease lease).freeDump = some i → s.dumpOk lease ((s.lease lease).dumpArea + i * 8192) = true →
        ∃ t, exec (.coreDump 0 true) s = .next t ∧ t.dumps = rest ∧ (t.task d.task).live = false ∧
          i ∈ (t.lease lease).dumpUsed) ∧
      ∀ ok, ok = false ∨ (∃ i, (s.lease lease).freeDump = some i ∧
          s.dumpOk lease ((s.lease lease).dumpArea + i * 8192) = false) →
        ∃ t, exec (.coreDump 0 ok) s = .next t ∧ Report.dumpFailed lease ∈ t.reports ∧ (t.lease lease).live = false) ∧
    ∀ lease slot, slot ∈ (s.lease lease).dumpUsed →
      ∃ t, exec (.dumpSlotFree lease slot) s = .next t ∧ slot ∉ (t.lease lease).dumpUsed ∧ t = { s with leases := t.leases }

/-- R281, R295, R388, R390: a window or route slot whose descriptor firmware refuses is left as it is, and one it
accepts is set, a route slot with its reserved bits zero; a drain that is complete puts the new table and version into the window, clears ARM, and fills the drain
word with the old version, or counts a miss when that word is a node's; a granted pinned window leaves no way of its
slices to the fills, and unpinning removes it. That a descriptor of zeros removes its window is the model's reading (log
31). -/
def Obligations.WindowsAndRoutes : Prop :=
  ∀ (s : State) (lease : Nat),
    ((s.lease lease).live = true → ∀ win, win < 16 →
      (∃ t, exec (.remapWindowWrite lease win 0) s = .next t ∧
        ((t.lease lease).remap.toList.map (·.valid))[win]? = some false) ∧
      ∀ x : BitVec 256, x ≠ 0 →
        (windowFieldsOk x = false → exec (.remapWindowWrite lease win x) s = .next s) ∧
        (windowFieldsOk x = true → (∀ w ∈ (s.lease lease).remap.toList, w.valid = false) →
          s.mapsSpan lease (windowOf x).base.toNat (windowOf x).span = false →
          s.tablePinned lease (windowOf x).table = true →
          ∃ t, exec (.remapWindowWrite lease win x) s = .next t ∧ (t.lease lease).remap.toList[win]? = some (windowOf x))) ∧
    ((s.lease lease).live = true → ∀ slot, slot < 8 → ∀ x y : BitVec 256, y = x &&& ~~~slotReserved →
      fld y 255 241 = 0 ∧ fld y 191 184 = 0 ∧ fld y 127 112 = 0 ∧ fld y 7 4 = 0 ∧ slotDrain y = slotDrain x ∧
      slotArm y = slotArm x ∧ slotNewrt y = slotNewrt x ∧
      ((slotArm ((s.lease lease).routes.toList.getD slot 0) = true ∨
          s.inScratchpad ((s.lease lease).positions.headD 0) (slotDrain x) = false ∨ slotDrain x % 8 ≠ 0 ∨
          (slotArm x = true ∧ (slotNewrt x % 8 ≠ 0 ∨ s.tablePinned lease (w64 (slotNewrt x)) = false))) →
        exec (.routeSlotWrite lease slot x) s = .next s) ∧
      (slotArm ((s.lease lease).routes.toList.getD slot 0) = false →
        s.inScratchpad ((s.lease lease).positions.headD 0) (slotDrain x) = true → slotDrain x % 8 = 0 →
        (slotArm x = true → slotNewrt x % 8 = 0 ∧ s.tablePinned lease (w64 (slotNewrt x)) = true) →
        ∃ t, exec (.routeSlotWrite lease slot x) s = .next t ∧ (t.lease lease).routes.toList[slot]? = some y)) ∧
    (∀ slot x w a, slot < 8 → x = (s.lease lease).routes.toList.getD slot 0 → s.drainDone lease x = true →
      (s.lease lease).remap.toList[slotWin x]? = some w →
      a = wideAddr ((s.lease lease).positions.headD 0) (slotDrain x) - windowBase →
      ∃ t, exec (.drainComplete lease slot) s = .next t ∧
        (t.lease lease).remap.toList[slotWin x]? =
          some { w with table := w64 (slotNewrt x), version := BitVec.ofNat 16 (slotNewv x) } ∧
        ((t.lease lease).routes.toList.map slotArm)[slot]? = some false ∧
        (s.tagK a = true → (t.lease lease).drainMisses = (s.lease lease).drainMisses + 1 ∧ t.spad = s.spad) ∧
        (s.tagK a = false → (∀ b ∈ s.bank, b.loc.addr ≠ a) →
          t.spad = s.spad.putNum a 8 w.version.toNat ∧ t.tagF a = true)) ∧
    (∀ w, s.pinOk (s.lease lease) w = true →
      ∃ t, exec (.pinnedWindow lease w) s = .next t ∧
        (t.lease lease).pinned = (s.lease lease).pinned ++ [⟨w.win, w.vdev, w.die, w.pa, w.size, w.slices, w.ways⟩] ∧
        (∀ y ∈ t.ways, ¬ (y.die = w.vdev * 8 + w.die ∧ y.slice ∈ w.slices ∧ w.ways.getLsbD y.way = true)) ∧
        t.mem = s.mem ∧ t.tasks = s.tasks) ∧
    ∀ win w, (s.lease lease).pinned.find? (fun w => w.win == win) = some w →
      ∃ t, exec (.unpinning lease win) s = .next t ∧ (∀ y ∈ (t.lease lease).pinned, y.win ≠ win) ∧ t.tasks = s.tasks

/-- R345 to R347, R420 to R428: a due chunk is logged under the next number of the order, or, in a replay, held against the
log, where one that differs is reported; a chunk stop is kept for a
replay under a debugger; the trace ring is switched on with a ring size alone, off at any time, its read index set, its
write index written to the host; a level of a core, of a die or of a slice is a sample of the lease's monitors (R425); a
debugger attaches, continues a stopped job, and writes its
registers, breakpoints and watchpoints. The order in which waiting chunks are numbered is the model's reading (log 41).
-/
def Obligations.TraceRecordAndDebug : Prop :=
  (∀ (s u : State) (id why : Nat) (e : ChunkEnd), s.chunkEnding id why = some e → s.chunkTakes id = true → e.why = why →
    s.unperformed id = false → s.releasing id = false →
    (s.replays id = false → s.logRecords (s.task id).lease (chunkRecord s.order id e.count e.why e.kind :: match e.value with
      | some v => [v.setWidth 128]
      | none => []) = some u →
    ∃ t, exec (.chunkEnd id why) s = .next t ∧ t.order = s.order + 1 ∧ t.mem = u.mem ∧
      ((s.task id).ended = [] → (t.task id).due = none ∧ (t.task id).chunk = 0) ∧ (t.task id).regs = (s.task id).regs) ∧
    (s.replays id = true →
      (∀ r, s.nextChunk id (e.kind == 2) = some r → chunkAgrees e r.1 = true →
        ∃ t, exec (.chunkEnd id why) s = .next t ∧ t.order = s.order + 1 ∧ t.mem = s.mem ∧ t.reports = s.reports ∧
          (t.task id).regs = (s.task id).regs) ∧
      ((s.nextChunk id (e.kind == 2) = none ∨ ∃ r, s.nextChunk id (e.kind == 2) = some r ∧ chunkAgrees e r.1 = false) →
        ∃ t, exec (.chunkEnd id why) s = .next t ∧ Report.divergence id ∈ t.reports))) ∧
  (∀ (s : State) (seq : Nat), (∃ e ∈ s.leases, e.2.live = true ∧ e.2.debugger = true ∧ e.2.replay = true) →
    exec (.debugChunkStop seq) s = .next { s with chunkStop := some seq }) ∧
  (∀ (s : State) (lease : Nat) (r : TraceRing), (s.lease lease).live = true → r = (s.lease lease).trace →
    (r.tctl.getLsbD 0 = true →
      exec (.writeIndexUpdate lease) s =
        .next (if r.twpa = 0 then s else { s with host := s.host.putNum r.twpa.toNat 8 r.windex.toNat })) ∧
    (∀ x : Word, x.getLsbD 0 = true → r.tctl.getLsbD 0 = false →
      ∃ t, exec (.traceEnable lease x) s = .next t ∧ (t.lease lease).trace.tctl.getLsbD 0 = traceSizeOk x ∧
        (traceSizeOk x = true → (t.lease lease).trace.tdrop = 0)) ∧
    (∀ x : Word, x.getLsbD 0 = false →
      ∃ t, exec (.traceDisable lease x) s = .next t ∧ (t.lease lease).trace.tctl.getLsbD 0 = false ∧
        (t.lease lease).trace.windex = r.windex) ∧
    (∀ x, ∃ t, exec (.trpWrite lease x) s = .next t ∧ (t.lease lease).trace = { r with trp := x }) ∧
    (∀ core, core ∈ (s.lease lease).cores →
      (∃ t, exec (.levelSample lease core 9) s = .next t ∧ Sampled s t lease 9 (some core) (w64 (s.core core).inboxUsed)) ∧
      ∃ t, exec (.levelSample lease core 10) s = .next t ∧
        Sampled s t lease 10 (some core) (w64 (s.resident (s.lease lease) (dieOf (core / 8))))) ∧
    (∀ die slice, slice < 64 → (∃ p ∈ s.positions, p / 128 = die / 8) →
      ∃ t, exec (.levelSample lease (die * 64 + slice) 8) s = .next t ∧
        Sampled s t lease 8 none (w64 (s.sliceCount lease die slice)))) ∧
  ∀ (s : State) (lease : Nat), (s.lease lease).live = true →
    ((s.lease lease).debugger = false →
      ∃ t, exec (.debugAttach lease) s = .next t ∧ (t.lease lease).debugger = true) ∧
    (∀ ix (x : BitVec 128), ix < 16 → s.betweenActivations lease = true →
      (30 < fld x 87 82 → exec (.watchpointWrite lease ix x) s = .next s) ∧
      (fld x 87 82 ≤ 30 →
        ∃ t y, exec (.watchpointWrite lease ix x) s = .next t ∧ (t.lease lease).watch.toList[ix]? = some y ∧
          fld y 127 95 = fld x 127 95 ∧ fld y 90 81 = fld x 90 81 ∧ fld y 55 0 = fld x 55 0 ∧ fld y 94 91 = 0 ∧
          fld y 80 56 = 0)) ∧
    ((s.lease lease).debugger = true →
      (∀ id cause, s.stop = .debug → s.stoppedAt = some (id, cause) →
        ∃ t, exec (.debugContinue lease) s = .next t ∧ t.stop = .no ∧ t.stoppedAt = none ∧
          (∀ k, (t.core k).stopped = false) ∧ (cause = 0x30 → (t.task id).pc = nextPc (s.task id).pc) ∧
          (cause = 0x16 → (t.task id).wpx = true ∧ (t.task id).pc = (s.task id).pc)) ∧
      (∀ id spec r x, s.stop = .debug → (s.task id).live = true → (s.task id).lease = lease → debugReg spec = some r →
        ∃ t, exec (.debuggerWrite id spec x) s = .next t ∧ TaskWrote s t id r x) ∧
      ∀ pc code m a va via e rows, legalPc pc = true → s.mem.wf = true → s.host.wf = true →
        (s.resolveNow lease ((s.lease lease).positions.headD 0) (w64 (lineOf pc)) = .ok ⟨.mem m, a, va, via⟩ e rows →
          ∃ t, exec (.breakpointPlant lease pc code) s = .next t ∧
            t.mem.num (a + 12 * slotOf pc) 12 = (brkWord code).toNat ∧ t.tasks = s.tasks) ∧
        (s.resolveNow lease ((s.lease lease).positions.headD 0) (w64 (lineOf pc)) = .ok ⟨.host m, a, va, via⟩ e rows →
          ∃ t, exec (.breakpointPlant lease pc code) s = .next t ∧
            t.host.num (a + 12 * slotOf pc) 12 = (brkWord code).toNat ∧ t.tasks = s.tasks))

/-- R2, R368, R369, R401 to R404, R407, R410 to R412, R414, R415: a power or junction sample above its limit steps the
clock down, unless it is held, when the step is kept; a reset leaves every task and lease as reset has them; a valid
configuration of at most 384 devices sets the power limit, the links, the keys and the policies, and any other nothing; a
report holds the nonce, part, stepping, digests and key; a flit is delivered, ignored or discarded; the time is set; a link
that has replayed 16 times is down, and where two devices of the job share no plane then, its leases are gone; a plane table
is taken, and what is not acknowledged and changes plane is to be sent again; an acknowledged flit is released. What memory holds over a device reset is the model's choice (log 32), the
step of TIME_SYNC its reading (log 44), and how kept flits stand beside the model's flights its choice (log 45, log 58).
-/
def Obligations.TheDeviceAndItsLinks : Prop :=
  ∀ (s : State),
    (∀ mw, s.device.configured = true →
      (s.device.powerLimit * 1000 < mw →
        ∃ t, exec (.powerSample mw) s = .next t ∧ t = { s with device := t.device } ∧ t.device =
          if s.clockHeld then { s.device with pendingLower := s.device.pendingLower + 1 }
          else { s.device with clockMHz := max 650 (s.device.clockMHz - 50) }) ∧
      (mw ≤ s.device.powerLimit * 1000 → s.clockHeld = false →
        ∃ t, exec (.powerSample mw) s = .next t ∧ t = { s with device := t.device } ∧
          t.device = { s.device with clockMHz := min 1300 (s.device.clockMHz + 50) })) ∧
    (exec (.thermalClamp false) s = .next s ∧
      (s.clockHeld = false → ∃ t, exec (.thermalClamp true) s = .next t ∧
        t.device = { s.device with clockMHz := max 650 (s.device.clockMHz - 50) })) ∧
    (∃ t, exec .overtempReset s = .next t ∧ t.tasks = State.reset.tasks ∧ t.leases = State.reset.leases ∧
      t.launches = State.reset.launches ∧ t.device = State.reset.device) ∧
    (∀ ok, ∃ t, exec (.deviceReset ok) s = .next t ∧ t.tasks = State.reset.tasks ∧ t.leases = State.reset.leases ∧
      t.device.booted = ok ∧ t.device.bootFailed = !ok ∧ t.device.configured = State.reset.device.configured) ∧
    (s.device.booted = true →
      (∀ b, (b.valid = false ∨ 384 < b.devices.length → exec (.configurationBlob b) s = .next s) ∧
        (b.valid = true → b.devices.length ≤ 384 → ∃ t, exec (.configurationBlob b) s = .next t ∧ t.device.configured = true ∧
          t.device.powerLimit = min 4800 b.powerLimit ∧ t.fabric.links = b.links ∧ t.fabric.domain = b.devices ∧
          t.device.operatorKeys = b.operatorKeys ∧ t.device.policies = b.policies)) ∧
      (∀ nonce, ∃ t, exec (.attestationRequest nonce) s = .next t ∧
        (∃ r rest, t.device.reports = s.device.reports ++ [r] ∧
          r = leBytes 32 nonce.toNat ++ padText "GN2-0824" ++ padText "B1" ++ s.attestedDigests ++
            leBytes 1184 Config.encapsulationKey.toNat ++ rest ∧ rest.length = 3309) ∧ t.fresh = s.fresh + 1) ∧
      ∀ f, (f.trunk = true →
          ∃ t, exec (.trunkControl f) s = .next t ∧
            (flitKind f = 0x30 → flitVc f = 3 → t.fabric.delivered = s.fabric.delivered ++ [f]) ∧
            (flitKind f ≠ 0x30 ∨ flitVc f ≠ 3 → t.fabric.discarded = s.fabric.discarded + 1 ∧ t.fabric.delivered = s.fabric.delivered)) ∧
        (f.trunk = false →
          ((flitKindOk f = false ∨ (s.lease f.toLease).live = false ∨ (s.lease f.toLease).phys / 8 ≠ f.toDevice ∨
              (f.toLease, f.fromDevice, f.fromLease) ∉ s.fabric.deviceMap) →
            ∃ t, exec (.flitReceive f) s = .next t ∧ t.fabric.discarded = s.fabric.discarded + 1 ∧
              t.fabric.delivered = s.fabric.delivered) ∧
          (flitKindOk f = true → (s.lease f.toLease).live = true → (s.lease f.toLease).phys / 8 = f.toDevice →
            (f.toLease, f.fromDevice, f.fromLease) ∈ s.fabric.deviceMap →
            ∃ t, exec (.flitReceive f) s = .next t ∧ t.fabric.discarded = s.fabric.discarded ∧
              t.fabric.delivered =
                if flitSeq f = seqOf s.fabric.expected (flitSrc f) (flitDst f) (flitVc f)
                then s.fabric.delivered ++ [f] else s.fabric.delivered))) ∧
    (s.device.bootFailed = false →
      ∀ x : Word, ((x - s.now).toNat ≤ 8 ∨ (s.now - x).toNat ≤ 8) → exec (.timeSync x) s = .next { s with now := x }) ∧
    (∀ link n y, s.fabric.live (link / 24) (link % 24) = true → n = (s.fabric.replays.find link).getD 0 + 1 →
      y = { s.fabric with dead := link :: s.fabric.dead } →
      (n < 16 → ∃ t, exec (.linkCrcReplay link) s = .next t ∧ t.fabric.replays.find link = some n ∧
        t.fabric.dead = s.fabric.dead) ∧
      (16 ≤ n → (∀ a ∈ s.jobDevices, ∀ b ∈ s.jobDevices, a = b ∨ y.share a b = true) →
        ∃ t, exec (.linkCrcReplay link) s = .next t ∧ t.fabric.dead = y.dead ∧ t.tasks = s.tasks ∧
          t.reports = s.reports ++ [Report.linkDown link]) ∧
      (16 ≤ n → (∃ a ∈ s.jobDevices, ∃ b ∈ s.jobDevices, a ≠ b ∧ y.share a b = false) →
        ∃ t, exec (.linkCrcReplay link) s = .next t ∧ Report.linkDown link ∈ t.reports ∧
          ∀ e ∈ s.leases, (t.lease e.1).live = false)) ∧
    (∀ tbl : List Nat, tbl ≠ [] → tbl.length % 24 = 0 →
      (∀ i, i < tbl.length → tbl.getD i 0 < 24 ∧ s.fabric.live (i / 24) (tbl.getD i 0) = true) →
      ∃ t, exec (.planeTableWrite tbl) s = .next t ∧ t = { s with fabric := { s.fabric with plane := tbl, resend := t.fabric.resend } } ∧
        ∀ f, f ∈ t.fabric.resend ↔ f ∈ s.fabric.kept ∧ planeOf tbl f ≠ planeOf s.fabric.plane f) ∧
    ∀ src dst vc seq, (∃ f ∈ s.fabric.kept, flitSrc f = src ∧ flitDst f = dst ∧ flitVc f = vc) →
      ∃ t, exec (.endToEndAcknowledgement src dst vc seq) s = .next t ∧
        ∀ f, f ∈ t.fabric.kept ↔ f ∈ s.fabric.kept ∧
          ¬ (flitSrc f = src ∧ flitDst f = dst ∧ flitVc f = vc ∧ (seq + 65536 - flitSeq f) % 65536 < 32768)

/-- R9, R230, R407, R409: a request that firmware refuses changes nothing, and one it grants makes the lease with its
four clusters in the job, with the indices of its group and a quota of 15,000 where it asks for none, and its scratchpads
without an error; a teardown, or a reset of the function, leaves no task of the lease, none of its clusters, and the
lease not live, with the other leases of the job where its image is not written. The coding of a
request, and 0 for what it does not ask for (log 42), and what becomes of the other leases of the job (log 47), are
the model's choices. -/
def Obligations.LeasesComeAndGo : Prop :=
  (∀ (s : State) (r : LeaseRequest), s.stop = .no →
    (s.leaseOk (filledRequest r) = false → exec (.leaseCreate r) s = .next s) ∧
    (s.leaseOk (filledRequest r) = true →
      ∃ t, exec (.leaseCreate r) s = .next t ∧ t.lease r.lease = leaseOf (filledRequest r) ∧
        (r.spoolCount = 0 → (t.lease r.lease).spoolFirst = 16384 * r.group ∧ (t.lease r.lease).spoolCount = 16384) ∧
        (r.quota = 0 → (t.lease r.lease).quota = 15000) ∧ t.tasks = s.tasks ∧ t.mem = s.mem ∧
        ∀ p ∈ r.positions, t.populated p = true ∧ (t.cluster p).lease = r.lease ∧ ∀ w ∈ t.spoilt, posOfKey (w * 8) ≠ p)) ∧
  ∀ (s : State) (lease : Nat) (i : Instr), (s.lease lease).live = true → i = .teardown lease ∨ i = .functionLevelReset lease →
    ∃ t, exec i s = .next t ∧ (t.lease lease).live = false ∧ (∀ id, (t.task id).live = true → (t.task id).lease ≠ lease) ∧
      (∀ p ∈ (s.lease lease).positions, t.populated p = false) ∧
      (s.images.find lease = none → ∀ e ∈ s.leases, (t.lease e.1).live = false) ∧
      ((s.images.find lease).isSome = true → ∀ x, x ≠ lease → (t.lease x).live = (s.lease x).live)

/-- R5, R395 to R398, R412, R413: what the host reads through BAR0: of the block of each queue the stored registers,
zero for the write-only PIDX, and in QSTAT the consumer index and the completion count; and from offset 0 the eight
entries of the capability list, each header with its id, each next offset as far on as the length says, the last 0,
the first entry with part string and stepping; and the words of the MSI-X table as they were written. Where Polroth's image
has failed its check, nothing. The lengths of the entries but the first are free values (log 54). -/
def Obligations.TheHostReadsItsRegisters : Prop :=
  ∀ (s : State) (lease : Nat),
    (s.device.bootFailed = true → ∀ off, s.bar0Read lease off = 0) ∧
    (s.device.bootFailed = false →
    (∀ i x, (s.lease lease).msixTable.toList[i]? = some x → s.bar0Read lease (0x8000 + 8 * i) = x) ∧
    (∀ q x, q < 16 → (s.lease lease).queues.toList[q]? = some x → ∀ b, b = 0x1000 + 0x100 * q →
      s.bar0Read lease b = x.ring ∧ s.bar0Read lease (b + 0x08) = x.qctl ∧ s.bar0Read lease (b + 0x10) = x.cidxa ∧
      s.bar0Read lease (b + 0x18) = x.wakea ∧ s.bar0Read lease (b + 0x20) = x.compl ∧ s.bar0Read lease (b + 0x28) = 0 ∧
      bits (s.bar0Read lease (b + 0x30)) 31 0 = x.cidx.toNat ∧
      bits (s.bar0Read lease (b + 0x30)) 62 32 = x.done.toNat % 2 ^ 31 ∧
      bits (s.bar0Read lease (b + 0x30)) 63 63 = bit x.err) ∧
    (∃ offs : Nat → Nat, offs 1 = 0 ∧ ∀ i, 1 ≤ i → i ≤ 8 →
      bits (s.bar0Read lease (offs i)) 15 0 = i ∧
      (i < 8 → bits (s.bar0Read lease (offs i)) 63 32 = offs (i + 1) ∧
        offs (i + 1) = offs i + 8 * bits (s.bar0Read lease (offs i)) 31 24) ∧
      (i = 8 → bits (s.bar0Read lease (offs i)) 63 32 = 0)) ∧
    s.bar0Read lease 8 = w64 (leNat (padText "GN2-0824")) ∧ s.bar0Read lease 16 = w64 (leNat (padText "B1")))

/-! Encoding, one step, memory and the invariant. -/

/-- R52, R268: what becomes of every 96-bit word: all ones are VOID; any other word of class 0xC to 0xF, and any whose
operation is not assigned, is an illegal opcode; an assigned one with a field that its entry does not accept, or in a
line whose reserved bits are set, is an illegal field; one whose MOD is undefined is an illegal modifier; and all zeros
are a NOP; each with the trap code and information of its cause. -/
def Obligations.EveryWordHasItsFate : Prop :=
  (∀ lb, decodeIn lb (BitVec.allOnes 96) = .error .void) ∧
  (∀ lb (w : IWord), w ≠ BitVec.allOnes 96 → 0xC ≤ fld w 95 92 →
    decodeIn lb w = .error (.opcode (fld w 95 92) (fld w 91 84))) ∧
  (∀ lb (w : IWord), w ≠ BitVec.allOnes 96 →
    (∀ x l, ofParts (fld w 95 92) (fld w 91 84) x l = none) →
    decodeIn lb w = .error (.opcode (fld w 95 92) (fld w 91 84))) ∧
  (∀ (w : IWord) i, w ≠ BitVec.allOnes 96 →
    ofParts (fld w 95 92) (fld w 91 84) (fieldsOfWord w) (lfieldsOfWord w) = some i →
    (∀ n lb, fieldError i = some n → decodeIn lb w = .error (.field n)) ∧
    (fieldError i = none →
      decodeIn true w = .error (.field 7) ∧
      (modOk i = false → decodeIn false w = .error (.modifier (fld w 71 64))) ∧
      (modOk i = true → decodeIn false w = .ok i))) ∧
  decodeIn false 0 = .ok (.nop ⟨⟨false, false, 0⟩, .s 0, 0, ⟨.s 0, false⟩, ⟨.s 0, false⟩, ⟨.s 0, false⟩, 0⟩) ∧
  decodeTrap .void = (0x04, 0) ∧ (∀ c o, decodeTrap (.opcode c o) = (0x05, w64 (c + o * 16))) ∧
  (∀ n, decodeTrap (.field n) = (0x06, w64 n)) ∧ ∀ m, decodeTrap (.modifier m) = (0x07, w64 m)

/-- R40, R105, R118, R210: the words that the spec writes out, `CMP.lt.s q2, s5, 100`, the `LOOP s7` of its counted loop
and `SEND.rel s9, s12, s13`, decode to the instructions that they stand for. -/
def Obligations.WrittenWordsDecode : Prop :=
  decodeTableWord 96 0x01D05A940500000000000064 =
      some (.cmp ⟨⟨false, false, 0⟩, .q 2, 0x94, ⟨.s 5, false⟩, ⟨.s 0, false⟩, ⟨.s 0, false⟩, 100⟩) ∧
  decodeTableWord 96 0x20500700000000FFFFFFFFFF =
      some (.loop ⟨⟨false, false, 0⟩, .s 7, 0, ⟨.s 0, false⟩, ⟨.s 0, false⟩, ⟨.s 0, false⟩, 0xFFFFFFFFFF⟩) ∧
  decodeTableWord 96 0xA01009020C0D000000000000 =
      some (.send ⟨⟨false, false, 0⟩, .s 9, 2, ⟨.s 12, false⟩, ⟨.s 13, false⟩, ⟨.s 0, false⟩, 0⟩)

/-- R40, R42, R51, R54: every well-formed instruction is read back from its word, with every field as it was. -/
def Obligations.EncodingReadsBack : Prop :=
  ∀ i : Instr, i.coded = true → i.wf = true → decode (encode i) = .ok i

/-- R40, R51, R52: a word that decodes is the word of the instruction it decodes to, which is well formed: no two words
mean one instruction, and no bit of a word is passed over. -/
def Obligations.WordsHaveOneMeaning : Prop :=
  ∀ (w : IWord) (i : Instr), decode w = .ok i → encode i = w ∧ i.wf = true ∧ i.coded = true

/-- R32, R39, R51, R52, R268, R345: at its turn a task whose fetch finds a word that decodes runs the instruction it
decodes to, in a state in which its target check is over; beside that a step only notes the place of that issue in the
order of issue, and in recorded mode that a chunk is over. A word that does not decode, and a fetch that fails, at a
target or not, traps; a slot that its core's choice passes over does nothing; and an event whose turn it is takes
place as it is given. That the agenda says whose turn it is, is the model's choice (log 2). -/
def Obligations.StepRunsTheDecodedInstruction : Prop :=
  (∀ (s w u : State) (id : Nat) (rest : List Turn), s.agenda = .issue id :: rest → w = { s with agenda := rest } →
    u = { w with cur := id } →
    (w.mayIssue id = false → step s = .next w) ∧
    (w.mayIssue id = true → u.eligible id = true → u.stopsHere id = false → (u.task id).deferred = [] →
      (∀ c a i, (u.task id).wait ≠ .trap c a i) →
      (∀ x lw, u.fetchAt (u.task id) (u.task id).pc (u.task id).tgt.isSome = .got x lw →
        (∀ i v, decodeIn (fld lw 22 10 != 0) x = .ok i → v = u.onTask id (fun t => { t with tgt := none }) →
          (∀ t, exec i v = .next t →
            step s = .next (w.noteIssue (v.afterIssue t id (some i)) id) ∧
            (w.recorded id = false → step s = .next (w.noteIssue t id))) ∧
          ((∀ t, exec i v ≠ .next t) → step s = exec i v)) ∧
        ∀ e, decodeIn (fld lw 22 10 != 0) x = .error e → w.recorded id = false →
          step s = .next (w.noteIssue (u.takeTrap id (decodeTrap e).1 (u.task id).pc 0 (decodeTrap e).2) id)) ∧
      ∀ c a i, u.fetchAt (u.task id) (u.task id).pc (u.task id).tgt.isSome = .trap c a i → w.recorded id = false →
        step s = .next (w.noteIssue (u.takeTrap id c (u.task id).pc a (match (u.task id).tgt with
          | some ix => tgtInfo i ix
          | none => i)) id))) ∧
  (∀ (a b t : State) (id : Nat), t = a.noteIssue b id →
    t = { b with tasks := t.tasks, cores := t.cores, seq := t.seq } ∧
    (∀ j, t.task j = { b.task j with issued := (t.task j).issued, passed := (t.task j).passed }) ∧
    ∀ k, t.core k = { b.core k with pair := (t.core k).pair }) ∧
  ∀ (s : State) (i : Instr) (rest : List Turn), s.agenda = .event i :: rest → step s = exec i { s with agenda := rest }

/-- R29, R122, R268, R270, R279: LDV at an address that is no multiple of 8, a tagged operation there or outside the
scratchpad windows, and a load, store or atomic whose bytes leave the core in whose scratchpad it starts, trap
MISALIGNED, and any other atomic across a line or word its atomic form, with the address and the size, before anything
else of theirs happens. -/
def Obligations.MisalignedAccessesTrap : Prop :=
  ∀ (f : Fields) (s : State), ReadyF f s →
    ((effAddr f s).toNat % 8 ≠ 0 → exec (.ldv f) s = .next (s.takeTrap s.cur 0x12 s.me.pc (effAddr f s) 256)) ∧
    (leavesCore (effAddr f s) (widBytes f.mod) = true → ∀ i ∈ [Instr.ld f, .st f],
      exec i s = .next (s.takeTrap s.cur 0x12 s.me.pc (effAddr f s) (w64 (widBytes f.mod)))) ∧
    (((effAddr f s).toNat % 8 ≠ 0 ∨ (effAddr f s).toNat < ownBase ∨ 2 ^ 56 ≤ (effAddr f s).toNat) →
      ∀ i ∈ [Instr.ldf f, .ldff f, .ste f, .stf f, .sete f, .probe f],
        exec i s = .next (s.takeTrap s.cur 0x12 s.me.pc (effAddr f s) 8)) ∧
    ∀ e ∈ atomicTable,
      (leavesCore (e.2.2 f s) (widBytes f.mod) = true →
        exec (e.1 f) s = .next (s.takeTrap s.cur 0x12 s.me.pc (e.2.2 f s) (w64 (widBytes f.mod)))) ∧
      ∀ unit, unit = (if ownBase ≤ (e.2.2 f s).toNat ∧ (e.2.2 f s).toNat < 2 ^ 56 then 8 else 64) →
        leavesCore (e.2.2 f s) (widBytes f.mod) = false → unit < (e.2.2 f s).toNat % unit + widBytes f.mod →
        exec (e.1 f) s = .next (s.takeTrap s.cur 0x13 s.me.pc (e.2.2 f s) (w64 (widBytes f.mod)))

/-- R4: a byte put into a memory in canonical form reads back and no other byte changes, a number written at an address
reads back in its width, bytes written read back in order, and the form is kept. That an unlisted byte reads 0 is the
model's choice (log 5). -/
def Obligations.MemoryReadsBack : Prop :=
  ∀ m : Memory, m.wf = true →
    (∀ a b, (m.put a b).wf = true ∧ ∀ c, (m.put a b).get c = if c = a then b else m.get c) ∧
    (∀ a n x, (m.putNum a n x).num a n = x % 2 ^ (8 * n) ∧ (m.putNum a n x).wf = true ∧
      ∀ c, c < a ∨ a + n ≤ c → (m.putNum a n x).get c = m.get c) ∧
    ∀ a bs, (m.write a bs).bytes a bs.length = bs ∧ (m.write a bs).wf = true

/-- R4, R348, R350: every step that answers a next state keeps device memory, host memory and the scratchpads, and what
a basting point holds of them, in canonical form. The canonical form and its unlisted 0 are the model's choice (log 5).
-/
def Obligations.StepKeepsTheInvariant : Prop :=
  ∀ s t : State, s.Inv → step s = .next t → t.Inv

/-- R4, R407, R410: the state after reset meets the invariant and is safe, holds no lease, task or launch, and its
device is not configured. The values at reset that the spec does not give are the model's choice (log 1), and so is that
memory lists nothing (log 5). -/
def Obligations.ResetMeetsTheInvariant : Prop :=
  State.reset.Inv ∧ State.reset.Safe ∧ State.reset.leases = [] ∧ State.reset.tasks = [] ∧ State.reset.launches = [] ∧
  State.reset.device.configured = false ∧ State.reset.stop = .no

end
end

