-- ==== Sys2Proof/Laws/Encode.lean ====
section
/-! SUPPORT. The fields of a word and the word of the fields: each field is read back from where it is put (R40, R42). -/
namespace Sys2Proof

open Sys2Proof.Machine (fld partsOf ofParts)

@[simp] theorem Reg.ofSpec_spec (r : Reg) : Reg.ofSpec r.spec = r := by
  cases r with
  | s n => revert n; decide
  | v n => revert n; decide
  | p n => revert n; decide
  | q n => revert n; decide
  | z n => revert n; decide
  | rsv n => revert n; decide

@[simp] theorem Reg.spec_ofSpec (n : BitVec 7) : (Reg.ofSpec n).spec = n := by
  obtain ⟨k, rfl⟩ : ∃ k : Fin 128, n = BitVec.ofFin k := ⟨n.toFin, rfl⟩
  revert k; decide

@[simp] theorem srcOfBits_srcBits (x : Src) : srcOfBits (srcBits x) = x := by
  obtain ⟨r, t⟩ := x
  have h1 : (srcBits ⟨r, t⟩).setWidth 7 = r.spec := by
    apply BitVec.eq_of_getLsbD_eq; intro i hi
    simp only [srcBits, BitVec.getLsbD_setWidth, BitVec.getLsbD_append, hi, decide_true, Bool.true_and, if_true]
  have h2 : (srcBits ⟨r, t⟩).getLsbD 7 = t := by
    simp only [srcBits, BitVec.getLsbD_append]; cases t <;> rfl
  simp only [srcOfBits, h1, h2, Reg.ofSpec_spec]

@[simp] theorem srcBits_srcOfBits (b : BitVec 8) : srcBits (srcOfBits b) = b := by
  apply BitVec.eq_of_getLsbD_eq; intro i hi
  simp only [srcBits, srcOfBits, BitVec.getLsbD_append, Reg.spec_ofSpec, BitVec.getLsbD_setWidth]
  by_cases h : i < 7
  · simp only [h, decide_true, Bool.true_and, if_true]
  · obtain rfl : i = 7 := by omega
    cases b.getLsbD 7 <;> rfl

@[simp] theorem guardOfBits_guardBits (g : Guard) : guardOfBits (guardBits g) = g := by
  obtain ⟨e, n, q⟩ := g
  revert e n q; decide

@[simp] theorem guardBits_guardOfBits (b : BitVec 5) : guardBits (guardOfBits b) = b := by
  obtain ⟨k, rfl⟩ : ∃ k : Fin 32, b = BitVec.ofFin k := ⟨b.toFin, rfl⟩
  revert k; decide

/-- A word of format X from its fields (R40). -/
def wordX (cls op : Nat) (f : Fields) : IWord :=
  headerBits cls op f.guard f.dst f.mod ++ (srcBits f.a ++ (srcBits f.b ++ (srcBits f.c ++ f.imm)))

/-- A word of format L from its fields (R42). -/
def wordL (cls op : Nat) (f : LFields) : IWord := headerBits cls op f.guard f.dst f.mod ++ f.imm

theorem wordX_cls (cls op : Nat) (f : Fields) : (wordX cls op f).extractLsb' 92 4 = BitVec.ofNat 4 cls := by
  apply BitVec.eq_of_getLsbD_eq; intro i hi
  simp only [wordX, headerBits, BitVec.getLsbD_extractLsb', BitVec.getLsbD_append]
  simp (disch := omega) only [hi, decide_true, Bool.true_and, if_pos, if_neg]
  first | rfl | (congr 1; omega)

theorem wordX_op (cls op : Nat) (f : Fields) : (wordX cls op f).extractLsb' 84 8 = BitVec.ofNat 8 op := by
  apply BitVec.eq_of_getLsbD_eq; intro i hi
  simp only [wordX, headerBits, BitVec.getLsbD_extractLsb', BitVec.getLsbD_append]
  simp (disch := omega) only [hi, decide_true, Bool.true_and, if_pos, if_neg]
  first | rfl | (congr 1; omega)

theorem wordX_guard (cls op : Nat) (f : Fields) : (wordX cls op f).extractLsb' 79 5 = guardBits f.guard := by
  apply BitVec.eq_of_getLsbD_eq; intro i hi
  simp only [wordX, headerBits, BitVec.getLsbD_extractLsb', BitVec.getLsbD_append]
  simp (disch := omega) only [hi, decide_true, Bool.true_and, if_pos, if_neg]
  first | rfl | (congr 1; omega)

theorem wordX_dst (cls op : Nat) (f : Fields) : (wordX cls op f).extractLsb' 72 7 = f.dst.spec := by
  apply BitVec.eq_of_getLsbD_eq; intro i hi
  simp only [wordX, headerBits, BitVec.getLsbD_extractLsb', BitVec.getLsbD_append]
  simp (disch := omega) only [hi, decide_true, Bool.true_and, if_pos, if_neg]
  first | rfl | (congr 1; omega)

theorem wordX_mod (cls op : Nat) (f : Fields) : (wordX cls op f).extractLsb' 64 8 = f.mod := by
  apply BitVec.eq_of_getLsbD_eq; intro i hi
  simp only [wordX, headerBits, BitVec.getLsbD_extractLsb', BitVec.getLsbD_append]
  simp (disch := omega) only [hi, decide_true, Bool.true_and, if_pos, if_neg]
  first | rfl | (congr 1; omega)

theorem wordL_cls (cls op : Nat) (f : LFields) : (wordL cls op f).extractLsb' 92 4 = BitVec.ofNat 4 cls := by
  apply BitVec.eq_of_getLsbD_eq; intro i hi
  simp only [wordL, headerBits, BitVec.getLsbD_extractLsb', BitVec.getLsbD_append]
  simp (disch := omega) only [hi, decide_true, Bool.true_and, if_pos, if_neg]
  first | rfl | (congr 1; omega)

theorem wordL_op (cls op : Nat) (f : LFields) : (wordL cls op f).extractLsb' 84 8 = BitVec.ofNat 8 op := by
  apply BitVec.eq_of_getLsbD_eq; intro i hi
  simp only [wordL, headerBits, BitVec.getLsbD_extractLsb', BitVec.getLsbD_append]
  simp (disch := omega) only [hi, decide_true, Bool.true_and, if_pos, if_neg]
  first | rfl | (congr 1; omega)

theorem wordL_guard (cls op : Nat) (f : LFields) : (wordL cls op f).extractLsb' 79 5 = guardBits f.guard := by
  apply BitVec.eq_of_getLsbD_eq; intro i hi
  simp only [wordL, headerBits, BitVec.getLsbD_extractLsb', BitVec.getLsbD_append]
  simp (disch := omega) only [hi, decide_true, Bool.true_and, if_pos, if_neg]
  first | rfl | (congr 1; omega)

theorem wordL_dst (cls op : Nat) (f : LFields) : (wordL cls op f).extractLsb' 72 7 = f.dst.spec := by
  apply BitVec.eq_of_getLsbD_eq; intro i hi
  simp only [wordL, headerBits, BitVec.getLsbD_extractLsb', BitVec.getLsbD_append]
  simp (disch := omega) only [hi, decide_true, Bool.true_and, if_pos, if_neg]
  first | rfl | (congr 1; omega)

theorem wordL_mod (cls op : Nat) (f : LFields) : (wordL cls op f).extractLsb' 64 8 = f.mod := by
  apply BitVec.eq_of_getLsbD_eq; intro i hi
  simp only [wordL, headerBits, BitVec.getLsbD_extractLsb', BitVec.getLsbD_append]
  simp (disch := omega) only [hi, decide_true, Bool.true_and, if_pos, if_neg]
  first | rfl | (congr 1; omega)

theorem wordX_a (cls op : Nat) (f : Fields) : (wordX cls op f).extractLsb' 56 8 = srcBits f.a := by
  apply BitVec.eq_of_getLsbD_eq; intro i hi
  simp only [wordX, headerBits, BitVec.getLsbD_extractLsb', BitVec.getLsbD_append]
  simp (disch := omega) only [hi, decide_true, Bool.true_and, if_pos, if_neg]
  first | rfl | (congr 1; omega)

theorem wordX_b (cls op : Nat) (f : Fields) : (wordX cls op f).extractLsb' 48 8 = srcBits f.b := by
  apply BitVec.eq_of_getLsbD_eq; intro i hi
  simp only [wordX, headerBits, BitVec.getLsbD_extractLsb', BitVec.getLsbD_append]
  simp (disch := omega) only [hi, decide_true, Bool.true_and, if_pos, if_neg]
  first | rfl | (congr 1; omega)

theorem wordX_c (cls op : Nat) (f : Fields) : (wordX cls op f).extractLsb' 40 8 = srcBits f.c := by
  apply BitVec.eq_of_getLsbD_eq; intro i hi
  simp only [wordX, headerBits, BitVec.getLsbD_extractLsb', BitVec.getLsbD_append]
  simp (disch := omega) only [hi, decide_true, Bool.true_and, if_pos, if_neg]
  first | rfl | (congr 1; omega)

theorem wordX_imm (cls op : Nat) (f : Fields) : (wordX cls op f).extractLsb' 0 40 = f.imm := by
  apply BitVec.eq_of_getLsbD_eq; intro i hi
  simp only [wordX, headerBits, BitVec.getLsbD_extractLsb', BitVec.getLsbD_append]
  simp (disch := omega) only [hi, decide_true, Bool.true_and, if_pos]
  first | rfl | (congr 1; omega)

theorem wordL_imm (cls op : Nat) (f : LFields) : (wordL cls op f).extractLsb' 0 64 = f.imm := by
  apply BitVec.eq_of_getLsbD_eq; intro i hi
  simp only [wordL, headerBits, BitVec.getLsbD_extractLsb', BitVec.getLsbD_append]
  simp (disch := omega) only [hi, decide_true, Bool.true_and, if_pos]
  first | rfl | (congr 1; omega)

/-- The fields of a word of format X are those it was made of. -/
@[simp] theorem fieldsOfWord_wordX (cls op : Nat) (f : Fields) : fieldsOfWord (wordX cls op f) = f := by
  simp only [fieldsOfWord, wordX_guard, wordX_dst, wordX_mod, wordX_a, wordX_b, wordX_c, wordX_imm, guardOfBits_guardBits,
    srcOfBits_srcBits, Reg.ofSpec_spec]

/-- The fields of a word of format L are those it was made of. -/
@[simp] theorem lfieldsOfWord_wordL (cls op : Nat) (f : LFields) : lfieldsOfWord (wordL cls op f) = f := by
  simp only [lfieldsOfWord, wordL_guard, wordL_dst, wordL_mod, wordL_imm, guardOfBits_guardBits, Reg.ofSpec_spec]

theorem fld_eq_extract {w : Nat} (x : BitVec w) (hi lo : Nat) :
    fld x hi lo = (x.extractLsb' lo (hi + 1 - lo)).toNat := by
  simp only [fld, BitVec.extractLsb'_toNat]

/-- The CLASS and OP of a word of format X, within their widths. -/
theorem wordX_fld (cls op : Nat) (f : Fields) (hc : cls < 16) (ho : op < 256) :
    fld (wordX cls op f) 95 92 = cls ∧ fld (wordX cls op f) 91 84 = op := by
  rw [fld_eq_extract, fld_eq_extract]
  simp only [Nat.reduceAdd, Nat.reduceSub, wordX_cls, wordX_op, BitVec.toNat_ofNat]
  exact ⟨Nat.mod_eq_of_lt hc, Nat.mod_eq_of_lt ho⟩

/-- The CLASS and OP of a word of format L, within their widths. -/
theorem wordL_fld (cls op : Nat) (f : LFields) (hc : cls < 16) (ho : op < 256) :
    fld (wordL cls op f) 95 92 = cls ∧ fld (wordL cls op f) 91 84 = op := by
  rw [fld_eq_extract, fld_eq_extract]
  simp only [Nat.reduceAdd, Nat.reduceSub, wordL_cls, wordL_op, BitVec.toNat_ofNat]
  exact ⟨Nat.mod_eq_of_lt hc, Nat.mod_eq_of_lt ho⟩

end Sys2Proof
end

