-- ==== Sys2Proof/Laws/State.lean ====
section
/-! SUPPORT. What each update of the state leaves of each field, and what the keyed accessors answer after it: no later
proof unfolds a record update. -/
namespace Sys2Proof.Machine

/-! Keyed data. -/

@[simp] theorem Store.find_nil {α : Type} (a : Nat) : Store.find ([] : Store α) a = none := rfl

theorem Store.find_put {α : Type} (m : Store α) (a b : Nat) (v : α) :
    (m.put a v).find b = if a = b then some v else m.find b := by
  induction m with
  | nil => simp [Store.put, Store.find]
  | cons e m ih =>
    obtain ⟨k, w⟩ := e
    simp only [Store.put]
    split
    · simp [Store.find]
    · split
      · rename_i h; subst h; simp only [Store.find]; split <;> rfl
      · simp only [Store.find, ih]
        split <;> split <;> simp_all

@[simp] theorem Store.find_put_self {α : Type} (m : Store α) (a : Nat) (v : α) : (m.put a v).find a = some v := by
  simp [Store.find_put]

theorem Store.find_put_ne {α : Type} (m : Store α) (a b : Nat) (v : α) (h : a ≠ b) : (m.put a v).find b = m.find b := by
  simp [Store.find_put, h]

/-! `State.setTask` changes `tasks` alone. -/

@[simp] theorem State.setTask_agenda (s : State) (i : Nat) (t : Task) : (s.setTask i t).agenda = s.agenda := rfl
@[simp] theorem State.setTask_eventsTurn (s : State) (i : Nat) (t : Task) : (s.setTask i t).eventsTurn = s.eventsTurn := rfl
@[simp] theorem State.setTask_cur (s : State) (i : Nat) (t : Task) : (s.setTask i t).cur = s.cur := rfl
@[simp] theorem State.setTask_fresh (s : State) (i : Nat) (t : Task) : (s.setTask i t).fresh = s.fresh := rfl
@[simp] theorem State.setTask_seq (s : State) (i : Nat) (t : Task) : (s.setTask i t).seq = s.seq := rfl
@[simp] theorem State.setTask_now (s : State) (i : Nat) (t : Task) : (s.setTask i t).now = s.now := rfl
@[simp] theorem State.setTask_cores (s : State) (i : Nat) (t : Task) : (s.setTask i t).cores = s.cores := rfl
@[simp] theorem State.setTask_clusters (s : State) (i : Nat) (t : Task) : (s.setTask i t).clusters = s.clusters := rfl
@[simp] theorem State.setTask_spad (s : State) (i : Nat) (t : Task) : (s.setTask i t).spad = s.spad := rfl
@[simp] theorem State.setTask_tags (s : State) (i : Nat) (t : Task) : (s.setTask i t).tags = s.tags := rfl
@[simp] theorem State.setTask_bank (s : State) (i : Nat) (t : Task) : (s.setTask i t).bank = s.bank := rfl
@[simp] theorem State.setTask_nodes (s : State) (i : Nat) (t : Task) : (s.setTask i t).nodes = s.nodes := rfl
@[simp] theorem State.setTask_spool (s : State) (i : Nat) (t : Task) : (s.setTask i t).spool = s.spool := rfl
@[simp] theorem State.setTask_ways (s : State) (i : Nat) (t : Task) : (s.setTask i t).ways = s.ways := rfl
@[simp] theorem State.setTask_leases (s : State) (i : Nat) (t : Task) : (s.setTask i t).leases = s.leases := rfl
@[simp] theorem State.setTask_launches (s : State) (i : Nat) (t : Task) : (s.setTask i t).launches = s.launches := rfl
@[simp] theorem State.setTask_starts (s : State) (i : Nat) (t : Task) : (s.setTask i t).starts = s.starts := rfl
@[simp] theorem State.setTask_nextVer (s : State) (i : Nat) (t : Task) : (s.setTask i t).nextVer = s.nextVer := rfl
@[simp] theorem State.setTask_job (s : State) (i : Nat) (t : Task) : (s.setTask i t).job = s.job := rfl
@[simp] theorem State.setTask_secret (s : State) (i : Nat) (t : Task) : (s.setTask i t).secret = s.secret := rfl
@[simp] theorem State.setTask_leaseKey (s : State) (i : Nat) (t : Task) : (s.setTask i t).leaseKey = s.leaseKey := rfl
@[simp] theorem State.setTask_order (s : State) (i : Nat) (t : Task) : (s.setTask i t).order = s.order := rfl
@[simp] theorem State.setTask_replayLog (s : State) (i : Nat) (t : Task) : (s.setTask i t).replayLog = s.replayLog := rfl
@[simp] theorem State.setTask_basteReq (s : State) (i : Nat) (t : Task) : (s.setTask i t).basteReq = s.basteReq := rfl
@[simp] theorem State.setTask_basted (s : State) (i : Nat) (t : Task) : (s.setTask i t).basted = s.basted := rfl
@[simp] theorem State.setTask_mem (s : State) (i : Nat) (t : Task) : (s.setTask i t).mem = s.mem := rfl
@[simp] theorem State.setTask_host (s : State) (i : Nat) (t : Task) : (s.setTask i t).host = s.host := rfl
@[simp] theorem State.setTask_msix (s : State) (i : Nat) (t : Task) : (s.setTask i t).msix = s.msix := rfl
@[simp] theorem State.setTask_marked (s : State) (i : Nat) (t : Task) : (s.setTask i t).marked = s.marked := rfl
@[simp] theorem State.setTask_spoilt (s : State) (i : Nat) (t : Task) : (s.setTask i t).spoilt = s.spoilt := rfl
@[simp] theorem State.setTask_walkCache (s : State) (i : Nat) (t : Task) : (s.setTask i t).walkCache = s.walkCache := rfl
@[simp] theorem State.setTask_walks (s : State) (i : Nat) (t : Task) : (s.setTask i t).walks = s.walks := rfl
@[simp] theorem State.setTask_faults (s : State) (i : Nat) (t : Task) : (s.setTask i t).faults = s.faults := rfl
@[simp] theorem State.setTask_dumps (s : State) (i : Nat) (t : Task) : (s.setTask i t).dumps = s.dumps := rfl
@[simp] theorem State.setTask_flight (s : State) (i : Nat) (t : Task) : (s.setTask i t).flight = s.flight := rfl
@[simp] theorem State.setTask_stop (s : State) (i : Nat) (t : Task) : (s.setTask i t).stop = s.stop := rfl
@[simp] theorem State.setTask_markers (s : State) (i : Nat) (t : Task) : (s.setTask i t).markers = s.markers := rfl
@[simp] theorem State.setTask_chunkStop (s : State) (i : Nat) (t : Task) : (s.setTask i t).chunkStop = s.chunkStop := rfl
@[simp] theorem State.setTask_stoppedAt (s : State) (i : Nat) (t : Task) : (s.setTask i t).stoppedAt = s.stoppedAt := rfl
@[simp] theorem State.setTask_cutAt (s : State) (i : Nat) (t : Task) : (s.setTask i t).cutAt = s.cutAt := rfl
@[simp] theorem State.setTask_images (s : State) (i : Nat) (t : Task) : (s.setTask i t).images = s.images := rfl
@[simp] theorem State.setTask_saveAreas (s : State) (i : Nat) (t : Task) : (s.setTask i t).saveAreas = s.saveAreas := rfl
@[simp] theorem State.setTask_pendingError (s : State) (i : Nat) (t : Task) : (s.setTask i t).pendingError = s.pendingError := rfl
@[simp] theorem State.setTask_reports (s : State) (i : Nat) (t : Task) : (s.setTask i t).reports = s.reports := rfl
@[simp] theorem State.setTask_fabric (s : State) (i : Nat) (t : Task) : (s.setTask i t).fabric = s.fabric := rfl
@[simp] theorem State.setTask_device (s : State) (i : Nat) (t : Task) : (s.setTask i t).device = s.device := rfl

/-! `State.onTask` changes `tasks` alone. -/

@[simp] theorem State.onTask_agenda (s : State) (i : Nat) (f : Task → Task) : (s.onTask i f).agenda = s.agenda := rfl
@[simp] theorem State.onTask_eventsTurn (s : State) (i : Nat) (f : Task → Task) : (s.onTask i f).eventsTurn = s.eventsTurn := rfl
@[simp] theorem State.onTask_cur (s : State) (i : Nat) (f : Task → Task) : (s.onTask i f).cur = s.cur := rfl
@[simp] theorem State.onTask_fresh (s : State) (i : Nat) (f : Task → Task) : (s.onTask i f).fresh = s.fresh := rfl
@[simp] theorem State.onTask_seq (s : State) (i : Nat) (f : Task → Task) : (s.onTask i f).seq = s.seq := rfl
@[simp] theorem State.onTask_now (s : State) (i : Nat) (f : Task → Task) : (s.onTask i f).now = s.now := rfl
@[simp] theorem State.onTask_cores (s : State) (i : Nat) (f : Task → Task) : (s.onTask i f).cores = s.cores := rfl
@[simp] theorem State.onTask_clusters (s : State) (i : Nat) (f : Task → Task) : (s.onTask i f).clusters = s.clusters := rfl
@[simp] theorem State.onTask_spad (s : State) (i : Nat) (f : Task → Task) : (s.onTask i f).spad = s.spad := rfl
@[simp] theorem State.onTask_tags (s : State) (i : Nat) (f : Task → Task) : (s.onTask i f).tags = s.tags := rfl
@[simp] theorem State.onTask_bank (s : State) (i : Nat) (f : Task → Task) : (s.onTask i f).bank = s.bank := rfl
@[simp] theorem State.onTask_nodes (s : State) (i : Nat) (f : Task → Task) : (s.onTask i f).nodes = s.nodes := rfl
@[simp] theorem State.onTask_spool (s : State) (i : Nat) (f : Task → Task) : (s.onTask i f).spool = s.spool := rfl
@[simp] theorem State.onTask_ways (s : State) (i : Nat) (f : Task → Task) : (s.onTask i f).ways = s.ways := rfl
@[simp] theorem State.onTask_leases (s : State) (i : Nat) (f : Task → Task) : (s.onTask i f).leases = s.leases := rfl
@[simp] theorem State.onTask_launches (s : State) (i : Nat) (f : Task → Task) : (s.onTask i f).launches = s.launches := rfl
@[simp] theorem State.onTask_starts (s : State) (i : Nat) (f : Task → Task) : (s.onTask i f).starts = s.starts := rfl
@[simp] theorem State.onTask_nextVer (s : State) (i : Nat) (f : Task → Task) : (s.onTask i f).nextVer = s.nextVer := rfl
@[simp] theorem State.onTask_job (s : State) (i : Nat) (f : Task → Task) : (s.onTask i f).job = s.job := rfl
@[simp] theorem State.onTask_secret (s : State) (i : Nat) (f : Task → Task) : (s.onTask i f).secret = s.secret := rfl
@[simp] theorem State.onTask_leaseKey (s : State) (i : Nat) (f : Task → Task) : (s.onTask i f).leaseKey = s.leaseKey := rfl
@[simp] theorem State.onTask_order (s : State) (i : Nat) (f : Task → Task) : (s.onTask i f).order = s.order := rfl
@[simp] theorem State.onTask_replayLog (s : State) (i : Nat) (f : Task → Task) : (s.onTask i f).replayLog = s.replayLog := rfl
@[simp] theorem State.onTask_basteReq (s : State) (i : Nat) (f : Task → Task) : (s.onTask i f).basteReq = s.basteReq := rfl
@[simp] theorem State.onTask_basted (s : State) (i : Nat) (f : Task → Task) : (s.onTask i f).basted = s.basted := rfl
@[simp] theorem State.onTask_mem (s : State) (i : Nat) (f : Task → Task) : (s.onTask i f).mem = s.mem := rfl
@[simp] theorem State.onTask_host (s : State) (i : Nat) (f : Task → Task) : (s.onTask i f).host = s.host := rfl
@[simp] theorem State.onTask_msix (s : State) (i : Nat) (f : Task → Task) : (s.onTask i f).msix = s.msix := rfl
@[simp] theorem State.onTask_marked (s : State) (i : Nat) (f : Task → Task) : (s.onTask i f).marked = s.marked := rfl
@[simp] theorem State.onTask_spoilt (s : State) (i : Nat) (f : Task → Task) : (s.onTask i f).spoilt = s.spoilt := rfl
@[simp] theorem State.onTask_walkCache (s : State) (i : Nat) (f : Task → Task) : (s.onTask i f).walkCache = s.walkCache := rfl
@[simp] theorem State.onTask_walks (s : State) (i : Nat) (f : Task → Task) : (s.onTask i f).walks = s.walks := rfl
@[simp] theorem State.onTask_faults (s : State) (i : Nat) (f : Task → Task) : (s.onTask i f).faults = s.faults := rfl
@[simp] theorem State.onTask_dumps (s : State) (i : Nat) (f : Task → Task) : (s.onTask i f).dumps = s.dumps := rfl
@[simp] theorem State.onTask_flight (s : State) (i : Nat) (f : Task → Task) : (s.onTask i f).flight = s.flight := rfl
@[simp] theorem State.onTask_stop (s : State) (i : Nat) (f : Task → Task) : (s.onTask i f).stop = s.stop := rfl
@[simp] theorem State.onTask_markers (s : State) (i : Nat) (f : Task → Task) : (s.onTask i f).markers = s.markers := rfl
@[simp] theorem State.onTask_chunkStop (s : State) (i : Nat) (f : Task → Task) : (s.onTask i f).chunkStop = s.chunkStop := rfl
@[simp] theorem State.onTask_stoppedAt (s : State) (i : Nat) (f : Task → Task) : (s.onTask i f).stoppedAt = s.stoppedAt := rfl
@[simp] theorem State.onTask_cutAt (s : State) (i : Nat) (f : Task → Task) : (s.onTask i f).cutAt = s.cutAt := rfl
@[simp] theorem State.onTask_images (s : State) (i : Nat) (f : Task → Task) : (s.onTask i f).images = s.images := rfl
@[simp] theorem State.onTask_saveAreas (s : State) (i : Nat) (f : Task → Task) : (s.onTask i f).saveAreas = s.saveAreas := rfl
@[simp] theorem State.onTask_pendingError (s : State) (i : Nat) (f : Task → Task) : (s.onTask i f).pendingError = s.pendingError := rfl
@[simp] theorem State.onTask_reports (s : State) (i : Nat) (f : Task → Task) : (s.onTask i f).reports = s.reports := rfl
@[simp] theorem State.onTask_fabric (s : State) (i : Nat) (f : Task → Task) : (s.onTask i f).fabric = s.fabric := rfl
@[simp] theorem State.onTask_device (s : State) (i : Nat) (f : Task → Task) : (s.onTask i f).device = s.device := rfl

/-! `State.onMe` changes `tasks` alone. -/

@[simp] theorem State.onMe_agenda (s : State) (f : Task → Task) : (s.onMe f).agenda = s.agenda := rfl
@[simp] theorem State.onMe_eventsTurn (s : State) (f : Task → Task) : (s.onMe f).eventsTurn = s.eventsTurn := rfl
@[simp] theorem State.onMe_cur (s : State) (f : Task → Task) : (s.onMe f).cur = s.cur := rfl
@[simp] theorem State.onMe_fresh (s : State) (f : Task → Task) : (s.onMe f).fresh = s.fresh := rfl
@[simp] theorem State.onMe_seq (s : State) (f : Task → Task) : (s.onMe f).seq = s.seq := rfl
@[simp] theorem State.onMe_now (s : State) (f : Task → Task) : (s.onMe f).now = s.now := rfl
@[simp] theorem State.onMe_cores (s : State) (f : Task → Task) : (s.onMe f).cores = s.cores := rfl
@[simp] theorem State.onMe_clusters (s : State) (f : Task → Task) : (s.onMe f).clusters = s.clusters := rfl
@[simp] theorem State.onMe_spad (s : State) (f : Task → Task) : (s.onMe f).spad = s.spad := rfl
@[simp] theorem State.onMe_tags (s : State) (f : Task → Task) : (s.onMe f).tags = s.tags := rfl
@[simp] theorem State.onMe_bank (s : State) (f : Task → Task) : (s.onMe f).bank = s.bank := rfl
@[simp] theorem State.onMe_nodes (s : State) (f : Task → Task) : (s.onMe f).nodes = s.nodes := rfl
@[simp] theorem State.onMe_spool (s : State) (f : Task → Task) : (s.onMe f).spool = s.spool := rfl
@[simp] theorem State.onMe_ways (s : State) (f : Task → Task) : (s.onMe f).ways = s.ways := rfl
@[simp] theorem State.onMe_leases (s : State) (f : Task → Task) : (s.onMe f).leases = s.leases := rfl
@[simp] theorem State.onMe_launches (s : State) (f : Task → Task) : (s.onMe f).launches = s.launches := rfl
@[simp] theorem State.onMe_starts (s : State) (f : Task → Task) : (s.onMe f).starts = s.starts := rfl
@[simp] theorem State.onMe_nextVer (s : State) (f : Task → Task) : (s.onMe f).nextVer = s.nextVer := rfl
@[simp] theorem State.onMe_job (s : State) (f : Task → Task) : (s.onMe f).job = s.job := rfl
@[simp] theorem State.onMe_secret (s : State) (f : Task → Task) : (s.onMe f).secret = s.secret := rfl
@[simp] theorem State.onMe_leaseKey (s : State) (f : Task → Task) : (s.onMe f).leaseKey = s.leaseKey := rfl
@[simp] theorem State.onMe_order (s : State) (f : Task → Task) : (s.onMe f).order = s.order := rfl
@[simp] theorem State.onMe_replayLog (s : State) (f : Task → Task) : (s.onMe f).replayLog = s.replayLog := rfl
@[simp] theorem State.onMe_basteReq (s : State) (f : Task → Task) : (s.onMe f).basteReq = s.basteReq := rfl
@[simp] theorem State.onMe_basted (s : State) (f : Task → Task) : (s.onMe f).basted = s.basted := rfl
@[simp] theorem State.onMe_mem (s : State) (f : Task → Task) : (s.onMe f).mem = s.mem := rfl
@[simp] theorem State.onMe_host (s : State) (f : Task → Task) : (s.onMe f).host = s.host := rfl
@[simp] theorem State.onMe_msix (s : State) (f : Task → Task) : (s.onMe f).msix = s.msix := rfl
@[simp] theorem State.onMe_marked (s : State) (f : Task → Task) : (s.onMe f).marked = s.marked := rfl
@[simp] theorem State.onMe_spoilt (s : State) (f : Task → Task) : (s.onMe f).spoilt = s.spoilt := rfl
@[simp] theorem State.onMe_walkCache (s : State) (f : Task → Task) : (s.onMe f).walkCache = s.walkCache := rfl
@[simp] theorem State.onMe_walks (s : State) (f : Task → Task) : (s.onMe f).walks = s.walks := rfl
@[simp] theorem State.onMe_faults (s : State) (f : Task → Task) : (s.onMe f).faults = s.faults := rfl
@[simp] theorem State.onMe_dumps (s : State) (f : Task → Task) : (s.onMe f).dumps = s.dumps := rfl
@[simp] theorem State.onMe_flight (s : State) (f : Task → Task) : (s.onMe f).flight = s.flight := rfl
@[simp] theorem State.onMe_stop (s : State) (f : Task → Task) : (s.onMe f).stop = s.stop := rfl
@[simp] theorem State.onMe_markers (s : State) (f : Task → Task) : (s.onMe f).markers = s.markers := rfl
@[simp] theorem State.onMe_chunkStop (s : State) (f : Task → Task) : (s.onMe f).chunkStop = s.chunkStop := rfl
@[simp] theorem State.onMe_stoppedAt (s : State) (f : Task → Task) : (s.onMe f).stoppedAt = s.stoppedAt := rfl
@[simp] theorem State.onMe_cutAt (s : State) (f : Task → Task) : (s.onMe f).cutAt = s.cutAt := rfl
@[simp] theorem State.onMe_images (s : State) (f : Task → Task) : (s.onMe f).images = s.images := rfl
@[simp] theorem State.onMe_saveAreas (s : State) (f : Task → Task) : (s.onMe f).saveAreas = s.saveAreas := rfl
@[simp] theorem State.onMe_pendingError (s : State) (f : Task → Task) : (s.onMe f).pendingError = s.pendingError := rfl
@[simp] theorem State.onMe_reports (s : State) (f : Task → Task) : (s.onMe f).reports = s.reports := rfl
@[simp] theorem State.onMe_fabric (s : State) (f : Task → Task) : (s.onMe f).fabric = s.fabric := rfl
@[simp] theorem State.onMe_device (s : State) (f : Task → Task) : (s.onMe f).device = s.device := rfl

/-! `State.onCore` changes `cores` alone. -/

@[simp] theorem State.onCore_agenda (s : State) (k : Nat) (f : Core → Core) : (s.onCore k f).agenda = s.agenda := rfl
@[simp] theorem State.onCore_eventsTurn (s : State) (k : Nat) (f : Core → Core) : (s.onCore k f).eventsTurn = s.eventsTurn := rfl
@[simp] theorem State.onCore_cur (s : State) (k : Nat) (f : Core → Core) : (s.onCore k f).cur = s.cur := rfl
@[simp] theorem State.onCore_fresh (s : State) (k : Nat) (f : Core → Core) : (s.onCore k f).fresh = s.fresh := rfl
@[simp] theorem State.onCore_seq (s : State) (k : Nat) (f : Core → Core) : (s.onCore k f).seq = s.seq := rfl
@[simp] theorem State.onCore_now (s : State) (k : Nat) (f : Core → Core) : (s.onCore k f).now = s.now := rfl
@[simp] theorem State.onCore_tasks (s : State) (k : Nat) (f : Core → Core) : (s.onCore k f).tasks = s.tasks := rfl
@[simp] theorem State.onCore_clusters (s : State) (k : Nat) (f : Core → Core) : (s.onCore k f).clusters = s.clusters := rfl
@[simp] theorem State.onCore_spad (s : State) (k : Nat) (f : Core → Core) : (s.onCore k f).spad = s.spad := rfl
@[simp] theorem State.onCore_tags (s : State) (k : Nat) (f : Core → Core) : (s.onCore k f).tags = s.tags := rfl
@[simp] theorem State.onCore_bank (s : State) (k : Nat) (f : Core → Core) : (s.onCore k f).bank = s.bank := rfl
@[simp] theorem State.onCore_nodes (s : State) (k : Nat) (f : Core → Core) : (s.onCore k f).nodes = s.nodes := rfl
@[simp] theorem State.onCore_spool (s : State) (k : Nat) (f : Core → Core) : (s.onCore k f).spool = s.spool := rfl
@[simp] theorem State.onCore_ways (s : State) (k : Nat) (f : Core → Core) : (s.onCore k f).ways = s.ways := rfl
@[simp] theorem State.onCore_leases (s : State) (k : Nat) (f : Core → Core) : (s.onCore k f).leases = s.leases := rfl
@[simp] theorem State.onCore_launches (s : State) (k : Nat) (f : Core → Core) : (s.onCore k f).launches = s.launches := rfl
@[simp] theorem State.onCore_starts (s : State) (k : Nat) (f : Core → Core) : (s.onCore k f).starts = s.starts := rfl
@[simp] theorem State.onCore_nextVer (s : State) (k : Nat) (f : Core → Core) : (s.onCore k f).nextVer = s.nextVer := rfl
@[simp] theorem State.onCore_job (s : State) (k : Nat) (f : Core → Core) : (s.onCore k f).job = s.job := rfl
@[simp] theorem State.onCore_secret (s : State) (k : Nat) (f : Core → Core) : (s.onCore k f).secret = s.secret := rfl
@[simp] theorem State.onCore_leaseKey (s : State) (k : Nat) (f : Core → Core) : (s.onCore k f).leaseKey = s.leaseKey := rfl
@[simp] theorem State.onCore_order (s : State) (k : Nat) (f : Core → Core) : (s.onCore k f).order = s.order := rfl
@[simp] theorem State.onCore_replayLog (s : State) (k : Nat) (f : Core → Core) : (s.onCore k f).replayLog = s.replayLog := rfl
@[simp] theorem State.onCore_basteReq (s : State) (k : Nat) (f : Core → Core) : (s.onCore k f).basteReq = s.basteReq := rfl
@[simp] theorem State.onCore_basted (s : State) (k : Nat) (f : Core → Core) : (s.onCore k f).basted = s.basted := rfl
@[simp] theorem State.onCore_mem (s : State) (k : Nat) (f : Core → Core) : (s.onCore k f).mem = s.mem := rfl
@[simp] theorem State.onCore_host (s : State) (k : Nat) (f : Core → Core) : (s.onCore k f).host = s.host := rfl
@[simp] theorem State.onCore_msix (s : State) (k : Nat) (f : Core → Core) : (s.onCore k f).msix = s.msix := rfl
@[simp] theorem State.onCore_marked (s : State) (k : Nat) (f : Core → Core) : (s.onCore k f).marked = s.marked := rfl
@[simp] theorem State.onCore_spoilt (s : State) (k : Nat) (f : Core → Core) : (s.onCore k f).spoilt = s.spoilt := rfl
@[simp] theorem State.onCore_walkCache (s : State) (k : Nat) (f : Core → Core) : (s.onCore k f).walkCache = s.walkCache := rfl
@[simp] theorem State.onCore_walks (s : State) (k : Nat) (f : Core → Core) : (s.onCore k f).walks = s.walks := rfl
@[simp] theorem State.onCore_faults (s : State) (k : Nat) (f : Core → Core) : (s.onCore k f).faults = s.faults := rfl
@[simp] theorem State.onCore_dumps (s : State) (k : Nat) (f : Core → Core) : (s.onCore k f).dumps = s.dumps := rfl
@[simp] theorem State.onCore_flight (s : State) (k : Nat) (f : Core → Core) : (s.onCore k f).flight = s.flight := rfl
@[simp] theorem State.onCore_stop (s : State) (k : Nat) (f : Core → Core) : (s.onCore k f).stop = s.stop := rfl
@[simp] theorem State.onCore_markers (s : State) (k : Nat) (f : Core → Core) : (s.onCore k f).markers = s.markers := rfl
@[simp] theorem State.onCore_chunkStop (s : State) (k : Nat) (f : Core → Core) : (s.onCore k f).chunkStop = s.chunkStop := rfl
@[simp] theorem State.onCore_stoppedAt (s : State) (k : Nat) (f : Core → Core) : (s.onCore k f).stoppedAt = s.stoppedAt := rfl
@[simp] theorem State.onCore_cutAt (s : State) (k : Nat) (f : Core → Core) : (s.onCore k f).cutAt = s.cutAt := rfl
@[simp] theorem State.onCore_images (s : State) (k : Nat) (f : Core → Core) : (s.onCore k f).images = s.images := rfl
@[simp] theorem State.onCore_saveAreas (s : State) (k : Nat) (f : Core → Core) : (s.onCore k f).saveAreas = s.saveAreas := rfl
@[simp] theorem State.onCore_pendingError (s : State) (k : Nat) (f : Core → Core) : (s.onCore k f).pendingError = s.pendingError := rfl
@[simp] theorem State.onCore_reports (s : State) (k : Nat) (f : Core → Core) : (s.onCore k f).reports = s.reports := rfl
@[simp] theorem State.onCore_fabric (s : State) (k : Nat) (f : Core → Core) : (s.onCore k f).fabric = s.fabric := rfl
@[simp] theorem State.onCore_device (s : State) (k : Nat) (f : Core → Core) : (s.onCore k f).device = s.device := rfl

/-! `State.onCluster` changes `clusters` alone. -/

@[simp] theorem State.onCluster_agenda (s : State) (p : Nat) (f : Cluster → Cluster) : (s.onCluster p f).agenda = s.agenda := rfl
@[simp] theorem State.onCluster_eventsTurn (s : State) (p : Nat) (f : Cluster → Cluster) : (s.onCluster p f).eventsTurn = s.eventsTurn := rfl
@[simp] theorem State.onCluster_cur (s : State) (p : Nat) (f : Cluster → Cluster) : (s.onCluster p f).cur = s.cur := rfl
@[simp] theorem State.onCluster_fresh (s : State) (p : Nat) (f : Cluster → Cluster) : (s.onCluster p f).fresh = s.fresh := rfl
@[simp] theorem State.onCluster_seq (s : State) (p : Nat) (f : Cluster → Cluster) : (s.onCluster p f).seq = s.seq := rfl
@[simp] theorem State.onCluster_now (s : State) (p : Nat) (f : Cluster → Cluster) : (s.onCluster p f).now = s.now := rfl
@[simp] theorem State.onCluster_tasks (s : State) (p : Nat) (f : Cluster → Cluster) : (s.onCluster p f).tasks = s.tasks := rfl
@[simp] theorem State.onCluster_cores (s : State) (p : Nat) (f : Cluster → Cluster) : (s.onCluster p f).cores = s.cores := rfl
@[simp] theorem State.onCluster_spad (s : State) (p : Nat) (f : Cluster → Cluster) : (s.onCluster p f).spad = s.spad := rfl
@[simp] theorem State.onCluster_tags (s : State) (p : Nat) (f : Cluster → Cluster) : (s.onCluster p f).tags = s.tags := rfl
@[simp] theorem State.onCluster_bank (s : State) (p : Nat) (f : Cluster → Cluster) : (s.onCluster p f).bank = s.bank := rfl
@[simp] theorem State.onCluster_nodes (s : State) (p : Nat) (f : Cluster → Cluster) : (s.onCluster p f).nodes = s.nodes := rfl
@[simp] theorem State.onCluster_spool (s : State) (p : Nat) (f : Cluster → Cluster) : (s.onCluster p f).spool = s.spool := rfl
@[simp] theorem State.onCluster_ways (s : State) (p : Nat) (f : Cluster → Cluster) : (s.onCluster p f).ways = s.ways := rfl
@[simp] theorem State.onCluster_leases (s : State) (p : Nat) (f : Cluster → Cluster) : (s.onCluster p f).leases = s.leases := rfl
@[simp] theorem State.onCluster_launches (s : State) (p : Nat) (f : Cluster → Cluster) : (s.onCluster p f).launches = s.launches := rfl
@[simp] theorem State.onCluster_starts (s : State) (p : Nat) (f : Cluster → Cluster) : (s.onCluster p f).starts = s.starts := rfl
@[simp] theorem State.onCluster_nextVer (s : State) (p : Nat) (f : Cluster → Cluster) : (s.onCluster p f).nextVer = s.nextVer := rfl
@[simp] theorem State.onCluster_job (s : State) (p : Nat) (f : Cluster → Cluster) : (s.onCluster p f).job = s.job := rfl
@[simp] theorem State.onCluster_secret (s : State) (p : Nat) (f : Cluster → Cluster) : (s.onCluster p f).secret = s.secret := rfl
@[simp] theorem State.onCluster_leaseKey (s : State) (p : Nat) (f : Cluster → Cluster) : (s.onCluster p f).leaseKey = s.leaseKey := rfl
@[simp] theorem State.onCluster_order (s : State) (p : Nat) (f : Cluster → Cluster) : (s.onCluster p f).order = s.order := rfl
@[simp] theorem State.onCluster_replayLog (s : State) (p : Nat) (f : Cluster → Cluster) : (s.onCluster p f).replayLog = s.replayLog := rfl
@[simp] theorem State.onCluster_basteReq (s : State) (p : Nat) (f : Cluster → Cluster) : (s.onCluster p f).basteReq = s.basteReq := rfl
@[simp] theorem State.onCluster_basted (s : State) (p : Nat) (f : Cluster → Cluster) : (s.onCluster p f).basted = s.basted := rfl
@[simp] theorem State.onCluster_mem (s : State) (p : Nat) (f : Cluster → Cluster) : (s.onCluster p f).mem = s.mem := rfl
@[simp] theorem State.onCluster_host (s : State) (p : Nat) (f : Cluster → Cluster) : (s.onCluster p f).host = s.host := rfl
@[simp] theorem State.onCluster_msix (s : State) (p : Nat) (f : Cluster → Cluster) : (s.onCluster p f).msix = s.msix := rfl
@[simp] theorem State.onCluster_marked (s : State) (p : Nat) (f : Cluster → Cluster) : (s.onCluster p f).marked = s.marked := rfl
@[simp] theorem State.onCluster_spoilt (s : State) (p : Nat) (f : Cluster → Cluster) : (s.onCluster p f).spoilt = s.spoilt := rfl
@[simp] theorem State.onCluster_walkCache (s : State) (p : Nat) (f : Cluster → Cluster) : (s.onCluster p f).walkCache = s.walkCache := rfl
@[simp] theorem State.onCluster_walks (s : State) (p : Nat) (f : Cluster → Cluster) : (s.onCluster p f).walks = s.walks := rfl
@[simp] theorem State.onCluster_faults (s : State) (p : Nat) (f : Cluster → Cluster) : (s.onCluster p f).faults = s.faults := rfl
@[simp] theorem State.onCluster_dumps (s : State) (p : Nat) (f : Cluster → Cluster) : (s.onCluster p f).dumps = s.dumps := rfl
@[simp] theorem State.onCluster_flight (s : State) (p : Nat) (f : Cluster → Cluster) : (s.onCluster p f).flight = s.flight := rfl
@[simp] theorem State.onCluster_stop (s : State) (p : Nat) (f : Cluster → Cluster) : (s.onCluster p f).stop = s.stop := rfl
@[simp] theorem State.onCluster_markers (s : State) (p : Nat) (f : Cluster → Cluster) : (s.onCluster p f).markers = s.markers := rfl
@[simp] theorem State.onCluster_chunkStop (s : State) (p : Nat) (f : Cluster → Cluster) : (s.onCluster p f).chunkStop = s.chunkStop := rfl
@[simp] theorem State.onCluster_stoppedAt (s : State) (p : Nat) (f : Cluster → Cluster) : (s.onCluster p f).stoppedAt = s.stoppedAt := rfl
@[simp] theorem State.onCluster_cutAt (s : State) (p : Nat) (f : Cluster → Cluster) : (s.onCluster p f).cutAt = s.cutAt := rfl
@[simp] theorem State.onCluster_images (s : State) (p : Nat) (f : Cluster → Cluster) : (s.onCluster p f).images = s.images := rfl
@[simp] theorem State.onCluster_saveAreas (s : State) (p : Nat) (f : Cluster → Cluster) : (s.onCluster p f).saveAreas = s.saveAreas := rfl
@[simp] theorem State.onCluster_pendingError (s : State) (p : Nat) (f : Cluster → Cluster) : (s.onCluster p f).pendingError = s.pendingError := rfl
@[simp] theorem State.onCluster_reports (s : State) (p : Nat) (f : Cluster → Cluster) : (s.onCluster p f).reports = s.reports := rfl
@[simp] theorem State.onCluster_fabric (s : State) (p : Nat) (f : Cluster → Cluster) : (s.onCluster p f).fabric = s.fabric := rfl
@[simp] theorem State.onCluster_device (s : State) (p : Nat) (f : Cluster → Cluster) : (s.onCluster p f).device = s.device := rfl

/-! `State.onLease` changes `leases` alone. -/

@[simp] theorem State.onLease_agenda (s : State) (i : Nat) (f : Lease → Lease) : (s.onLease i f).agenda = s.agenda := rfl
@[simp] theorem State.onLease_eventsTurn (s : State) (i : Nat) (f : Lease → Lease) : (s.onLease i f).eventsTurn = s.eventsTurn := rfl
@[simp] theorem State.onLease_cur (s : State) (i : Nat) (f : Lease → Lease) : (s.onLease i f).cur = s.cur := rfl
@[simp] theorem State.onLease_fresh (s : State) (i : Nat) (f : Lease → Lease) : (s.onLease i f).fresh = s.fresh := rfl
@[simp] theorem State.onLease_seq (s : State) (i : Nat) (f : Lease → Lease) : (s.onLease i f).seq = s.seq := rfl
@[simp] theorem State.onLease_now (s : State) (i : Nat) (f : Lease → Lease) : (s.onLease i f).now = s.now := rfl
@[simp] theorem State.onLease_tasks (s : State) (i : Nat) (f : Lease → Lease) : (s.onLease i f).tasks = s.tasks := rfl
@[simp] theorem State.onLease_cores (s : State) (i : Nat) (f : Lease → Lease) : (s.onLease i f).cores = s.cores := rfl
@[simp] theorem State.onLease_clusters (s : State) (i : Nat) (f : Lease → Lease) : (s.onLease i f).clusters = s.clusters := rfl
@[simp] theorem State.onLease_spad (s : State) (i : Nat) (f : Lease → Lease) : (s.onLease i f).spad = s.spad := rfl
@[simp] theorem State.onLease_tags (s : State) (i : Nat) (f : Lease → Lease) : (s.onLease i f).tags = s.tags := rfl
@[simp] theorem State.onLease_bank (s : State) (i : Nat) (f : Lease → Lease) : (s.onLease i f).bank = s.bank := rfl
@[simp] theorem State.onLease_nodes (s : State) (i : Nat) (f : Lease → Lease) : (s.onLease i f).nodes = s.nodes := rfl
@[simp] theorem State.onLease_spool (s : State) (i : Nat) (f : Lease → Lease) : (s.onLease i f).spool = s.spool := rfl
@[simp] theorem State.onLease_ways (s : State) (i : Nat) (f : Lease → Lease) : (s.onLease i f).ways = s.ways := rfl
@[simp] theorem State.onLease_launches (s : State) (i : Nat) (f : Lease → Lease) : (s.onLease i f).launches = s.launches := rfl
@[simp] theorem State.onLease_starts (s : State) (i : Nat) (f : Lease → Lease) : (s.onLease i f).starts = s.starts := rfl
@[simp] theorem State.onLease_nextVer (s : State) (i : Nat) (f : Lease → Lease) : (s.onLease i f).nextVer = s.nextVer := rfl
@[simp] theorem State.onLease_job (s : State) (i : Nat) (f : Lease → Lease) : (s.onLease i f).job = s.job := rfl
@[simp] theorem State.onLease_secret (s : State) (i : Nat) (f : Lease → Lease) : (s.onLease i f).secret = s.secret := rfl
@[simp] theorem State.onLease_leaseKey (s : State) (i : Nat) (f : Lease → Lease) : (s.onLease i f).leaseKey = s.leaseKey := rfl
@[simp] theorem State.onLease_order (s : State) (i : Nat) (f : Lease → Lease) : (s.onLease i f).order = s.order := rfl
@[simp] theorem State.onLease_replayLog (s : State) (i : Nat) (f : Lease → Lease) : (s.onLease i f).replayLog = s.replayLog := rfl
@[simp] theorem State.onLease_basteReq (s : State) (i : Nat) (f : Lease → Lease) : (s.onLease i f).basteReq = s.basteReq := rfl
@[simp] theorem State.onLease_basted (s : State) (i : Nat) (f : Lease → Lease) : (s.onLease i f).basted = s.basted := rfl
@[simp] theorem State.onLease_mem (s : State) (i : Nat) (f : Lease → Lease) : (s.onLease i f).mem = s.mem := rfl
@[simp] theorem State.onLease_host (s : State) (i : Nat) (f : Lease → Lease) : (s.onLease i f).host = s.host := rfl
@[simp] theorem State.onLease_msix (s : State) (i : Nat) (f : Lease → Lease) : (s.onLease i f).msix = s.msix := rfl
@[simp] theorem State.onLease_marked (s : State) (i : Nat) (f : Lease → Lease) : (s.onLease i f).marked = s.marked := rfl
@[simp] theorem State.onLease_spoilt (s : State) (i : Nat) (f : Lease → Lease) : (s.onLease i f).spoilt = s.spoilt := rfl
@[simp] theorem State.onLease_walkCache (s : State) (i : Nat) (f : Lease → Lease) : (s.onLease i f).walkCache = s.walkCache := rfl
@[simp] theorem State.onLease_walks (s : State) (i : Nat) (f : Lease → Lease) : (s.onLease i f).walks = s.walks := rfl
@[simp] theorem State.onLease_faults (s : State) (i : Nat) (f : Lease → Lease) : (s.onLease i f).faults = s.faults := rfl
@[simp] theorem State.onLease_dumps (s : State) (i : Nat) (f : Lease → Lease) : (s.onLease i f).dumps = s.dumps := rfl
@[simp] theorem State.onLease_flight (s : State) (i : Nat) (f : Lease → Lease) : (s.onLease i f).flight = s.flight := rfl
@[simp] theorem State.onLease_stop (s : State) (i : Nat) (f : Lease → Lease) : (s.onLease i f).stop = s.stop := rfl
@[simp] theorem State.onLease_markers (s : State) (i : Nat) (f : Lease → Lease) : (s.onLease i f).markers = s.markers := rfl
@[simp] theorem State.onLease_chunkStop (s : State) (i : Nat) (f : Lease → Lease) : (s.onLease i f).chunkStop = s.chunkStop := rfl
@[simp] theorem State.onLease_stoppedAt (s : State) (i : Nat) (f : Lease → Lease) : (s.onLease i f).stoppedAt = s.stoppedAt := rfl
@[simp] theorem State.onLease_cutAt (s : State) (i : Nat) (f : Lease → Lease) : (s.onLease i f).cutAt = s.cutAt := rfl
@[simp] theorem State.onLease_images (s : State) (i : Nat) (f : Lease → Lease) : (s.onLease i f).images = s.images := rfl
@[simp] theorem State.onLease_saveAreas (s : State) (i : Nat) (f : Lease → Lease) : (s.onLease i f).saveAreas = s.saveAreas := rfl
@[simp] theorem State.onLease_pendingError (s : State) (i : Nat) (f : Lease → Lease) : (s.onLease i f).pendingError = s.pendingError := rfl
@[simp] theorem State.onLease_reports (s : State) (i : Nat) (f : Lease → Lease) : (s.onLease i f).reports = s.reports := rfl
@[simp] theorem State.onLease_fabric (s : State) (i : Nat) (f : Lease → Lease) : (s.onLease i f).fabric = s.fabric := rfl
@[simp] theorem State.onLease_device (s : State) (i : Nat) (f : Lease → Lease) : (s.onLease i f).device = s.device := rfl

/-! `State.setEntry` changes `spool` alone. -/

@[simp] theorem State.setEntry_agenda (s : State) (k : Nat) (e : Entry) : (s.setEntry k e).agenda = s.agenda := rfl
@[simp] theorem State.setEntry_eventsTurn (s : State) (k : Nat) (e : Entry) : (s.setEntry k e).eventsTurn = s.eventsTurn := rfl
@[simp] theorem State.setEntry_cur (s : State) (k : Nat) (e : Entry) : (s.setEntry k e).cur = s.cur := rfl
@[simp] theorem State.setEntry_fresh (s : State) (k : Nat) (e : Entry) : (s.setEntry k e).fresh = s.fresh := rfl
@[simp] theorem State.setEntry_seq (s : State) (k : Nat) (e : Entry) : (s.setEntry k e).seq = s.seq := rfl
@[simp] theorem State.setEntry_now (s : State) (k : Nat) (e : Entry) : (s.setEntry k e).now = s.now := rfl
@[simp] theorem State.setEntry_tasks (s : State) (k : Nat) (e : Entry) : (s.setEntry k e).tasks = s.tasks := rfl
@[simp] theorem State.setEntry_cores (s : State) (k : Nat) (e : Entry) : (s.setEntry k e).cores = s.cores := rfl
@[simp] theorem State.setEntry_clusters (s : State) (k : Nat) (e : Entry) : (s.setEntry k e).clusters = s.clusters := rfl
@[simp] theorem State.setEntry_spad (s : State) (k : Nat) (e : Entry) : (s.setEntry k e).spad = s.spad := rfl
@[simp] theorem State.setEntry_tags (s : State) (k : Nat) (e : Entry) : (s.setEntry k e).tags = s.tags := rfl
@[simp] theorem State.setEntry_bank (s : State) (k : Nat) (e : Entry) : (s.setEntry k e).bank = s.bank := rfl
@[simp] theorem State.setEntry_nodes (s : State) (k : Nat) (e : Entry) : (s.setEntry k e).nodes = s.nodes := rfl
@[simp] theorem State.setEntry_ways (s : State) (k : Nat) (e : Entry) : (s.setEntry k e).ways = s.ways := rfl
@[simp] theorem State.setEntry_leases (s : State) (k : Nat) (e : Entry) : (s.setEntry k e).leases = s.leases := rfl
@[simp] theorem State.setEntry_launches (s : State) (k : Nat) (e : Entry) : (s.setEntry k e).launches = s.launches := rfl
@[simp] theorem State.setEntry_starts (s : State) (k : Nat) (e : Entry) : (s.setEntry k e).starts = s.starts := rfl
@[simp] theorem State.setEntry_nextVer (s : State) (k : Nat) (e : Entry) : (s.setEntry k e).nextVer = s.nextVer := rfl
@[simp] theorem State.setEntry_job (s : State) (k : Nat) (e : Entry) : (s.setEntry k e).job = s.job := rfl
@[simp] theorem State.setEntry_secret (s : State) (k : Nat) (e : Entry) : (s.setEntry k e).secret = s.secret := rfl
@[simp] theorem State.setEntry_leaseKey (s : State) (k : Nat) (e : Entry) : (s.setEntry k e).leaseKey = s.leaseKey := rfl
@[simp] theorem State.setEntry_order (s : State) (k : Nat) (e : Entry) : (s.setEntry k e).order = s.order := rfl
@[simp] theorem State.setEntry_replayLog (s : State) (k : Nat) (e : Entry) : (s.setEntry k e).replayLog = s.replayLog := rfl
@[simp] theorem State.setEntry_basteReq (s : State) (k : Nat) (e : Entry) : (s.setEntry k e).basteReq = s.basteReq := rfl
@[simp] theorem State.setEntry_basted (s : State) (k : Nat) (e : Entry) : (s.setEntry k e).basted = s.basted := rfl
@[simp] theorem State.setEntry_mem (s : State) (k : Nat) (e : Entry) : (s.setEntry k e).mem = s.mem := rfl
@[simp] theorem State.setEntry_host (s : State) (k : Nat) (e : Entry) : (s.setEntry k e).host = s.host := rfl
@[simp] theorem State.setEntry_msix (s : State) (k : Nat) (e : Entry) : (s.setEntry k e).msix = s.msix := rfl
@[simp] theorem State.setEntry_marked (s : State) (k : Nat) (e : Entry) : (s.setEntry k e).marked = s.marked := rfl
@[simp] theorem State.setEntry_spoilt (s : State) (k : Nat) (e : Entry) : (s.setEntry k e).spoilt = s.spoilt := rfl
@[simp] theorem State.setEntry_walkCache (s : State) (k : Nat) (e : Entry) : (s.setEntry k e).walkCache = s.walkCache := rfl
@[simp] theorem State.setEntry_walks (s : State) (k : Nat) (e : Entry) : (s.setEntry k e).walks = s.walks := rfl
@[simp] theorem State.setEntry_faults (s : State) (k : Nat) (e : Entry) : (s.setEntry k e).faults = s.faults := rfl
@[simp] theorem State.setEntry_dumps (s : State) (k : Nat) (e : Entry) : (s.setEntry k e).dumps = s.dumps := rfl
@[simp] theorem State.setEntry_flight (s : State) (k : Nat) (e : Entry) : (s.setEntry k e).flight = s.flight := rfl
@[simp] theorem State.setEntry_stop (s : State) (k : Nat) (e : Entry) : (s.setEntry k e).stop = s.stop := rfl
@[simp] theorem State.setEntry_markers (s : State) (k : Nat) (e : Entry) : (s.setEntry k e).markers = s.markers := rfl
@[simp] theorem State.setEntry_chunkStop (s : State) (k : Nat) (e : Entry) : (s.setEntry k e).chunkStop = s.chunkStop := rfl
@[simp] theorem State.setEntry_stoppedAt (s : State) (k : Nat) (e : Entry) : (s.setEntry k e).stoppedAt = s.stoppedAt := rfl
@[simp] theorem State.setEntry_cutAt (s : State) (k : Nat) (e : Entry) : (s.setEntry k e).cutAt = s.cutAt := rfl
@[simp] theorem State.setEntry_images (s : State) (k : Nat) (e : Entry) : (s.setEntry k e).images = s.images := rfl
@[simp] theorem State.setEntry_saveAreas (s : State) (k : Nat) (e : Entry) : (s.setEntry k e).saveAreas = s.saveAreas := rfl
@[simp] theorem State.setEntry_pendingError (s : State) (k : Nat) (e : Entry) : (s.setEntry k e).pendingError = s.pendingError := rfl
@[simp] theorem State.setEntry_reports (s : State) (k : Nat) (e : Entry) : (s.setEntry k e).reports = s.reports := rfl
@[simp] theorem State.setEntry_fabric (s : State) (k : Nat) (e : Entry) : (s.setEntry k e).fabric = s.fabric := rfl
@[simp] theorem State.setEntry_device (s : State) (k : Nat) (e : Entry) : (s.setEntry k e).device = s.device := rfl

/-! `State.onNode` changes `nodes` alone. -/

@[simp] theorem State.onNode_agenda (s : State) (k : Nat) (f : Node → Node) : (s.onNode k f).agenda = s.agenda := rfl
@[simp] theorem State.onNode_eventsTurn (s : State) (k : Nat) (f : Node → Node) : (s.onNode k f).eventsTurn = s.eventsTurn := rfl
@[simp] theorem State.onNode_cur (s : State) (k : Nat) (f : Node → Node) : (s.onNode k f).cur = s.cur := rfl
@[simp] theorem State.onNode_fresh (s : State) (k : Nat) (f : Node → Node) : (s.onNode k f).fresh = s.fresh := rfl
@[simp] theorem State.onNode_seq (s : State) (k : Nat) (f : Node → Node) : (s.onNode k f).seq = s.seq := rfl
@[simp] theorem State.onNode_now (s : State) (k : Nat) (f : Node → Node) : (s.onNode k f).now = s.now := rfl
@[simp] theorem State.onNode_tasks (s : State) (k : Nat) (f : Node → Node) : (s.onNode k f).tasks = s.tasks := rfl
@[simp] theorem State.onNode_cores (s : State) (k : Nat) (f : Node → Node) : (s.onNode k f).cores = s.cores := rfl
@[simp] theorem State.onNode_clusters (s : State) (k : Nat) (f : Node → Node) : (s.onNode k f).clusters = s.clusters := rfl
@[simp] theorem State.onNode_spad (s : State) (k : Nat) (f : Node → Node) : (s.onNode k f).spad = s.spad := rfl
@[simp] theorem State.onNode_tags (s : State) (k : Nat) (f : Node → Node) : (s.onNode k f).tags = s.tags := rfl
@[simp] theorem State.onNode_bank (s : State) (k : Nat) (f : Node → Node) : (s.onNode k f).bank = s.bank := rfl
@[simp] theorem State.onNode_spool (s : State) (k : Nat) (f : Node → Node) : (s.onNode k f).spool = s.spool := rfl
@[simp] theorem State.onNode_ways (s : State) (k : Nat) (f : Node → Node) : (s.onNode k f).ways = s.ways := rfl
@[simp] theorem State.onNode_leases (s : State) (k : Nat) (f : Node → Node) : (s.onNode k f).leases = s.leases := rfl
@[simp] theorem State.onNode_launches (s : State) (k : Nat) (f : Node → Node) : (s.onNode k f).launches = s.launches := rfl
@[simp] theorem State.onNode_starts (s : State) (k : Nat) (f : Node → Node) : (s.onNode k f).starts = s.starts := rfl
@[simp] theorem State.onNode_nextVer (s : State) (k : Nat) (f : Node → Node) : (s.onNode k f).nextVer = s.nextVer := rfl
@[simp] theorem State.onNode_job (s : State) (k : Nat) (f : Node → Node) : (s.onNode k f).job = s.job := rfl
@[simp] theorem State.onNode_secret (s : State) (k : Nat) (f : Node → Node) : (s.onNode k f).secret = s.secret := rfl
@[simp] theorem State.onNode_leaseKey (s : State) (k : Nat) (f : Node → Node) : (s.onNode k f).leaseKey = s.leaseKey := rfl
@[simp] theorem State.onNode_order (s : State) (k : Nat) (f : Node → Node) : (s.onNode k f).order = s.order := rfl
@[simp] theorem State.onNode_replayLog (s : State) (k : Nat) (f : Node → Node) : (s.onNode k f).replayLog = s.replayLog := rfl
@[simp] theorem State.onNode_basteReq (s : State) (k : Nat) (f : Node → Node) : (s.onNode k f).basteReq = s.basteReq := rfl
@[simp] theorem State.onNode_basted (s : State) (k : Nat) (f : Node → Node) : (s.onNode k f).basted = s.basted := rfl
@[simp] theorem State.onNode_mem (s : State) (k : Nat) (f : Node → Node) : (s.onNode k f).mem = s.mem := rfl
@[simp] theorem State.onNode_host (s : State) (k : Nat) (f : Node → Node) : (s.onNode k f).host = s.host := rfl
@[simp] theorem State.onNode_msix (s : State) (k : Nat) (f : Node → Node) : (s.onNode k f).msix = s.msix := rfl
@[simp] theorem State.onNode_marked (s : State) (k : Nat) (f : Node → Node) : (s.onNode k f).marked = s.marked := rfl
@[simp] theorem State.onNode_spoilt (s : State) (k : Nat) (f : Node → Node) : (s.onNode k f).spoilt = s.spoilt := rfl
@[simp] theorem State.onNode_walkCache (s : State) (k : Nat) (f : Node → Node) : (s.onNode k f).walkCache = s.walkCache := rfl
@[simp] theorem State.onNode_walks (s : State) (k : Nat) (f : Node → Node) : (s.onNode k f).walks = s.walks := rfl
@[simp] theorem State.onNode_faults (s : State) (k : Nat) (f : Node → Node) : (s.onNode k f).faults = s.faults := rfl
@[simp] theorem State.onNode_dumps (s : State) (k : Nat) (f : Node → Node) : (s.onNode k f).dumps = s.dumps := rfl
@[simp] theorem State.onNode_flight (s : State) (k : Nat) (f : Node → Node) : (s.onNode k f).flight = s.flight := rfl
@[simp] theorem State.onNode_stop (s : State) (k : Nat) (f : Node → Node) : (s.onNode k f).stop = s.stop := rfl
@[simp] theorem State.onNode_markers (s : State) (k : Nat) (f : Node → Node) : (s.onNode k f).markers = s.markers := rfl
@[simp] theorem State.onNode_chunkStop (s : State) (k : Nat) (f : Node → Node) : (s.onNode k f).chunkStop = s.chunkStop := rfl
@[simp] theorem State.onNode_stoppedAt (s : State) (k : Nat) (f : Node → Node) : (s.onNode k f).stoppedAt = s.stoppedAt := rfl
@[simp] theorem State.onNode_cutAt (s : State) (k : Nat) (f : Node → Node) : (s.onNode k f).cutAt = s.cutAt := rfl
@[simp] theorem State.onNode_images (s : State) (k : Nat) (f : Node → Node) : (s.onNode k f).images = s.images := rfl
@[simp] theorem State.onNode_saveAreas (s : State) (k : Nat) (f : Node → Node) : (s.onNode k f).saveAreas = s.saveAreas := rfl
@[simp] theorem State.onNode_pendingError (s : State) (k : Nat) (f : Node → Node) : (s.onNode k f).pendingError = s.pendingError := rfl
@[simp] theorem State.onNode_reports (s : State) (k : Nat) (f : Node → Node) : (s.onNode k f).reports = s.reports := rfl
@[simp] theorem State.onNode_fabric (s : State) (k : Nat) (f : Node → Node) : (s.onNode k f).fabric = s.fabric := rfl
@[simp] theorem State.onNode_device (s : State) (k : Nat) (f : Node → Node) : (s.onNode k f).device = s.device := rfl

/-! `State.setTag` changes `tags` alone. -/

@[simp] theorem State.setTag_agenda (s : State) (a : Nat) (x y : Bool) : (s.setTag a x y).agenda = s.agenda := rfl
@[simp] theorem State.setTag_eventsTurn (s : State) (a : Nat) (x y : Bool) : (s.setTag a x y).eventsTurn = s.eventsTurn := rfl
@[simp] theorem State.setTag_cur (s : State) (a : Nat) (x y : Bool) : (s.setTag a x y).cur = s.cur := rfl
@[simp] theorem State.setTag_fresh (s : State) (a : Nat) (x y : Bool) : (s.setTag a x y).fresh = s.fresh := rfl
@[simp] theorem State.setTag_seq (s : State) (a : Nat) (x y : Bool) : (s.setTag a x y).seq = s.seq := rfl
@[simp] theorem State.setTag_now (s : State) (a : Nat) (x y : Bool) : (s.setTag a x y).now = s.now := rfl
@[simp] theorem State.setTag_tasks (s : State) (a : Nat) (x y : Bool) : (s.setTag a x y).tasks = s.tasks := rfl
@[simp] theorem State.setTag_cores (s : State) (a : Nat) (x y : Bool) : (s.setTag a x y).cores = s.cores := rfl
@[simp] theorem State.setTag_clusters (s : State) (a : Nat) (x y : Bool) : (s.setTag a x y).clusters = s.clusters := rfl
@[simp] theorem State.setTag_spad (s : State) (a : Nat) (x y : Bool) : (s.setTag a x y).spad = s.spad := rfl
@[simp] theorem State.setTag_bank (s : State) (a : Nat) (x y : Bool) : (s.setTag a x y).bank = s.bank := rfl
@[simp] theorem State.setTag_nodes (s : State) (a : Nat) (x y : Bool) : (s.setTag a x y).nodes = s.nodes := rfl
@[simp] theorem State.setTag_spool (s : State) (a : Nat) (x y : Bool) : (s.setTag a x y).spool = s.spool := rfl
@[simp] theorem State.setTag_ways (s : State) (a : Nat) (x y : Bool) : (s.setTag a x y).ways = s.ways := rfl
@[simp] theorem State.setTag_leases (s : State) (a : Nat) (x y : Bool) : (s.setTag a x y).leases = s.leases := rfl
@[simp] theorem State.setTag_launches (s : State) (a : Nat) (x y : Bool) : (s.setTag a x y).launches = s.launches := rfl
@[simp] theorem State.setTag_starts (s : State) (a : Nat) (x y : Bool) : (s.setTag a x y).starts = s.starts := rfl
@[simp] theorem State.setTag_nextVer (s : State) (a : Nat) (x y : Bool) : (s.setTag a x y).nextVer = s.nextVer := rfl
@[simp] theorem State.setTag_job (s : State) (a : Nat) (x y : Bool) : (s.setTag a x y).job = s.job := rfl
@[simp] theorem State.setTag_secret (s : State) (a : Nat) (x y : Bool) : (s.setTag a x y).secret = s.secret := rfl
@[simp] theorem State.setTag_leaseKey (s : State) (a : Nat) (x y : Bool) : (s.setTag a x y).leaseKey = s.leaseKey := rfl
@[simp] theorem State.setTag_order (s : State) (a : Nat) (x y : Bool) : (s.setTag a x y).order = s.order := rfl
@[simp] theorem State.setTag_replayLog (s : State) (a : Nat) (x y : Bool) : (s.setTag a x y).replayLog = s.replayLog := rfl
@[simp] theorem State.setTag_basteReq (s : State) (a : Nat) (x y : Bool) : (s.setTag a x y).basteReq = s.basteReq := rfl
@[simp] theorem State.setTag_basted (s : State) (a : Nat) (x y : Bool) : (s.setTag a x y).basted = s.basted := rfl
@[simp] theorem State.setTag_mem (s : State) (a : Nat) (x y : Bool) : (s.setTag a x y).mem = s.mem := rfl
@[simp] theorem State.setTag_host (s : State) (a : Nat) (x y : Bool) : (s.setTag a x y).host = s.host := rfl
@[simp] theorem State.setTag_msix (s : State) (a : Nat) (x y : Bool) : (s.setTag a x y).msix = s.msix := rfl
@[simp] theorem State.setTag_marked (s : State) (a : Nat) (x y : Bool) : (s.setTag a x y).marked = s.marked := rfl
@[simp] theorem State.setTag_spoilt (s : State) (a : Nat) (x y : Bool) : (s.setTag a x y).spoilt = s.spoilt := rfl
@[simp] theorem State.setTag_walkCache (s : State) (a : Nat) (x y : Bool) : (s.setTag a x y).walkCache = s.walkCache := rfl
@[simp] theorem State.setTag_walks (s : State) (a : Nat) (x y : Bool) : (s.setTag a x y).walks = s.walks := rfl
@[simp] theorem State.setTag_faults (s : State) (a : Nat) (x y : Bool) : (s.setTag a x y).faults = s.faults := rfl
@[simp] theorem State.setTag_dumps (s : State) (a : Nat) (x y : Bool) : (s.setTag a x y).dumps = s.dumps := rfl
@[simp] theorem State.setTag_flight (s : State) (a : Nat) (x y : Bool) : (s.setTag a x y).flight = s.flight := rfl
@[simp] theorem State.setTag_stop (s : State) (a : Nat) (x y : Bool) : (s.setTag a x y).stop = s.stop := rfl
@[simp] theorem State.setTag_markers (s : State) (a : Nat) (x y : Bool) : (s.setTag a x y).markers = s.markers := rfl
@[simp] theorem State.setTag_chunkStop (s : State) (a : Nat) (x y : Bool) : (s.setTag a x y).chunkStop = s.chunkStop := rfl
@[simp] theorem State.setTag_stoppedAt (s : State) (a : Nat) (x y : Bool) : (s.setTag a x y).stoppedAt = s.stoppedAt := rfl
@[simp] theorem State.setTag_cutAt (s : State) (a : Nat) (x y : Bool) : (s.setTag a x y).cutAt = s.cutAt := rfl
@[simp] theorem State.setTag_images (s : State) (a : Nat) (x y : Bool) : (s.setTag a x y).images = s.images := rfl
@[simp] theorem State.setTag_saveAreas (s : State) (a : Nat) (x y : Bool) : (s.setTag a x y).saveAreas = s.saveAreas := rfl
@[simp] theorem State.setTag_pendingError (s : State) (a : Nat) (x y : Bool) : (s.setTag a x y).pendingError = s.pendingError := rfl
@[simp] theorem State.setTag_reports (s : State) (a : Nat) (x y : Bool) : (s.setTag a x y).reports = s.reports := rfl
@[simp] theorem State.setTag_fabric (s : State) (a : Nat) (x y : Bool) : (s.setTag a x y).fabric = s.fabric := rfl
@[simp] theorem State.setTag_device (s : State) (a : Nat) (x y : Bool) : (s.setTag a x y).device = s.device := rfl

/-! `State.freshen` changes `fresh` alone. -/

@[simp] theorem State.freshen_agenda (s : State) : (s.freshen).agenda = s.agenda := rfl
@[simp] theorem State.freshen_eventsTurn (s : State) : (s.freshen).eventsTurn = s.eventsTurn := rfl
@[simp] theorem State.freshen_cur (s : State) : (s.freshen).cur = s.cur := rfl
@[simp] theorem State.freshen_seq (s : State) : (s.freshen).seq = s.seq := rfl
@[simp] theorem State.freshen_now (s : State) : (s.freshen).now = s.now := rfl
@[simp] theorem State.freshen_tasks (s : State) : (s.freshen).tasks = s.tasks := rfl
@[simp] theorem State.freshen_cores (s : State) : (s.freshen).cores = s.cores := rfl
@[simp] theorem State.freshen_clusters (s : State) : (s.freshen).clusters = s.clusters := rfl
@[simp] theorem State.freshen_spad (s : State) : (s.freshen).spad = s.spad := rfl
@[simp] theorem State.freshen_tags (s : State) : (s.freshen).tags = s.tags := rfl
@[simp] theorem State.freshen_bank (s : State) : (s.freshen).bank = s.bank := rfl
@[simp] theorem State.freshen_nodes (s : State) : (s.freshen).nodes = s.nodes := rfl
@[simp] theorem State.freshen_spool (s : State) : (s.freshen).spool = s.spool := rfl
@[simp] theorem State.freshen_ways (s : State) : (s.freshen).ways = s.ways := rfl
@[simp] theorem State.freshen_leases (s : State) : (s.freshen).leases = s.leases := rfl
@[simp] theorem State.freshen_launches (s : State) : (s.freshen).launches = s.launches := rfl
@[simp] theorem State.freshen_starts (s : State) : (s.freshen).starts = s.starts := rfl
@[simp] theorem State.freshen_nextVer (s : State) : (s.freshen).nextVer = s.nextVer := rfl
@[simp] theorem State.freshen_job (s : State) : (s.freshen).job = s.job := rfl
@[simp] theorem State.freshen_secret (s : State) : (s.freshen).secret = s.secret := rfl
@[simp] theorem State.freshen_leaseKey (s : State) : (s.freshen).leaseKey = s.leaseKey := rfl
@[simp] theorem State.freshen_order (s : State) : (s.freshen).order = s.order := rfl
@[simp] theorem State.freshen_replayLog (s : State) : (s.freshen).replayLog = s.replayLog := rfl
@[simp] theorem State.freshen_basteReq (s : State) : (s.freshen).basteReq = s.basteReq := rfl
@[simp] theorem State.freshen_basted (s : State) : (s.freshen).basted = s.basted := rfl
@[simp] theorem State.freshen_mem (s : State) : (s.freshen).mem = s.mem := rfl
@[simp] theorem State.freshen_host (s : State) : (s.freshen).host = s.host := rfl
@[simp] theorem State.freshen_msix (s : State) : (s.freshen).msix = s.msix := rfl
@[simp] theorem State.freshen_marked (s : State) : (s.freshen).marked = s.marked := rfl
@[simp] theorem State.freshen_spoilt (s : State) : (s.freshen).spoilt = s.spoilt := rfl
@[simp] theorem State.freshen_walkCache (s : State) : (s.freshen).walkCache = s.walkCache := rfl
@[simp] theorem State.freshen_walks (s : State) : (s.freshen).walks = s.walks := rfl
@[simp] theorem State.freshen_faults (s : State) : (s.freshen).faults = s.faults := rfl
@[simp] theorem State.freshen_dumps (s : State) : (s.freshen).dumps = s.dumps := rfl
@[simp] theorem State.freshen_flight (s : State) : (s.freshen).flight = s.flight := rfl
@[simp] theorem State.freshen_stop (s : State) : (s.freshen).stop = s.stop := rfl
@[simp] theorem State.freshen_markers (s : State) : (s.freshen).markers = s.markers := rfl
@[simp] theorem State.freshen_chunkStop (s : State) : (s.freshen).chunkStop = s.chunkStop := rfl
@[simp] theorem State.freshen_stoppedAt (s : State) : (s.freshen).stoppedAt = s.stoppedAt := rfl
@[simp] theorem State.freshen_cutAt (s : State) : (s.freshen).cutAt = s.cutAt := rfl
@[simp] theorem State.freshen_images (s : State) : (s.freshen).images = s.images := rfl
@[simp] theorem State.freshen_saveAreas (s : State) : (s.freshen).saveAreas = s.saveAreas := rfl
@[simp] theorem State.freshen_pendingError (s : State) : (s.freshen).pendingError = s.pendingError := rfl
@[simp] theorem State.freshen_reports (s : State) : (s.freshen).reports = s.reports := rfl
@[simp] theorem State.freshen_fabric (s : State) : (s.freshen).fabric = s.fabric := rfl
@[simp] theorem State.freshen_device (s : State) : (s.freshen).device = s.device := rfl

/-! `State.mapCommands` changes `clusters` and `cores` alone. -/

@[simp] theorem State.mapCommands_agenda (s : State) (f : Command → Command) : (s.mapCommands f).agenda = s.agenda := rfl
@[simp] theorem State.mapCommands_eventsTurn (s : State) (f : Command → Command) : (s.mapCommands f).eventsTurn = s.eventsTurn := rfl
@[simp] theorem State.mapCommands_cur (s : State) (f : Command → Command) : (s.mapCommands f).cur = s.cur := rfl
@[simp] theorem State.mapCommands_fresh (s : State) (f : Command → Command) : (s.mapCommands f).fresh = s.fresh := rfl
@[simp] theorem State.mapCommands_seq (s : State) (f : Command → Command) : (s.mapCommands f).seq = s.seq := rfl
@[simp] theorem State.mapCommands_now (s : State) (f : Command → Command) : (s.mapCommands f).now = s.now := rfl
@[simp] theorem State.mapCommands_tasks (s : State) (f : Command → Command) : (s.mapCommands f).tasks = s.tasks := rfl
@[simp] theorem State.mapCommands_spad (s : State) (f : Command → Command) : (s.mapCommands f).spad = s.spad := rfl
@[simp] theorem State.mapCommands_tags (s : State) (f : Command → Command) : (s.mapCommands f).tags = s.tags := rfl
@[simp] theorem State.mapCommands_bank (s : State) (f : Command → Command) : (s.mapCommands f).bank = s.bank := rfl
@[simp] theorem State.mapCommands_nodes (s : State) (f : Command → Command) : (s.mapCommands f).nodes = s.nodes := rfl
@[simp] theorem State.mapCommands_spool (s : State) (f : Command → Command) : (s.mapCommands f).spool = s.spool := rfl
@[simp] theorem State.mapCommands_ways (s : State) (f : Command → Command) : (s.mapCommands f).ways = s.ways := rfl
@[simp] theorem State.mapCommands_leases (s : State) (f : Command → Command) : (s.mapCommands f).leases = s.leases := rfl
@[simp] theorem State.mapCommands_launches (s : State) (f : Command → Command) : (s.mapCommands f).launches = s.launches := rfl
@[simp] theorem State.mapCommands_starts (s : State) (f : Command → Command) : (s.mapCommands f).starts = s.starts := rfl
@[simp] theorem State.mapCommands_nextVer (s : State) (f : Command → Command) : (s.mapCommands f).nextVer = s.nextVer := rfl
@[simp] theorem State.mapCommands_job (s : State) (f : Command → Command) : (s.mapCommands f).job = s.job := rfl
@[simp] theorem State.mapCommands_secret (s : State) (f : Command → Command) : (s.mapCommands f).secret = s.secret := rfl
@[simp] theorem State.mapCommands_leaseKey (s : State) (f : Command → Command) : (s.mapCommands f).leaseKey = s.leaseKey := rfl
@[simp] theorem State.mapCommands_order (s : State) (f : Command → Command) : (s.mapCommands f).order = s.order := rfl
@[simp] theorem State.mapCommands_replayLog (s : State) (f : Command → Command) : (s.mapCommands f).replayLog = s.replayLog := rfl
@[simp] theorem State.mapCommands_basteReq (s : State) (f : Command → Command) : (s.mapCommands f).basteReq = s.basteReq := rfl
@[simp] theorem State.mapCommands_basted (s : State) (f : Command → Command) : (s.mapCommands f).basted = s.basted := rfl
@[simp] theorem State.mapCommands_mem (s : State) (f : Command → Command) : (s.mapCommands f).mem = s.mem := rfl
@[simp] theorem State.mapCommands_host (s : State) (f : Command → Command) : (s.mapCommands f).host = s.host := rfl
@[simp] theorem State.mapCommands_msix (s : State) (f : Command → Command) : (s.mapCommands f).msix = s.msix := rfl
@[simp] theorem State.mapCommands_marked (s : State) (f : Command → Command) : (s.mapCommands f).marked = s.marked := rfl
@[simp] theorem State.mapCommands_spoilt (s : State) (f : Command → Command) : (s.mapCommands f).spoilt = s.spoilt := rfl
@[simp] theorem State.mapCommands_walkCache (s : State) (f : Command → Command) : (s.mapCommands f).walkCache = s.walkCache := rfl
@[simp] theorem State.mapCommands_walks (s : State) (f : Command → Command) : (s.mapCommands f).walks = s.walks := rfl
@[simp] theorem State.mapCommands_faults (s : State) (f : Command → Command) : (s.mapCommands f).faults = s.faults := rfl
@[simp] theorem State.mapCommands_dumps (s : State) (f : Command → Command) : (s.mapCommands f).dumps = s.dumps := rfl
@[simp] theorem State.mapCommands_flight (s : State) (f : Command → Command) : (s.mapCommands f).flight = s.flight := rfl
@[simp] theorem State.mapCommands_stop (s : State) (f : Command → Command) : (s.mapCommands f).stop = s.stop := rfl
@[simp] theorem State.mapCommands_markers (s : State) (f : Command → Command) : (s.mapCommands f).markers = s.markers := rfl
@[simp] theorem State.mapCommands_chunkStop (s : State) (f : Command → Command) : (s.mapCommands f).chunkStop = s.chunkStop := rfl
@[simp] theorem State.mapCommands_stoppedAt (s : State) (f : Command → Command) : (s.mapCommands f).stoppedAt = s.stoppedAt := rfl
@[simp] theorem State.mapCommands_cutAt (s : State) (f : Command → Command) : (s.mapCommands f).cutAt = s.cutAt := rfl
@[simp] theorem State.mapCommands_images (s : State) (f : Command → Command) : (s.mapCommands f).images = s.images := rfl
@[simp] theorem State.mapCommands_saveAreas (s : State) (f : Command → Command) : (s.mapCommands f).saveAreas = s.saveAreas := rfl
@[simp] theorem State.mapCommands_pendingError (s : State) (f : Command → Command) : (s.mapCommands f).pendingError = s.pendingError := rfl
@[simp] theorem State.mapCommands_reports (s : State) (f : Command → Command) : (s.mapCommands f).reports = s.reports := rfl
@[simp] theorem State.mapCommands_fabric (s : State) (f : Command → Command) : (s.mapCommands f).fabric = s.fabric := rfl
@[simp] theorem State.mapCommands_device (s : State) (f : Command → Command) : (s.mapCommands f).device = s.device := rfl

/-! `State.onLaunch` changes `launches` alone. -/

@[simp] theorem State.onLaunch_agenda (s : State) (v : Nat) (f : Launch → Launch) : (s.onLaunch v f).agenda = s.agenda := by
  unfold State.onLaunch; split <;> rfl
@[simp] theorem State.onLaunch_eventsTurn (s : State) (v : Nat) (f : Launch → Launch) : (s.onLaunch v f).eventsTurn = s.eventsTurn := by
  unfold State.onLaunch; split <;> rfl
@[simp] theorem State.onLaunch_cur (s : State) (v : Nat) (f : Launch → Launch) : (s.onLaunch v f).cur = s.cur := by
  unfold State.onLaunch; split <;> rfl
@[simp] theorem State.onLaunch_fresh (s : State) (v : Nat) (f : Launch → Launch) : (s.onLaunch v f).fresh = s.fresh := by
  unfold State.onLaunch; split <;> rfl
@[simp] theorem State.onLaunch_seq (s : State) (v : Nat) (f : Launch → Launch) : (s.onLaunch v f).seq = s.seq := by
  unfold State.onLaunch; split <;> rfl
@[simp] theorem State.onLaunch_now (s : State) (v : Nat) (f : Launch → Launch) : (s.onLaunch v f).now = s.now := by
  unfold State.onLaunch; split <;> rfl
@[simp] theorem State.onLaunch_tasks (s : State) (v : Nat) (f : Launch → Launch) : (s.onLaunch v f).tasks = s.tasks := by
  unfold State.onLaunch; split <;> rfl
@[simp] theorem State.onLaunch_cores (s : State) (v : Nat) (f : Launch → Launch) : (s.onLaunch v f).cores = s.cores := by
  unfold State.onLaunch; split <;> rfl
@[simp] theorem State.onLaunch_clusters (s : State) (v : Nat) (f : Launch → Launch) : (s.onLaunch v f).clusters = s.clusters := by
  unfold State.onLaunch; split <;> rfl
@[simp] theorem State.onLaunch_spad (s : State) (v : Nat) (f : Launch → Launch) : (s.onLaunch v f).spad = s.spad := by
  unfold State.onLaunch; split <;> rfl
@[simp] theorem State.onLaunch_tags (s : State) (v : Nat) (f : Launch → Launch) : (s.onLaunch v f).tags = s.tags := by
  unfold State.onLaunch; split <;> rfl
@[simp] theorem State.onLaunch_bank (s : State) (v : Nat) (f : Launch → Launch) : (s.onLaunch v f).bank = s.bank := by
  unfold State.onLaunch; split <;> rfl
@[simp] theorem State.onLaunch_nodes (s : State) (v : Nat) (f : Launch → Launch) : (s.onLaunch v f).nodes = s.nodes := by
  unfold State.onLaunch; split <;> rfl
@[simp] theorem State.onLaunch_spool (s : State) (v : Nat) (f : Launch → Launch) : (s.onLaunch v f).spool = s.spool := by
  unfold State.onLaunch; split <;> rfl
@[simp] theorem State.onLaunch_ways (s : State) (v : Nat) (f : Launch → Launch) : (s.onLaunch v f).ways = s.ways := by
  unfold State.onLaunch; split <;> rfl
@[simp] theorem State.onLaunch_leases (s : State) (v : Nat) (f : Launch → Launch) : (s.onLaunch v f).leases = s.leases := by
  unfold State.onLaunch; split <;> rfl
@[simp] theorem State.onLaunch_starts (s : State) (v : Nat) (f : Launch → Launch) : (s.onLaunch v f).starts = s.starts := by
  unfold State.onLaunch; split <;> rfl
@[simp] theorem State.onLaunch_nextVer (s : State) (v : Nat) (f : Launch → Launch) : (s.onLaunch v f).nextVer = s.nextVer := by
  unfold State.onLaunch; split <;> rfl
@[simp] theorem State.onLaunch_job (s : State) (v : Nat) (f : Launch → Launch) : (s.onLaunch v f).job = s.job := by
  unfold State.onLaunch; split <;> rfl
@[simp] theorem State.onLaunch_secret (s : State) (v : Nat) (f : Launch → Launch) : (s.onLaunch v f).secret = s.secret := by
  unfold State.onLaunch; split <;> rfl
@[simp] theorem State.onLaunch_leaseKey (s : State) (v : Nat) (f : Launch → Launch) : (s.onLaunch v f).leaseKey = s.leaseKey := by
  unfold State.onLaunch; split <;> rfl
@[simp] theorem State.onLaunch_order (s : State) (v : Nat) (f : Launch → Launch) : (s.onLaunch v f).order = s.order := by
  unfold State.onLaunch; split <;> rfl
@[simp] theorem State.onLaunch_replayLog (s : State) (v : Nat) (f : Launch → Launch) : (s.onLaunch v f).replayLog = s.replayLog := by
  unfold State.onLaunch; split <;> rfl
@[simp] theorem State.onLaunch_basteReq (s : State) (v : Nat) (f : Launch → Launch) : (s.onLaunch v f).basteReq = s.basteReq := by
  unfold State.onLaunch; split <;> rfl
@[simp] theorem State.onLaunch_basted (s : State) (v : Nat) (f : Launch → Launch) : (s.onLaunch v f).basted = s.basted := by
  unfold State.onLaunch; split <;> rfl
@[simp] theorem State.onLaunch_mem (s : State) (v : Nat) (f : Launch → Launch) : (s.onLaunch v f).mem = s.mem := by
  unfold State.onLaunch; split <;> rfl
@[simp] theorem State.onLaunch_host (s : State) (v : Nat) (f : Launch → Launch) : (s.onLaunch v f).host = s.host := by
  unfold State.onLaunch; split <;> rfl
@[simp] theorem State.onLaunch_msix (s : State) (v : Nat) (f : Launch → Launch) : (s.onLaunch v f).msix = s.msix := by
  unfold State.onLaunch; split <;> rfl
@[simp] theorem State.onLaunch_marked (s : State) (v : Nat) (f : Launch → Launch) : (s.onLaunch v f).marked = s.marked := by
  unfold State.onLaunch; split <;> rfl
@[simp] theorem State.onLaunch_spoilt (s : State) (v : Nat) (f : Launch → Launch) : (s.onLaunch v f).spoilt = s.spoilt := by
  unfold State.onLaunch; split <;> rfl
@[simp] theorem State.onLaunch_walkCache (s : State) (v : Nat) (f : Launch → Launch) : (s.onLaunch v f).walkCache = s.walkCache := by
  unfold State.onLaunch; split <;> rfl
@[simp] theorem State.onLaunch_walks (s : State) (v : Nat) (f : Launch → Launch) : (s.onLaunch v f).walks = s.walks := by
  unfold State.onLaunch; split <;> rfl
@[simp] theorem State.onLaunch_faults (s : State) (v : Nat) (f : Launch → Launch) : (s.onLaunch v f).faults = s.faults := by
  unfold State.onLaunch; split <;> rfl
@[simp] theorem State.onLaunch_dumps (s : State) (v : Nat) (f : Launch → Launch) : (s.onLaunch v f).dumps = s.dumps := by
  unfold State.onLaunch; split <;> rfl
@[simp] theorem State.onLaunch_flight (s : State) (v : Nat) (f : Launch → Launch) : (s.onLaunch v f).flight = s.flight := by
  unfold State.onLaunch; split <;> rfl
@[simp] theorem State.onLaunch_stop (s : State) (v : Nat) (f : Launch → Launch) : (s.onLaunch v f).stop = s.stop := by
  unfold State.onLaunch; split <;> rfl
@[simp] theorem State.onLaunch_markers (s : State) (v : Nat) (f : Launch → Launch) : (s.onLaunch v f).markers = s.markers := by
  unfold State.onLaunch; split <;> rfl
@[simp] theorem State.onLaunch_chunkStop (s : State) (v : Nat) (f : Launch → Launch) : (s.onLaunch v f).chunkStop = s.chunkStop := by
  unfold State.onLaunch; split <;> rfl
@[simp] theorem State.onLaunch_stoppedAt (s : State) (v : Nat) (f : Launch → Launch) : (s.onLaunch v f).stoppedAt = s.stoppedAt := by
  unfold State.onLaunch; split <;> rfl
@[simp] theorem State.onLaunch_cutAt (s : State) (v : Nat) (f : Launch → Launch) : (s.onLaunch v f).cutAt = s.cutAt := by
  unfold State.onLaunch; split <;> rfl
@[simp] theorem State.onLaunch_images (s : State) (v : Nat) (f : Launch → Launch) : (s.onLaunch v f).images = s.images := by
  unfold State.onLaunch; split <;> rfl
@[simp] theorem State.onLaunch_pendingError (s : State) (v : Nat) (f : Launch → Launch) : (s.onLaunch v f).pendingError = s.pendingError := by
  unfold State.onLaunch; split <;> rfl
@[simp] theorem State.onLaunch_reports (s : State) (v : Nat) (f : Launch → Launch) : (s.onLaunch v f).reports = s.reports := by
  unfold State.onLaunch; split <;> rfl
@[simp] theorem State.onLaunch_fabric (s : State) (v : Nat) (f : Launch → Launch) : (s.onLaunch v f).fabric = s.fabric := by
  unfold State.onLaunch; split <;> rfl
@[simp] theorem State.onLaunch_device (s : State) (v : Nat) (f : Launch → Launch) : (s.onLaunch v f).device = s.device := by
  unfold State.onLaunch; split <;> rfl

/-! What the keyed accessors answer after an update. -/

@[simp] theorem State.task_setTask_self (s : State) (i : Nat) (t : Task) : (s.setTask i t).task i = t := by
  simp [State.setTask, State.task]

theorem State.task_setTask_ne (s : State) (i j : Nat) (t : Task) (h : i ≠ j) : (s.setTask i t).task j = s.task j := by
  simp [State.setTask, State.task, Store.find_put_ne _ _ _ _ h]

@[simp] theorem State.task_onTask_self (s : State) (i : Nat) (f : Task → Task) : (s.onTask i f).task i = f (s.task i) := by
  simp [State.onTask]

theorem State.task_onTask_ne (s : State) (i j : Nat) (f : Task → Task) (h : i ≠ j) : (s.onTask i f).task j = s.task j := by
  simp [State.onTask, State.task_setTask_ne _ _ _ _ h]

@[simp] theorem State.me_onMe (s : State) (f : Task → Task) : (s.onMe f).me = f s.me := by
  simp [State.me, State.onMe]

@[simp] theorem State.me_onTask_cur (s : State) (f : Task → Task) : (s.onTask s.cur f).me = f s.me := by
  simp [State.me]

theorem State.task_onMe_ne (s : State) (j : Nat) (f : Task → Task) (h : s.cur ≠ j) : (s.onMe f).task j = s.task j :=
  State.task_onTask_ne s _ j f h

@[simp] theorem State.core_onCore_self (s : State) (k : Nat) (f : Core → Core) : (s.onCore k f).core k = f (s.core k) := by
  simp [State.onCore, State.core]

theorem State.core_onCore_ne (s : State) (k j : Nat) (f : Core → Core) (h : k ≠ j) : (s.onCore k f).core j = s.core j := by
  simp [State.onCore, State.core, Store.find_put_ne _ _ _ _ h]

@[simp] theorem State.cluster_onCluster_self (s : State) (p : Nat) (f : Cluster → Cluster) :
    (s.onCluster p f).cluster p = f (s.cluster p) := by
  simp [State.onCluster, State.cluster]

theorem State.cluster_onCluster_ne (s : State) (p j : Nat) (f : Cluster → Cluster) (h : p ≠ j) :
    (s.onCluster p f).cluster j = s.cluster j := by
  simp [State.onCluster, State.cluster, Store.find_put_ne _ _ _ _ h]

@[simp] theorem State.lease_onLease_self (s : State) (i : Nat) (f : Lease → Lease) : (s.onLease i f).lease i = f (s.lease i) := by
  simp [State.onLease, State.lease]

theorem State.lease_onLease_ne (s : State) (i j : Nat) (f : Lease → Lease) (h : i ≠ j) :
    (s.onLease i f).lease j = s.lease j := by
  simp [State.onLease, State.lease, Store.find_put_ne _ _ _ _ h]

@[simp] theorem State.entry_setEntry_self (s : State) (k : Nat) (e : Entry) : (s.setEntry k e).entry k = e := by
  simp [State.setEntry, State.entry]

theorem State.entry_setEntry_ne (s : State) (k j : Nat) (e : Entry) (h : k ≠ j) : (s.setEntry k e).entry j = s.entry j := by
  simp [State.setEntry, State.entry, Store.find_put_ne _ _ _ _ h]

@[simp] theorem State.core_setTask (s : State) (i : Nat) (t : Task) (j : Nat) : (s.setTask i t).core j = s.core j := rfl
@[simp] theorem State.cluster_setTask (s : State) (i : Nat) (t : Task) (j : Nat) : (s.setTask i t).cluster j = s.cluster j := rfl
@[simp] theorem State.lease_setTask (s : State) (i : Nat) (t : Task) (j : Nat) : (s.setTask i t).lease j = s.lease j := rfl
@[simp] theorem State.entry_setTask (s : State) (i : Nat) (t : Task) (j : Nat) : (s.setTask i t).entry j = s.entry j := rfl
@[simp] theorem State.core_onTask (s : State) (i : Nat) (f : Task → Task) (j : Nat) : (s.onTask i f).core j = s.core j := rfl
@[simp] theorem State.cluster_onTask (s : State) (i : Nat) (f : Task → Task) (j : Nat) : (s.onTask i f).cluster j = s.cluster j := rfl
@[simp] theorem State.lease_onTask (s : State) (i : Nat) (f : Task → Task) (j : Nat) : (s.onTask i f).lease j = s.lease j := rfl
@[simp] theorem State.entry_onTask (s : State) (i : Nat) (f : Task → Task) (j : Nat) : (s.onTask i f).entry j = s.entry j := rfl
@[simp] theorem State.core_onMe (s : State) (f : Task → Task) (j : Nat) : (s.onMe f).core j = s.core j := rfl
@[simp] theorem State.cluster_onMe (s : State) (f : Task → Task) (j : Nat) : (s.onMe f).cluster j = s.cluster j := rfl
@[simp] theorem State.lease_onMe (s : State) (f : Task → Task) (j : Nat) : (s.onMe f).lease j = s.lease j := rfl
@[simp] theorem State.entry_onMe (s : State) (f : Task → Task) (j : Nat) : (s.onMe f).entry j = s.entry j := rfl
@[simp] theorem State.task_onCore (s : State) (k : Nat) (f : Core → Core) (j : Nat) : (s.onCore k f).task j = s.task j := rfl
@[simp] theorem State.cluster_onCore (s : State) (k : Nat) (f : Core → Core) (j : Nat) : (s.onCore k f).cluster j = s.cluster j := rfl
@[simp] theorem State.lease_onCore (s : State) (k : Nat) (f : Core → Core) (j : Nat) : (s.onCore k f).lease j = s.lease j := rfl
@[simp] theorem State.entry_onCore (s : State) (k : Nat) (f : Core → Core) (j : Nat) : (s.onCore k f).entry j = s.entry j := rfl
@[simp] theorem State.me_onCore (s : State) (k : Nat) (f : Core → Core) : (s.onCore k f).me = s.me := rfl
@[simp] theorem State.task_onCluster (s : State) (p : Nat) (f : Cluster → Cluster) (j : Nat) : (s.onCluster p f).task j = s.task j := rfl
@[simp] theorem State.core_onCluster (s : State) (p : Nat) (f : Cluster → Cluster) (j : Nat) : (s.onCluster p f).core j = s.core j := rfl
@[simp] theorem State.lease_onCluster (s : State) (p : Nat) (f : Cluster → Cluster) (j : Nat) : (s.onCluster p f).lease j = s.lease j := rfl
@[simp] theorem State.entry_onCluster (s : State) (p : Nat) (f : Cluster → Cluster) (j : Nat) : (s.onCluster p f).entry j = s.entry j := rfl
@[simp] theorem State.me_onCluster (s : State) (p : Nat) (f : Cluster → Cluster) : (s.onCluster p f).me = s.me := rfl
@[simp] theorem State.task_onLease (s : State) (i : Nat) (f : Lease → Lease) (j : Nat) : (s.onLease i f).task j = s.task j := rfl
@[simp] theorem State.core_onLease (s : State) (i : Nat) (f : Lease → Lease) (j : Nat) : (s.onLease i f).core j = s.core j := rfl
@[simp] theorem State.cluster_onLease (s : State) (i : Nat) (f : Lease → Lease) (j : Nat) : (s.onLease i f).cluster j = s.cluster j := rfl
@[simp] theorem State.entry_onLease (s : State) (i : Nat) (f : Lease → Lease) (j : Nat) : (s.onLease i f).entry j = s.entry j := rfl
@[simp] theorem State.me_onLease (s : State) (i : Nat) (f : Lease → Lease) : (s.onLease i f).me = s.me := rfl
@[simp] theorem State.task_setEntry (s : State) (k : Nat) (e : Entry) (j : Nat) : (s.setEntry k e).task j = s.task j := rfl
@[simp] theorem State.core_setEntry (s : State) (k : Nat) (e : Entry) (j : Nat) : (s.setEntry k e).core j = s.core j := rfl
@[simp] theorem State.cluster_setEntry (s : State) (k : Nat) (e : Entry) (j : Nat) : (s.setEntry k e).cluster j = s.cluster j := rfl
@[simp] theorem State.lease_setEntry (s : State) (k : Nat) (e : Entry) (j : Nat) : (s.setEntry k e).lease j = s.lease j := rfl
@[simp] theorem State.me_setEntry (s : State) (k : Nat) (e : Entry) : (s.setEntry k e).me = s.me := rfl
@[simp] theorem State.task_onNode (s : State) (k : Nat) (f : Node → Node) (j : Nat) : (s.onNode k f).task j = s.task j := rfl
@[simp] theorem State.core_onNode (s : State) (k : Nat) (f : Node → Node) (j : Nat) : (s.onNode k f).core j = s.core j := rfl
@[simp] theorem State.cluster_onNode (s : State) (k : Nat) (f : Node → Node) (j : Nat) : (s.onNode k f).cluster j = s.cluster j := rfl
@[simp] theorem State.lease_onNode (s : State) (k : Nat) (f : Node → Node) (j : Nat) : (s.onNode k f).lease j = s.lease j := rfl
@[simp] theorem State.entry_onNode (s : State) (k : Nat) (f : Node → Node) (j : Nat) : (s.onNode k f).entry j = s.entry j := rfl
@[simp] theorem State.me_onNode (s : State) (k : Nat) (f : Node → Node) : (s.onNode k f).me = s.me := rfl
@[simp] theorem State.task_setTag (s : State) (a : Nat) (x y : Bool) (j : Nat) : (s.setTag a x y).task j = s.task j := rfl
@[simp] theorem State.core_setTag (s : State) (a : Nat) (x y : Bool) (j : Nat) : (s.setTag a x y).core j = s.core j := rfl
@[simp] theorem State.cluster_setTag (s : State) (a : Nat) (x y : Bool) (j : Nat) : (s.setTag a x y).cluster j = s.cluster j := rfl
@[simp] theorem State.lease_setTag (s : State) (a : Nat) (x y : Bool) (j : Nat) : (s.setTag a x y).lease j = s.lease j := rfl
@[simp] theorem State.entry_setTag (s : State) (a : Nat) (x y : Bool) (j : Nat) : (s.setTag a x y).entry j = s.entry j := rfl
@[simp] theorem State.me_setTag (s : State) (a : Nat) (x y : Bool) : (s.setTag a x y).me = s.me := rfl
@[simp] theorem State.task_freshen (s : State) (j : Nat) : (s.freshen).task j = s.task j := rfl
@[simp] theorem State.core_freshen (s : State) (j : Nat) : (s.freshen).core j = s.core j := rfl
@[simp] theorem State.cluster_freshen (s : State) (j : Nat) : (s.freshen).cluster j = s.cluster j := rfl
@[simp] theorem State.lease_freshen (s : State) (j : Nat) : (s.freshen).lease j = s.lease j := rfl
@[simp] theorem State.entry_freshen (s : State) (j : Nat) : (s.freshen).entry j = s.entry j := rfl
@[simp] theorem State.me_freshen (s : State) : (s.freshen).me = s.me := rfl
@[simp] theorem State.task_mapCommands (s : State) (f : Command → Command) (j : Nat) : (s.mapCommands f).task j = s.task j := rfl
@[simp] theorem State.lease_mapCommands (s : State) (f : Command → Command) (j : Nat) : (s.mapCommands f).lease j = s.lease j := rfl
@[simp] theorem State.entry_mapCommands (s : State) (f : Command → Command) (j : Nat) : (s.mapCommands f).entry j = s.entry j := rfl
@[simp] theorem State.me_mapCommands (s : State) (f : Command → Command) : (s.mapCommands f).me = s.me := rfl
@[simp] theorem State.task_onLaunch (s : State) (v : Nat) (f : Launch → Launch) (j : Nat) : (s.onLaunch v f).task j = s.task j := by
  simp [State.task]
@[simp] theorem State.core_onLaunch (s : State) (v : Nat) (f : Launch → Launch) (j : Nat) : (s.onLaunch v f).core j = s.core j := by
  simp [State.core]
@[simp] theorem State.cluster_onLaunch (s : State) (v : Nat) (f : Launch → Launch) (j : Nat) : (s.onLaunch v f).cluster j = s.cluster j := by
  simp [State.cluster]
@[simp] theorem State.lease_onLaunch (s : State) (v : Nat) (f : Launch → Launch) (j : Nat) : (s.onLaunch v f).lease j = s.lease j := by
  simp [State.lease]
@[simp] theorem State.entry_onLaunch (s : State) (v : Nat) (f : Launch → Launch) (j : Nat) : (s.onLaunch v f).entry j = s.entry j := by
  simp [State.entry]
@[simp] theorem State.me_onLaunch (s : State) (v : Nat) (f : Launch → Launch) : (s.onLaunch v f).me = s.me := by
  simp [State.me]

end Sys2Proof.Machine
end

