-- ==== Sys2Proof/Laws/Issue.lean ====
section
/-! SUPPORT. The frame of every instruction, stated once: when `Ready` holds the issue is the instruction's own work, and
what the first reads, a register write and the PC's advance leave of the state. -/
namespace Sys2Proof.Machine

open Sys2Proof

theorem firstEmpty_eq_none {t : Task} {l : List (Nat × Src)} (h : ∀ x ∈ l, t.full x.2.reg = true) :
    firstEmpty t l = none := by
  induction l with
  | nil => rfl
  | cons e l ih =>
    obtain ⟨n, x⟩ := e
    have hx : t.full x.reg = true := h (n, x) (by simp)
    simp only [firstEmpty, hx, if_true]
    exact ih fun y hy => h y (by simp [hy])

/-- An outcome stands when nothing that was read is spoilt (R283). -/
theorem unspoilt_of {s : State} {rs : List Reg} {x : Res} (h : ∀ r ∈ s.me.spoiled, r ∉ rs) : unspoilt s rs x = x := by
  have h' : (s.me.spoiled.any fun r => rs.contains r) = false := by
    simp only [List.any_eq_false, List.contains_iff_mem]; exact h
  simp only [unspoilt, h', Bool.false_eq_true, if_false]

/-- A ready instruction does its own work. -/
theorem issue_ready {g : Guard} {srcs : List (Nat × Src)} {more outs : List Reg} {s : State} (work : State → Res)
    (h : Ready g srcs more outs s) : issue g srcs more outs work s = work (s.working g srcs more) := by
  obtain ⟨_, hg, hs, hm, hl, hl', ho, hp, _⟩ := h
  have h1 : emptySource s srcs = none := by
    simp only [emptySource, hl, Bool.false_eq_true, if_false, firstEmpty_eq_none hs, Option.map_none]
  have h2 : (more.find? fun r => !s.me.full r) = none := by
    simp only [List.find?_eq_none, Bool.not_eq_true', Bool.not_eq_false]; exact hm
  have h3 : outs.any (s.pendingOn s.cur) = false := by
    simp only [List.any_eq_false, Bool.not_eq_true]; exact ho
  simp only [issue, hg, h1, h2, hl', h3, Bool.or_self, Bool.false_eq_true, if_false]
  exact unspoilt_of hp

/-- A step of a live task is what follows its work. -/
theorem run_live {work : State → Res} {s : State} (h : s.me.live = true) :
    run work s = .next (finish s.cur s (work s)) := by
  simp [run, State.onTurn, h]

/-- The outcome of a ready instruction. -/
theorem run_issue {g : Guard} {srcs : List (Nat × Src)} {more outs : List Reg} {s : State} (work : State → Res)
    (h : Ready g srcs more outs s) :
    run (issue g srcs more outs work) s = .next (finish s.cur s (work (s.working g srcs more))) := by
  rw [run_live h.1, issue_ready work h]

/-- The outcome of a ready instruction with the three source fields. -/
theorem instr_ready {f : Fields} {s : State} (work : State → Res) (h : ReadyF f s) :
    instr f work s = .next (finish s.cur s (work (s.workingF f))) := run_issue work h

/-- What a first read leaves: nothing but the issuing task's `touched` and `acquired` and its core's clean bytes and rows
changes. -/
theorem touch_cases (s : State) (rs : List Reg) :
    s.touch rs = s ∨ s.touch rs = ((s.acquireFor s.cur).dropPrivate s.me.core).onMe
      fun t => { t with touched := t.touched.filter fun r => !rs.contains r } := by
  unfold State.touch; split
  · exact .inr rfl
  · exact .inl rfl

theorem touch_eq (s : State) (rs : List Reg) :
    s.touch rs = { s with tasks := (s.touch rs).tasks, cores := (s.touch rs).cores } := by
  rcases touch_cases s rs with h | h <;> rw [h] <;> rfl

@[simp] theorem touch_cur (s : State) (rs : List Reg) : (s.touch rs).cur = s.cur := by
  rw [touch_eq]

@[simp] theorem touch_seq (s : State) (rs : List Reg) : (s.touch rs).seq = s.seq := by
  rw [touch_eq]

@[simp] theorem touch_flight (s : State) (rs : List Reg) : (s.touch rs).flight = s.flight := by
  rw [touch_eq]

theorem me_acquireFor (s : State) : (s.acquireFor s.cur).me = { s.me with acquired := s.acquirePoints s.cur } := by
  simp only [State.acquireFor]
  exact State.me_onTask_cur (s.acquire (s.task s.cur).core) fun t => { t with acquired := s.acquirePoints s.cur }

theorem touch_me (s : State) (rs : List Reg) :
    (s.touch rs).me = { s.me with touched := (s.touch rs).me.touched, acquired := (s.touch rs).me.acquired } := by
  rcases touch_cases s rs with h | h <;> rw [h]
  rw [State.me_onMe, State.dropPrivate, State.me_onCore, me_acquireFor]

@[simp] theorem touch_me_regs (s : State) (rs : List Reg) : (s.touch rs).me.regs = s.me.regs := by
  rw [touch_me]

@[simp] theorem touch_me_pc (s : State) (rs : List Reg) : (s.touch rs).me.pc = s.me.pc := by
  rw [touch_me]

theorem touch_value (s : State) (rs : List Reg) (r : Reg) : (s.touch rs).me.value r = s.me.value r := by
  rw [touch_me]; cases r <;> rfl

theorem touch_get64 (s : State) (rs : List Reg) (r : Reg) : (s.touch rs).me.get64 r = s.me.get64 r := by
  simp [Task.get64, touch_value]

theorem touch_task_ne (s : State) (rs : List Reg) (id : Nat) (h : id ≠ s.cur) : (s.touch rs).task id = s.task id := by
  rcases touch_cases s rs with e | e <;> rw [e]
  have hn : s.cur ≠ id := fun h' => h h'.symm
  exact (State.task_onMe_ne ((s.acquireFor s.cur).dropPrivate s.me.core) id _ hn).trans
    (State.task_onTask_ne (s.acquire (s.task s.cur).core) s.cur id (fun t => { t with acquired := s.acquirePoints s.cur }) hn)

/-- A line without its clean bytes, where it is of an attribute. -/
theorem dropClean_line (attr : BitVec 3) (e : L1Line) :
    ∃ e', (if e.attr == attr then { e with valid := e.valid &&& e.dirty } else e) = e' ∧ e' = { e with valid := e'.valid } ∧
      e.dirty &&& e.valid &&& ~~~e'.valid = 0 ∧ e'.valid &&& ~~~e.valid = 0 := by
  refine ⟨_, rfl, by split <;> rfl, ?_, ?_⟩ <;>
    (ext i; split <;> simp <;> intros <;> simp_all)

/-- A line with dirty bytes keeps them all where the clean bytes of an attribute go, and no line is new. -/
theorem dropClean_keeps (attr : BitVec 3) (l : List L1Line) :
    (∀ e ∈ l, e.dirty ≠ 0 →
      ∃ e' ∈ dropClean attr l, e' = { e with valid := e'.valid } ∧ e.dirty &&& e.valid &&& ~~~e'.valid = 0) ∧
    ∀ e' ∈ dropClean attr l, ∃ e ∈ l, e' = { e with valid := e'.valid } ∧ e'.valid &&& ~~~e.valid = 0 := by
  constructor
  · intro e h hd
    obtain ⟨e', he, h1, h2, _⟩ := dropClean_line attr e
    refine ⟨e', ?_, h1, h2⟩
    simp only [dropClean, List.mem_map, List.mem_filter]
    exact ⟨e, ⟨h, by simp; exact .inr hd⟩, he⟩
  · intro e' h
    simp only [dropClean, List.mem_map, List.mem_filter] at h
    obtain ⟨e, ⟨he, _⟩, rfl⟩ := h
    obtain ⟨e', he', h1, _, h3⟩ := dropClean_line attr e
    exact ⟨e, he, by rw [he']; exact ⟨h1, h3⟩⟩

theorem KeepsDirty.refl (s : State) (k : Nat) : KeepsDirty s s k :=
  ⟨fun e h _ => ⟨e, h, rfl, by ext i; simp⟩, fun e h => ⟨e, h, rfl, by ext i; simp⟩⟩

theorem KeepsDirty.trans {s t u : State} {k : Nat} (h : KeepsDirty s t k) (h' : KeepsDirty t u k) : KeepsDirty s u k := by
  constructor
  · intro e he hd
    obtain ⟨x, hx, ex, vx⟩ := h.1 e he hd
    obtain ⟨y, hy, ey, vy⟩ := h'.1 x hx (by rw [ex]; exact hd)
    refine ⟨y, hy, by rw [ey, ex], ?_⟩
    have hxd : x.dirty = e.dirty := by rw [ex]
    rw [hxd] at vy
    ext i hi
    have h1 := congrArg (fun b => b[i]) vx
    have h2 := congrArg (fun b => b[i]) vy
    simp at h1 h2 ⊢
    intro a b
    exact h2 a (h1 a b)
  · intro y hy
    obtain ⟨x, hx, ey, vy⟩ := h'.2 y hy
    obtain ⟨e, he, ex, vx⟩ := h.2 x hx
    refine ⟨e, he, by rw [ey, ex], ?_⟩
    ext i hi
    have h1 := congrArg (fun b => b[i]) vx
    have h2 := congrArg (fun b => b[i]) vy
    simp at h1 h2 ⊢
    intro a
    exact h1 (h2 a)

theorem acquire_keeps (s : State) (k j : Nat) : KeepsDirty s (s.acquire k) j := by
  by_cases h : k = j
  · subst h; simpa [State.acquire, KeepsDirty] using dropClean_keeps 2 (s.core k).l1
  · simpa [KeepsDirty, State.acquire, State.core_onCore_ne _ _ _ _ h] using KeepsDirty.refl s j

theorem dropPrivate_keeps (s : State) (k j : Nat) : KeepsDirty s (s.dropPrivate k) j := by
  by_cases h : k = j
  · subst h; simpa [State.dropPrivate, KeepsDirty] using dropClean_keeps 0 (s.core k).l1
  · simpa [KeepsDirty, State.dropPrivate, State.core_onCore_ne _ _ _ _ h] using KeepsDirty.refl s j

theorem touch_sameCores (s : State) (rs : List Reg) : SameCores s (s.touch rs) := by
  rcases touch_cases s rs with e | e <;> rw [e]
  · exact fun k => ⟨rfl, KeepsDirty.refl s k⟩
  · intro k
    refine ⟨?_, KeepsDirty.trans (acquire_keeps s s.me.core k) (dropPrivate_keeps (s.acquireFor s.cur) s.me.core k)⟩
    by_cases h : s.me.core = k
    · have h' : (s.task s.cur).core = k := h
      subst h
      simp only [State.dropPrivate, State.acquireFor, State.core_onMe, State.core_onCore_self, State.core_onTask, h',
        State.acquire]
    · simp only [State.dropPrivate, State.acquireFor, State.core_onMe]
      rw [State.core_onCore_ne _ _ _ _ h]
      simp only [State.core_onTask]
      have h' : (s.task s.cur).core ≠ k := h
      rw [State.acquire, State.core_onCore_ne _ _ _ _ h']

theorem fillReg_notGuard {s : State} {id : Nat} {r : Reg} {x : VWord} (h : NotGuard r) :
    s.fillReg id r x = s.onTask id fun t => t.write r x := by
  cases r <;> first | rfl | exact absurd rfl (h _)

/-- The issuing task after its PC has advanced. -/
theorem advance_me (s : State) : (s.advance s.cur).me =
    { s.me with pc := nextPc s.me.pc, wait := .no, loom := .running, wpx := false, wdr := false, tgt := .none,
                chunk := s.me.chunk + 1 } :=
  State.me_onTask_cur s fun t =>
    { t with pc := nextPc t.pc, wait := .no, loom := .running, wpx := false, wdr := false, tgt := .none, chunk := t.chunk + 1 }

/-- An instruction whose work is one register write leaves everything else. -/
theorem putV_advance (s : State) (rs : List Reg) (r : Reg) (x : VWord) (h : NotGuard r) :
    RegistersOnly s (((s.touch rs).putV r x).advance s.cur) ∧ Wrote s (((s.touch rs).putV r x).advance s.cur) r x := by
  have e : ((s.touch rs).putV r x) = (s.touch rs).onMe fun t => t.write r x := fillReg_notGuard h
  have hc : s.cur = ((s.touch rs).onMe fun t => t.write r x).cur := by simp
  rw [e]
  refine ⟨⟨by rw [touch_eq s rs]; rfl, ?_, touch_sameCores s rs, ?_⟩, ?_⟩
  · intro id hid
    have h' : (s.touch rs).cur ≠ id := by simpa using fun h => hid h.symm
    rw [hc]
    simp only [State.advance, State.onMe_cur]
    rw [State.task_onTask_ne _ _ _ _ h', State.task_onMe_ne _ _ _ h', touch_task_ne s rs id hid]
  · rw [hc, GoesOn, advance_me, State.me_onMe, touch_me s rs]; rfl
  · rw [hc, Wrote, advance_me, State.me_onMe, touch_me s rs]; rfl

/-- The same for a 64-bit value. -/
theorem put_advance (s : State) (rs : List Reg) (r : Reg) (x : Word) (h : NotGuard r) :
    RegistersOnly s (((s.touch rs).put r x).advance s.cur) ∧ WroteW s (((s.touch rs).put r x).advance s.cur) r x :=
  putV_advance s rs r _ h

/-! What the operands of an instruction read is not changed by the first reads. -/

@[simp] theorem sa_touch (f : Fields) (s : State) (rs : List Reg) : (s.touch rs).sa f = s.sa f := touch_get64 s rs _
@[simp] theorem sb_touch (f : Fields) (s : State) (rs : List Reg) : (s.touch rs).sb f = s.sb f := touch_get64 s rs _
@[simp] theorem sc_touch (f : Fields) (s : State) (rs : List Reg) : (s.touch rs).sc f = s.sc f := touch_get64 s rs _

@[simp] theorem second_touch (f : Fields) (s : State) (rs : List Reg) : second f (s.touch rs) = second f s := by
  simp [second]

@[simp] theorem intArgs_touch (f : Fields) (s : State) (rs : List Reg) : intArgs f (s.touch rs) = intArgs f s := by
  simp [intArgs]

@[simp] theorem roundOf_touch (m : BitVec 8) (s : State) (rs : List Reg) (n : Nat) :
    roundOf m (s.touch rs).me n = roundOf m s.me n := by
  rw [touch_me s rs]; rfl

@[simp] theorem maskOf_touch (s : State) (rs : List Reg) (r : Reg) : maskOf (s.touch rs).me r = maskOf s.me r := by
  rw [touch_me s rs]; cases r <;> rfl

@[simp] theorem effAddr_touch (f : Fields) (s : State) (rs : List Reg) : effAddr f (s.touch rs) = effAddr f s := by
  simp [effAddr]

@[simp] theorem vecA_touch (f : Fields) (s : State) (rs : List Reg) (w i : Nat) : vecA f (s.touch rs) w i = vecA f s w i := by
  simp [vecA, touch_value]

@[simp] theorem vecB_touch (f : Fields) (s : State) (rs : List Reg) (w i : Nat) : vecB f (s.touch rs) w i = vecB f s w i := by
  simp [vecB, touch_value]

end Sys2Proof.Machine
end

