-- ==== Sys2Proof/Laws/Memory.lean ====
section
/-! SUPPORT. The laws of memory: what a byte reads after a write, and that every operation keeps the canonical form. -/
namespace Sys2Proof.Machine

open Sys2Proof

/-- The canonical form as a recursion on bounds: addresses from `b` up, strictly rising, nothing equal to an unlisted byte. -/
def Memory.from : Nat → Memory → Prop
  | _, [] => True
  | b, (k, c) :: m => b ≤ k ∧ c ≠ Memory.unlisted ∧ Memory.from (k + 1) m

theorem Memory.from_mono {a b : Nat} {m : Memory} (h : a ≤ b) (hm : Memory.from b m) : Memory.from a m := by
  cases m with
  | nil => trivial
  | cons e m => exact ⟨Nat.le_trans h hm.1, hm.2⟩

theorem Memory.wf_iff_from (m : Memory) : m.wf = true ↔ Memory.from 0 m := by
  suffices h : ∀ m : Memory, ∀ b, Memory.from b m ↔ (m.wf = true ∧ ∀ e ∈ m.head?, b ≤ e.1) by
    simp [h m 0]
  intro m
  induction m with
  | nil => intro b; simp [Memory.from, Memory.wf]
  | cons e m ih =>
    intro b
    obtain ⟨k, c⟩ := e
    cases m with
    | nil => simp [Memory.from, Memory.wf]; exact and_comm
    | cons e' m =>
      obtain ⟨j, d⟩ := e'
      rw [Memory.from, ih]
      simp only [Memory.wf, List.head?_cons, Option.mem_def, Option.some.injEq, forall_eq', Bool.and_eq_true, bne_iff_ne,
        decide_eq_true_eq]
      constructor
      · rintro ⟨h1, h2, h3, h4⟩; exact ⟨⟨⟨h2, h4⟩, h3⟩, h1⟩
      · rintro ⟨⟨⟨h2, h4⟩, h3⟩, h1⟩; exact ⟨h1, h2, h3, h4⟩

theorem Memory.from_put (m : Memory) (a b : Nat) (x : Byte) (hb : b ≤ a) (h : Memory.from b m) :
    Memory.from b (m.put a x) := by
  induction m generalizing b with
  | nil =>
    simp only [Memory.put]; split
    · trivial
    · exact ⟨hb, ‹_›, trivial⟩
  | cons e m ih =>
    obtain ⟨k, c⟩ := e
    obtain ⟨h1, h2, h3⟩ := h
    simp only [Memory.put]
    split
    · split
      · exact ⟨h1, h2, h3⟩
      · exact ⟨hb, ‹_›, by omega, h2, h3⟩
    · split
      · rename_i hk; subst hk
        split
        · exact Memory.from_mono (by omega) h3
        · exact ⟨hb, ‹_›, h3⟩
      · exact ⟨h1, h2, ih _ (by omega) h3⟩

/-- Writing a byte keeps the canonical form. -/
theorem Memory.wf_put (m : Memory) (a : Nat) (x : Byte) (h : m.wf = true) : (m.put a x).wf = true :=
  (Memory.wf_iff_from _).2 (Memory.from_put m a 0 x (Nat.zero_le _) ((Memory.wf_iff_from _).1 h))

/-- Writing bytes keeps the canonical form. -/
theorem Memory.wf_write (bs : List Byte) : ∀ (m : Memory) (a : Nat), m.wf = true → (m.write a bs).wf = true := by
  induction bs with
  | nil => intro m a h; exact h
  | cons b bs ih => intro m a h; exact ih _ _ (Memory.wf_put m a b h)

/-- Writing a number keeps the canonical form. -/
theorem Memory.wf_putNum (m : Memory) (a n x : Nat) (h : m.wf = true) : (m.putNum a n x).wf = true :=
  Memory.wf_write _ m a h

theorem Memory.from_filter (p : Host.Cell → Bool) (m : Memory) (b : Nat) (h : Memory.from b m) :
    Memory.from b (m.filter p) := by
  induction m generalizing b with
  | nil => trivial
  | cons e m ih =>
    obtain ⟨k, c⟩ := e
    obtain ⟨h1, h2, h3⟩ := h
    simp only [List.filter_cons]; split
    · exact ⟨h1, h2, ih _ h3⟩
    · exact Memory.from_mono (by omega) (ih _ h3)

/-- Removing cells keeps the canonical form. -/
theorem Memory.wf_filter (p : Host.Cell → Bool) (m : Memory) (h : m.wf = true) : Memory.wf (m.filter p) = true :=
  (Memory.wf_iff_from _).2 (Memory.from_filter p m 0 ((Memory.wf_iff_from _).1 h))

/-- A range of zeros keeps the canonical form. -/
theorem Memory.wf_clear (m : Memory) (a n : Nat) (h : m.wf = true) : (m.clear a n).wf = true := Memory.wf_filter _ m h

/-- A part of a memory is in canonical form. -/
theorem Memory.wf_slice (m : Memory) (a n : Nat) (h : m.wf = true) : (m.slice a n).wf = true := Memory.wf_filter _ m h

/-- Bytes laid over a memory keep the canonical form. -/
theorem Memory.wf_overlay (bs : Store Byte) : ∀ m : Memory, m.wf = true → (overlay m bs).wf = true := by
  induction bs with
  | nil => intro m h; exact h
  | cons e bs ih => intro m h; exact ih _ (Memory.wf_put m e.1 e.2 h)

theorem Memory.get_of_from {b a : Nat} {m : Memory} (h : Memory.from b m) (ha : a < b) : m.get a = Memory.unlisted := by
  induction m generalizing b with
  | nil => rfl
  | cons e m ih =>
    obtain ⟨k, c⟩ := e
    obtain ⟨h1, _, h3⟩ := h
    simp only [Memory.get]
    rw [if_neg (by omega)]
    exact ih h3 (by omega)

theorem Memory.get_put_from (m : Memory) (a i b : Nat) (x : Byte) (h : Memory.from b m) :
    (m.put a x).get i = if i = a then x else m.get i := by
  induction m generalizing b with
  | nil =>
    simp only [Memory.put]; split
    · subst_vars; simp [Memory.get]
    · simp only [Memory.get]; split <;> split <;> simp_all
  | cons e m ih =>
    obtain ⟨k, c⟩ := e
    obtain ⟨h1, h2, h3⟩ := h
    simp only [Memory.put]
    split
    · rename_i hk
      split
      · rename_i hx
        split
        · rename_i hi; subst hi hx
          simp only [Memory.get]; rw [if_neg (by omega)]; exact Memory.get_of_from h3 (by omega)
        · rfl
      · simp only [Memory.get]
        by_cases hi : i = a
        · subst hi; simp
        · rw [if_neg (fun h => hi h.symm), if_neg hi]
    · split
      · rename_i hk; subst hk
        split
        · rename_i hx
          by_cases hi : i = a
          · subst hi hx; simp only [if_true]; exact Memory.get_of_from h3 (by omega)
          · rw [if_neg hi]; simp only [Memory.get]; rw [if_neg (fun h => hi h.symm)]
        · simp only [Memory.get]
          by_cases hi : i = a
          · subst hi; simp
          · rw [if_neg (fun h => hi h.symm), if_neg hi, if_neg (fun h => hi h.symm)]
      · simp only [Memory.get, ih _ h3]
        by_cases hi : i = a
        · subst hi; rw [if_neg (by omega)]; simp
        · simp [hi]

/-- A byte read after a byte is written, in a memory in canonical form. -/
theorem Memory.get_put (m : Memory) (a i : Nat) (x : Byte) (h : m.wf = true) :
    (m.put a x).get i = if i = a then x else m.get i :=
  Memory.get_put_from m a i 0 x ((Memory.wf_iff_from _).1 h)

/-- A byte outside those written reads as before. -/
theorem Memory.get_write_outside (bs : List Byte) : ∀ (m : Memory) (a i : Nat), m.wf = true → i < a ∨ a + bs.length ≤ i →
    (m.write a bs).get i = m.get i := by
  induction bs with
  | nil => intro m a i _ _; rfl
  | cons b bs ih =>
    intro m a i h hi
    simp only [List.length_cons] at hi
    simp only [Memory.write]
    rw [ih _ _ _ (Memory.wf_put m a b h) (by omega), Memory.get_put m a i b h, if_neg (by omega)]

end Sys2Proof.Machine
end

