-- ==== Sys2Proof/Laws/Ops.lean ====
section
/-! SUPPORT. What each shared operation can do, said once: running an instruction's work, its issue, its checks, a release
point, a wait, a trap and the return from one. -/
namespace Sys2Proof.Machine

open Sys2Proof

/-- An instruction answers a next state when a live task issues it, and that state is what follows its work. -/
theorem run_eq_next {work : State → Res} {s t : State} :
    run work s = .next t ↔ s.me.live = true ∧ finish s.cur s (work s) = t := by
  simp only [run, State.onTurn]
  by_cases h : s.me.live = true <;> simp [h]

/-- The only stop of an instruction: no live task issues it. -/
theorem run_eq_fault {work : State → Res} {s : State} {e : Fault} :
    run work s = .fault e ↔ s.me.live = false ∧ e = .noTask := by
  simp only [run, State.onTurn]
  by_cases h : s.me.live = true <;> simp [h, eq_comm]

/-- No instruction is refused. -/
theorem run_ne_refused {work : State → Res} {s : State} {r : Refusal} : run work s ≠ .refused r := by
  simp only [run, State.onTurn]
  by_cases h : s.me.live = true <;> simp [h]

/-- What a spoilt source does to an outcome (R283): nothing, or the UNCORRECTABLE trap. -/
theorem unspoilt_cases (s : State) (rs : List Reg) (x : Res) : unspoilt s rs x = x ∨ unspoilt s rs x = .trap 0x40 0 0 := by
  unfold unspoilt
  split
  · split <;> simp
  · exact .inl rfl

/-- What an issue comes to (R16, R48, R283): no effect, a wait, an EMPTY_READ or UNCORRECTABLE trap, or the instruction's own
work. -/
theorem issue_cases (g : Guard) (srcs : List (Nat × Src)) (more outs : List Reg) (work : State → Res) (s : State) :
    (guardTest g s.me = some false ∧ issue g srcs more outs work s = .ok s) ∨
    (∃ w, (w = .place ∨ ∃ r, w = .reg r) ∧ issue g srcs more outs work s = .wait w s) ∨
    (∃ i, issue g srcs more outs work s = .trap 0x08 0 i) ∨
    (issue g srcs more outs work s = .trap 0x40 0 0) ∨
    (guardTest g s.me = some true ∧ issue g srcs more outs work s = work (s.working g srcs more)) := by
  rcases hg : guardTest g s.me with _ | b
  · exact .inr (.inl ⟨.reg (.q g.q), .inr ⟨_, rfl⟩, by simp only [issue, hg]⟩)
  cases b
  · rcases unspoilt_cases s [.q g.q] (.ok s) with h | h
    · exact .inl ⟨rfl, by simp only [issue, hg, h]⟩
    · exact .inr (.inr (.inr (.inl (by simp only [issue, hg, h]))))
  rcases hs : emptySource s srcs with _ | r
  · rcases hm : more.find? (fun r => !s.me.full r) with _ | r
    · by_cases hl : (s.me.landing more || outs.any (s.pendingOn s.cur)) = true
      · exact .inr (.inl ⟨.place, .inl rfl, by simp only [issue, hg, hs, hm, hl, if_true]⟩)
      · rcases unspoilt_cases s (readRegs g srcs more) (work (s.working g srcs more)) with h | h
        · exact .inr (.inr (.inr (.inr ⟨rfl, by rw [← h]; simp only [issue, hg, hs, hm, hl]; rfl⟩)))
        · exact .inr (.inr (.inr (.inl (by rw [← h]; simp only [issue, hg, hs, hm, hl]; rfl))))
    · exact .inr (.inl ⟨.reg r, .inr ⟨r, rfl⟩, by simp only [issue, hg, hs, hm]⟩)
  · have he : issue g srcs more outs work s = r := by simp only [issue, hg, hs]
    rw [he]
    revert hs
    simp only [emptySource]
    split
    · intro hs; cases hs; exact .inr (.inl ⟨.place, .inl rfl, rfl⟩)
    · rcases firstEmpty s.me srcs with _ | ⟨n, x⟩
      · intro hs; cases hs
      · simp only [Option.map_some, Option.some.injEq]
        intro hs
        subst hs
        cases x.trap
        · exact .inr (.inl ⟨.reg x.reg, .inr ⟨_, rfl⟩, rfl⟩)
        · exact .inr (.inr (.inl ⟨_, rfl⟩))

/-- The checks of an access (R279): they stop it, or it does its work on the places that they found, with the remap rows
that they read kept. -/
theorem checked_cases (u : Use) (align : Req → Option (BitVec 8)) (reqs : List Req) (work : List Part → State → Res)
    (s : State) :
    (∃ x, s.check s.me s.cur u align reqs = .error x ∧ checked u align reqs work s = x.res) ∨
    ∃ parts rows, s.check s.me s.cur u align reqs = .ok (parts, rows) ∧
      checked u align reqs work s = work parts (if rows.isEmpty then s else s.keepRows s.me.core rows) := by
  simp only [checked]
  cases s.check s.me s.cur u align reqs with
  | error x => exact .inl ⟨x, rfl, rfl⟩
  | ok e => exact .inr ⟨e.1, e.2, rfl, rfl⟩

/-- A release point (R298): it waits while an access or a REL of its task is outstanding, and else works after its core's
publication. -/
theorem released_cases (work : State → Res) (s : State) :
    ((s.unperformed s.cur || s.releasing s.cur) = true ∧ released work s = .wait .place s) ∨
    ((s.unperformed s.cur || s.releasing s.cur) = false ∧ released work s = work (s.publish s.me.core)) := by
  cases h : s.unperformed s.cur || s.releasing s.cur
  · exact .inr ⟨rfl, by simp only [released, State.release, h, Bool.false_eq_true, if_false]⟩
  · exact .inl ⟨rfl, by simp only [released, State.release, h, if_true]⟩

/-- A wait in place keeps the PC and the registers, unless a cancel ends the task there (R16, R249). -/
theorem waitFor_cases (s : State) (id : Nat) (w : Wait) :
    ((s.task id).canp = true ∧ s.waitFor id w = s.cancelTask id) ∨
    s.waitFor id w = s.onTask id fun t => { t with wait := w, loom := .waiting } := by
  simp only [State.waitFor]
  split
  · rename_i h; simp only [Bool.and_eq_true] at h; exact .inl ⟨h.1, rfl⟩
  · exact .inr rfl

/-- A trap taken with INH = 1 is fatal with DOUBLE (R266). -/
theorem takeTrap_inh {s : State} {id : Nat} (c : BitVec 8) (pc a i : Word) (h : (s.task id).inh = true) :
    s.takeTrap id c pc a i = s.fatal id 0x3F [(c.setWidth 64, pc, a, i)] := by
  simp only [State.takeTrap, h, if_true]

/-- The task after a trap with a handler (R264). -/
def Task.trapped (t : Task) (c : BitVec 8) (pc a i vec : Word) : Task :=
  { t with
    trapCause := c.setWidth 64, trapPc := pc, trapAddr := a, trapInfo := i, wait := .no, wpx := false, wdr := false
    wpPc := if c = 0x16 then some pc else .none, inh := true, pc := vec, tgt := some 0, loom := if t.slot.isSome then .running else t.loom }

theorem Store.put_put {α : Type} (m : Store α) (a : Nat) (x y : α) : Store.put (Store.put m a x) a y = Store.put m a y := by
  induction m with
  | nil => simp [Store.put]
  | cons e m ih =>
    obtain ⟨k, w⟩ := e
    simp only [Store.put]
    split
    · simp [Store.put]
    · split
      · simp [Store.put]
      · rename_i h1 h2; simp only [Store.put, h1, h2, if_false, ih]

/-- Two changes of one task are one. -/
theorem State.onTask_onTask (s : State) (id : Nat) (f g : Task → Task) :
    (s.onTask id f).onTask id g = s.onTask id fun t => g (f t) := by
  simp only [State.onTask, State.setTask, State.task, Store.find_put_self, Option.getD_some, Store.put_put]

/-- A trap with a handler (R264): four registers, INH and the PC, with the target's check to come; nothing else of the
machine changes. -/
theorem takeTrap_handled {s : State} {id : Nat} (c : BitVec 8) (pc a i : Word) (h : (s.task id).inh = false)
    (hv : (s.lease (s.task id).lease).trapVec ≠ 0) :
    s.takeTrap id c pc a i = s.onTask id fun t => t.trapped c pc a i (s.lease (s.task id).lease).trapVec := by
  have h1 : ∀ f : Task → Task, (s.onTask id f).lease (s.task id).lease = s.lease (s.task id).lease := fun _ => rfl
  simp only [State.takeTrap, h, Bool.false_eq_true, if_false, h1, hv, State.onTask_onTask]
  rfl

/-- The return from a trap (R222, R265). -/
theorem eret_fields (t : Task) : t.eret.inh = false ∧ t.eret.pc = t.trapPc ∧ t.eret.regs = t.regs := ⟨rfl, rfl, rfl⟩

/-- A checked transfer (R39): it goes to its target, traps there, or waits for the target's translation with the check kept. -/
theorem checkTarget_cases (s : State) (target : Word) :
    checkTarget s target = .jump s target ∨
    (∃ c a i, checkTarget s target = .trapAt s c target a i) ∨ ∃ t, checkTarget s target = .gone t := by
  simp only [checkTarget]
  cases s.fetchAt s.me target true with
  | got w lw => exact .inl rfl
  | trap c a i => exact .inr (.inl ⟨_, _, _, rfl⟩)
  | miss va => exact .inr (.inr ⟨_, rfl⟩)

end Sys2Proof.Machine
end

