-- ==== Sys2Proof/Laws/PerInstr.lean ====
section
/-! SUPPORT. Per-instruction lemmas: the encoding tables read from an instruction to its opcode and back agree on every
constructor (R40, R54). -/
namespace Sys2Proof.Laws.Encoding

open Sys2Proof Sys2Proof.Machine

/-- The row that `partsOf` gives an instruction is a row of `ofParts`, with the same fields, within the widths of CLASS
and OP (R40); an event of the device has no row. -/
def Statement (i : Instr) : Prop :=
  match partsOf i with
  | none => i.coded = false
  | some (cls, op, .x f) => cls < 16 ∧ op < 256 ∧ ∀ l, ofParts cls op f l = some i
  | some (cls, op, .l l) => cls < 16 ∧ op < 256 ∧ ∀ f, ofParts cls op f l = some i

theorem nop (f : Fields) : Statement (.nop f) := ⟨by decide, by decide, fun _ => rfl⟩
theorem add (f : Fields) : Statement (.add f) := ⟨by decide, by decide, fun _ => rfl⟩
theorem sub (f : Fields) : Statement (.sub f) := ⟨by decide, by decide, fun _ => rfl⟩
theorem mul (f : Fields) : Statement (.mul f) := ⟨by decide, by decide, fun _ => rfl⟩
theorem mulh (f : Fields) : Statement (.mulh f) := ⟨by decide, by decide, fun _ => rfl⟩
theorem div (f : Fields) : Statement (.div f) := ⟨by decide, by decide, fun _ => rfl⟩
theorem rem (f : Fields) : Statement (.rem f) := ⟨by decide, by decide, fun _ => rfl⟩
theorem and (f : Fields) : Statement (.and f) := ⟨by decide, by decide, fun _ => rfl⟩
theorem or (f : Fields) : Statement (.or f) := ⟨by decide, by decide, fun _ => rfl⟩
theorem xor (f : Fields) : Statement (.xor f) := ⟨by decide, by decide, fun _ => rfl⟩
theorem andn (f : Fields) : Statement (.andn f) := ⟨by decide, by decide, fun _ => rfl⟩
theorem shl (f : Fields) : Statement (.shl f) := ⟨by decide, by decide, fun _ => rfl⟩
theorem shr (f : Fields) : Statement (.shr f) := ⟨by decide, by decide, fun _ => rfl⟩
theorem sar (f : Fields) : Statement (.sar f) := ⟨by decide, by decide, fun _ => rfl⟩
theorem rot (f : Fields) : Statement (.rot f) := ⟨by decide, by decide, fun _ => rfl⟩
theorem min (f : Fields) : Statement (.min f) := ⟨by decide, by decide, fun _ => rfl⟩
theorem max (f : Fields) : Statement (.max f) := ⟨by decide, by decide, fun _ => rfl⟩
theorem abs (f : Fields) : Statement (.abs f) := ⟨by decide, by decide, fun _ => rfl⟩
theorem clz (f : Fields) : Statement (.clz f) := ⟨by decide, by decide, fun _ => rfl⟩
theorem ctz (f : Fields) : Statement (.ctz f) := ⟨by decide, by decide, fun _ => rfl⟩
theorem popc (f : Fields) : Statement (.popc f) := ⟨by decide, by decide, fun _ => rfl⟩
theorem brev (f : Fields) : Statement (.brev f) := ⟨by decide, by decide, fun _ => rfl⟩
theorem bswap (f : Fields) : Statement (.bswap f) := ⟨by decide, by decide, fun _ => rfl⟩
theorem bfx (f : Fields) : Statement (.bfx f) := ⟨by decide, by decide, fun _ => rfl⟩
theorem bfi (f : Fields) : Statement (.bfi f) := ⟨by decide, by decide, fun _ => rfl⟩
theorem sel (f : Fields) : Statement (.sel f) := ⟨by decide, by decide, fun _ => rfl⟩
theorem movi (f : LFields) : Statement (.movi f) := ⟨by decide, by decide, fun _ => rfl⟩
theorem mov (f : Fields) : Statement (.mov f) := ⟨by decide, by decide, fun _ => rfl⟩
theorem lea (f : Fields) : Statement (.lea f) := ⟨by decide, by decide, fun _ => rfl⟩
theorem cmp (f : Fields) : Statement (.cmp f) := ⟨by decide, by decide, fun _ => rfl⟩
theorem tst (f : Fields) : Statement (.tst f) := ⟨by decide, by decide, fun _ => rfl⟩
theorem mad (f : Fields) : Statement (.mad f) := ⟨by decide, by decide, fun _ => rfl⟩
theorem chk (f : Fields) : Statement (.chk f) := ⟨by decide, by decide, fun _ => rfl⟩
theorem fadd (f : Fields) : Statement (.fadd f) := ⟨by decide, by decide, fun _ => rfl⟩
theorem fsub (f : Fields) : Statement (.fsub f) := ⟨by decide, by decide, fun _ => rfl⟩
theorem fmul (f : Fields) : Statement (.fmul f) := ⟨by decide, by decide, fun _ => rfl⟩
theorem ffma (f : Fields) : Statement (.ffma f) := ⟨by decide, by decide, fun _ => rfl⟩
theorem fdiv (f : Fields) : Statement (.fdiv f) := ⟨by decide, by decide, fun _ => rfl⟩
theorem fsqrt (f : Fields) : Statement (.fsqrt f) := ⟨by decide, by decide, fun _ => rfl⟩
theorem fmin (f : Fields) : Statement (.fmin f) := ⟨by decide, by decide, fun _ => rfl⟩
theorem fmax (f : Fields) : Statement (.fmax f) := ⟨by decide, by decide, fun _ => rfl⟩
theorem fcmp (f : Fields) : Statement (.fcmp f) := ⟨by decide, by decide, fun _ => rfl⟩
theorem fclass (f : Fields) : Statement (.fclass f) := ⟨by decide, by decide, fun _ => rfl⟩
theorem fcvt (f : Fields) : Statement (.fcvt f) := ⟨by decide, by decide, fun _ => rfl⟩
theorem ftoi (f : Fields) : Statement (.ftoi f) := ⟨by decide, by decide, fun _ => rfl⟩
theorem itof (f : Fields) : Statement (.itof f) := ⟨by decide, by decide, fun _ => rfl⟩
theorem fsgn (f : Fields) : Statement (.fsgn f) := ⟨by decide, by decide, fun _ => rfl⟩
theorem br (f : Fields) : Statement (.br f) := ⟨by decide, by decide, fun _ => rfl⟩
theorem jmp (f : Fields) : Statement (.jmp f) := ⟨by decide, by decide, fun _ => rfl⟩
theorem call (f : Fields) : Statement (.call f) := ⟨by decide, by decide, fun _ => rfl⟩
theorem callr (f : Fields) : Statement (.callr f) := ⟨by decide, by decide, fun _ => rfl⟩
theorem ret (f : Fields) : Statement (.ret f) := ⟨by decide, by decide, fun _ => rfl⟩
theorem loop (f : Fields) : Statement (.loop f) := ⟨by decide, by decide, fun _ => rfl⟩
theorem qset (f : Fields) : Statement (.qset f) := ⟨by decide, by decide, fun _ => rfl⟩
theorem qlog (f : Fields) : Statement (.qlog f) := ⟨by decide, by decide, fun _ => rfl⟩
theorem ld (f : Fields) : Statement (.ld f) := ⟨by decide, by decide, fun _ => rfl⟩
theorem st (f : Fields) : Statement (.st f) := ⟨by decide, by decide, fun _ => rfl⟩
theorem ldv (f : Fields) : Statement (.ldv f) := ⟨by decide, by decide, fun _ => rfl⟩
theorem stv (f : Fields) : Statement (.stv f) := ⟨by decide, by decide, fun _ => rfl⟩
theorem ldg (f : Fields) : Statement (.ldg f) := ⟨by decide, by decide, fun _ => rfl⟩
theorem stg (f : Fields) : Statement (.stg f) := ⟨by decide, by decide, fun _ => rfl⟩
theorem ldt (f : Fields) : Statement (.ldt f) := ⟨by decide, by decide, fun _ => rfl⟩
theorem pref (f : Fields) : Statement (.pref f) := ⟨by decide, by decide, fun _ => rfl⟩
theorem clean (f : Fields) : Statement (.clean f) := ⟨by decide, by decide, fun _ => rfl⟩
theorem inval (f : Fields) : Statement (.inval f) := ⟨by decide, by decide, fun _ => rfl⟩
theorem ldf (f : Fields) : Statement (.ldf f) := ⟨by decide, by decide, fun _ => rfl⟩
theorem ldff (f : Fields) : Statement (.ldff f) := ⟨by decide, by decide, fun _ => rfl⟩
theorem ste (f : Fields) : Statement (.ste f) := ⟨by decide, by decide, fun _ => rfl⟩
theorem stf (f : Fields) : Statement (.stf f) := ⟨by decide, by decide, fun _ => rfl⟩
theorem sete (f : Fields) : Statement (.sete f) := ⟨by decide, by decide, fun _ => rfl⟩
theorem probe (f : Fields) : Statement (.probe f) := ⟨by decide, by decide, fun _ => rfl⟩
theorem aadd (f : Fields) : Statement (.aadd f) := ⟨by decide, by decide, fun _ => rfl⟩
theorem aand (f : Fields) : Statement (.aand f) := ⟨by decide, by decide, fun _ => rfl⟩
theorem aor (f : Fields) : Statement (.aor f) := ⟨by decide, by decide, fun _ => rfl⟩
theorem axor (f : Fields) : Statement (.axor f) := ⟨by decide, by decide, fun _ => rfl⟩
theorem amin (f : Fields) : Statement (.amin f) := ⟨by decide, by decide, fun _ => rfl⟩
theorem amax (f : Fields) : Statement (.amax f) := ⟨by decide, by decide, fun _ => rfl⟩
theorem aswp (f : Fields) : Statement (.aswp f) := ⟨by decide, by decide, fun _ => rfl⟩
theorem acas (f : Fields) : Statement (.acas f) := ⟨by decide, by decide, fun _ => rfl⟩
theorem aincw (f : Fields) : Statement (.aincw f) := ⟨by decide, by decide, fun _ => rfl⟩
theorem afaddb (f : Fields) : Statement (.afaddb f) := ⟨by decide, by decide, fun _ => rfl⟩
theorem afadd (f : Fields) : Statement (.afadd f) := ⟨by decide, by decide, fun _ => rfl⟩
theorem fence (f : Fields) : Statement (.fence f) := ⟨by decide, by decide, fun _ => rfl⟩
theorem phase (f : Fields) : Statement (.phase f) := ⟨by decide, by decide, fun _ => rfl⟩
theorem rel (f : Fields) : Statement (.rel f) := ⟨by decide, by decide, fun _ => rfl⟩
theorem acq (f : Fields) : Statement (.acq f) := ⟨by decide, by decide, fun _ => rfl⟩
theorem get (f : Fields) : Statement (.get f) := ⟨by decide, by decide, fun _ => rfl⟩
theorem put (f : Fields) : Statement (.put f) := ⟨by decide, by decide, fun _ => rfl⟩
theorem push (f : Fields) : Statement (.push f) := ⟨by decide, by decide, fun _ => rfl⟩
theorem layout (f : Fields) : Statement (.layout f) := ⟨by decide, by decide, fun _ => rfl⟩
theorem cfill (f : Fields) : Statement (.cfill f) := ⟨by decide, by decide, fun _ => rfl⟩
theorem cquery (f : Fields) : Statement (.cquery f) := ⟨by decide, by decide, fun _ => rfl⟩
theorem permit (f : Fields) : Statement (.permit f) := ⟨by decide, by decide, fun _ => rfl⟩
theorem vadd (f : Fields) : Statement (.vadd f) := ⟨by decide, by decide, fun _ => rfl⟩
theorem vsub (f : Fields) : Statement (.vsub f) := ⟨by decide, by decide, fun _ => rfl⟩
theorem vmul (f : Fields) : Statement (.vmul f) := ⟨by decide, by decide, fun _ => rfl⟩
theorem vmulh (f : Fields) : Statement (.vmulh f) := ⟨by decide, by decide, fun _ => rfl⟩
theorem vmad (f : Fields) : Statement (.vmad f) := ⟨by decide, by decide, fun _ => rfl⟩
theorem vand (f : Fields) : Statement (.vand f) := ⟨by decide, by decide, fun _ => rfl⟩
theorem vor (f : Fields) : Statement (.vor f) := ⟨by decide, by decide, fun _ => rfl⟩
theorem vxor (f : Fields) : Statement (.vxor f) := ⟨by decide, by decide, fun _ => rfl⟩
theorem vshl (f : Fields) : Statement (.vshl f) := ⟨by decide, by decide, fun _ => rfl⟩
theorem vshr (f : Fields) : Statement (.vshr f) := ⟨by decide, by decide, fun _ => rfl⟩
theorem vsar (f : Fields) : Statement (.vsar f) := ⟨by decide, by decide, fun _ => rfl⟩
theorem vmin (f : Fields) : Statement (.vmin f) := ⟨by decide, by decide, fun _ => rfl⟩
theorem vmax (f : Fields) : Statement (.vmax f) := ⟨by decide, by decide, fun _ => rfl⟩
theorem vabs (f : Fields) : Statement (.vabs f) := ⟨by decide, by decide, fun _ => rfl⟩
theorem vcmp (f : Fields) : Statement (.vcmp f) := ⟨by decide, by decide, fun _ => rfl⟩
theorem vsel (f : Fields) : Statement (.vsel f) := ⟨by decide, by decide, fun _ => rfl⟩
theorem vbcast (f : Fields) : Statement (.vbcast f) := ⟨by decide, by decide, fun _ => rfl⟩
theorem vext (f : Fields) : Statement (.vext f) := ⟨by decide, by decide, fun _ => rfl⟩
theorem vins (f : Fields) : Statement (.vins f) := ⟨by decide, by decide, fun _ => rfl⟩
theorem vperm (f : Fields) : Statement (.vperm f) := ⟨by decide, by decide, fun _ => rfl⟩
theorem vslide (f : Fields) : Statement (.vslide f) := ⟨by decide, by decide, fun _ => rfl⟩
theorem vred (f : Fields) : Statement (.vred f) := ⟨by decide, by decide, fun _ => rfl⟩
theorem vscan (f : Fields) : Statement (.vscan f) := ⟨by decide, by decide, fun _ => rfl⟩
theorem vpopc (f : Fields) : Statement (.vpopc f) := ⟨by decide, by decide, fun _ => rfl⟩
theorem vfirst (f : Fields) : Statement (.vfirst f) := ⟨by decide, by decide, fun _ => rfl⟩
theorem viota (f : Fields) : Statement (.viota f) := ⟨by decide, by decide, fun _ => rfl⟩
theorem plog (f : Fields) : Statement (.plog f) := ⟨by decide, by decide, fun _ => rfl⟩
theorem vcompress (f : Fields) : Statement (.vcompress f) := ⟨by decide, by decide, fun _ => rfl⟩
theorem vtopk (f : Fields) : Statement (.vtopk f) := ⟨by decide, by decide, fun _ => rfl⟩
theorem vfadd (f : Fields) : Statement (.vfadd f) := ⟨by decide, by decide, fun _ => rfl⟩
theorem vfsub (f : Fields) : Statement (.vfsub f) := ⟨by decide, by decide, fun _ => rfl⟩
theorem vfmul (f : Fields) : Statement (.vfmul f) := ⟨by decide, by decide, fun _ => rfl⟩
theorem vffma (f : Fields) : Statement (.vffma f) := ⟨by decide, by decide, fun _ => rfl⟩
theorem vfdiv (f : Fields) : Statement (.vfdiv f) := ⟨by decide, by decide, fun _ => rfl⟩
theorem vfsqrt (f : Fields) : Statement (.vfsqrt f) := ⟨by decide, by decide, fun _ => rfl⟩
theorem vfmin (f : Fields) : Statement (.vfmin f) := ⟨by decide, by decide, fun _ => rfl⟩
theorem vfmax (f : Fields) : Statement (.vfmax f) := ⟨by decide, by decide, fun _ => rfl⟩
theorem vfcmp (f : Fields) : Statement (.vfcmp f) := ⟨by decide, by decide, fun _ => rfl⟩
theorem vfexp2 (f : Fields) : Statement (.vfexp2 f) := ⟨by decide, by decide, fun _ => rfl⟩
theorem vflog2 (f : Fields) : Statement (.vflog2 f) := ⟨by decide, by decide, fun _ => rfl⟩
theorem vfrcp (f : Fields) : Statement (.vfrcp f) := ⟨by decide, by decide, fun _ => rfl⟩
theorem vfrsq (f : Fields) : Statement (.vfrsq f) := ⟨by decide, by decide, fun _ => rfl⟩
theorem vfred (f : Fields) : Statement (.vfred f) := ⟨by decide, by decide, fun _ => rfl⟩
theorem vfcvt (f : Fields) : Statement (.vfcvt f) := ⟨by decide, by decide, fun _ => rfl⟩
theorem vftoi (f : Fields) : Statement (.vftoi f) := ⟨by decide, by decide, fun _ => rfl⟩
theorem vitof (f : Fields) : Statement (.vitof f) := ⟨by decide, by decide, fun _ => rfl⟩
theorem vquant (f : Fields) : Statement (.vquant f) := ⟨by decide, by decide, fun _ => rfl⟩
theorem vdeq (f : Fields) : Statement (.vdeq f) := ⟨by decide, by decide, fun _ => rfl⟩
theorem vscale (f : Fields) : Statement (.vscale f) := ⟨by decide, by decide, fun _ => rfl⟩
theorem vfclass (f : Fields) : Statement (.vfclass f) := ⟨by decide, by decide, fun _ => rfl⟩
theorem mgang (f : Fields) : Statement (.mgang f) := ⟨by decide, by decide, fun _ => rfl⟩
theorem mldb (f : Fields) : Statement (.mldb f) := ⟨by decide, by decide, fun _ => rfl⟩
theorem mma (f : Fields) : Statement (.mma f) := ⟨by decide, by decide, fun _ => rfl⟩
theorem mzero (f : Fields) : Statement (.mzero f) := ⟨by decide, by decide, fun _ => rfl⟩
theorem mrdz (f : Fields) : Statement (.mrdz f) := ⟨by decide, by decide, fun _ => rfl⟩
theorem mwrz (f : Fields) : Statement (.mwrz f) := ⟨by decide, by decide, fun _ => rfl⟩
theorem mscale (f : Fields) : Statement (.mscale f) := ⟨by decide, by decide, fun _ => rfl⟩
theorem mrel (f : Fields) : Statement (.mrel f) := ⟨by decide, by decide, fun _ => rfl⟩
theorem tmv (f : Fields) : Statement (.tmv f) := ⟨by decide, by decide, fun _ => rfl⟩
theorem spawn (f : Fields) : Statement (.spawn f) := ⟨by decide, by decide, fun _ => rfl⟩
theorem spawng (f : Fields) : Statement (.spawng f) := ⟨by decide, by decide, fun _ => rfl⟩
theorem touch (f : Fields) : Statement (.touch f) := ⟨by decide, by decide, fun _ => rfl⟩
theorem touchs (f : Fields) : Statement (.touchs f) := ⟨by decide, by decide, fun _ => rfl⟩
theorem touchany (f : Fields) : Statement (.touchany f) := ⟨by decide, by decide, fun _ => rfl⟩
theorem resolve (f : Fields) : Statement (.resolve f) := ⟨by decide, by decide, fun _ => rfl⟩
theorem poison (f : Fields) : Statement (.poison f) := ⟨by decide, by decide, fun _ => rfl⟩
theorem cancel (f : Fields) : Statement (.cancel f) := ⟨by decide, by decide, fun _ => rfl⟩
theorem keep (f : Fields) : Statement (.keep f) := ⟨by decide, by decide, fun _ => rfl⟩
theorem fdrop (f : Fields) : Statement (.fdrop f) := ⟨by decide, by decide, fun _ => rfl⟩
theorem fstat (f : Fields) : Statement (.fstat f) := ⟨by decide, by decide, fun _ => rfl⟩
theorem retire (f : Fields) : Statement (.retire f) := ⟨by decide, by decide, fun _ => rfl⟩
theorem yield (f : Fields) : Statement (.yield f) := ⟨by decide, by decide, fun _ => rfl⟩
theorem fnew (f : Fields) : Statement (.fnew f) := ⟨by decide, by decide, fun _ => rfl⟩
theorem needle (f : Fields) : Statement (.needle f) := ⟨by decide, by decide, fun _ => rfl⟩
theorem send (f : Fields) : Statement (.send f) := ⟨by decide, by decide, fun _ => rfl⟩
theorem sendv (f : Fields) : Statement (.sendv f) := ⟨by decide, by decide, fun _ => rfl⟩
theorem clr (f : Fields) : Statement (.clr f) := ⟨by decide, by decide, fun _ => rfl⟩
theorem msg (f : Fields) : Statement (.msg f) := ⟨by decide, by decide, fun _ => rfl⟩
theorem mbind (f : Fields) : Statement (.mbind f) := ⟨by decide, by decide, fun _ => rfl⟩
theorem mpost (f : Fields) : Statement (.mpost f) := ⟨by decide, by decide, fun _ => rfl⟩
theorem mtake (f : Fields) : Statement (.mtake f) := ⟨by decide, by decide, fun _ => rfl⟩
theorem binit (f : Fields) : Statement (.binit f) := ⟨by decide, by decide, fun _ => rfl⟩
theorem barr (f : Fields) : Statement (.barr f) := ⟨by decide, by decide, fun _ => rfl⟩
theorem bwait (f : Fields) : Statement (.bwait f) := ⟨by decide, by decide, fun _ => rfl⟩
theorem barw (f : Fields) : Statement (.barw f) := ⟨by decide, by decide, fun _ => rfl⟩
theorem blink (f : Fields) : Statement (.blink f) := ⟨by decide, by decide, fun _ => rfl⟩
theorem getsr (f : Fields) : Statement (.getsr f) := ⟨by decide, by decide, fun _ => rfl⟩
theorem setsr (f : Fields) : Statement (.setsr f) := ⟨by decide, by decide, fun _ => rfl⟩
theorem trap (f : Fields) : Statement (.trap f) := ⟨by decide, by decide, fun _ => rfl⟩
theorem eret (f : Fields) : Statement (.eret f) := ⟨by decide, by decide, fun _ => rfl⟩
theorem brk (f : Fields) : Statement (.brk f) := ⟨by decide, by decide, fun _ => rfl⟩
theorem trace (f : Fields) : Statement (.trace f) := ⟨by decide, by decide, fun _ => rfl⟩
theorem tstamp (f : Fields) : Statement (.tstamp f) := ⟨by decide, by decide, fun _ => rfl⟩
theorem lpatch (f : Fields) : Statement (.lpatch f) := ⟨by decide, by decide, fun _ => rfl⟩
theorem larm (f : Fields) : Statement (.larm f) := ⟨by decide, by decide, fun _ => rfl⟩
theorem patset (f : Fields) : Statement (.patset f) := ⟨by decide, by decide, fun _ => rfl⟩
theorem patget (f : Fields) : Statement (.patget f) := ⟨by decide, by decide, fun _ => rfl⟩
theorem baste (f : Fields) : Statement (.baste f) := ⟨by decide, by decide, fun _ => rfl⟩
theorem fixedLatencyResult (task : Nat) : Statement (.fixedLatencyResult task) := rfl
theorem valueLands (k : Nat) : Statement (.valueLands k) := rfl
theorem storeAcknowledged (k : Nat) : Statement (.storeAcknowledged k) := rfl
theorem releaseComplete (k : Nat) : Statement (.releaseComplete k) := rfl
theorem memoryAccess (k : Nat) : Statement (.memoryAccess k) := rfl
theorem taggedRequest (k : Nat) : Statement (.taggedRequest k) := rfl
theorem taggedResend (k : Nat) : Statement (.taggedResend k) := rfl
theorem withdrawal (k : Nat) : Statement (.withdrawal k) := rfl
theorem pageWalk (k : Nat) : Statement (.pageWalk k) := rfl
theorem firmwareMapPage (k : Nat) (m : PageMap) : Statement (.firmwareMapPage k m) := rfl
theorem firmwareReflectFault (k : Nat) : Statement (.firmwareReflectFault k) := rfl
theorem translationInvalidate (lease : Nat) : Statement (.translationInvalidate lease) := rfl
theorem heldCommandRelease (u : EngineUnit) (k : Nat) : Statement (.heldCommandRelease u k) := rfl
theorem copyChannelTake (pos : Nat) (chan : Nat) : Statement (.copyChannelTake pos chan) := rfl
theorem copyGranule (pos : Nat) (chan : Nat) : Statement (.copyGranule pos chan) := rfl
theorem channelYield (pos : Nat) (chan : Nat) : Statement (.channelYield pos chan) := rfl
theorem tileCopyStart (pos : Nat) : Statement (.tileCopyStart pos) := rfl
theorem matrixCommandStart (core : Nat) : Statement (.matrixCommandStart core) := rfl
theorem gangForms (pos : Nat) (mask : BitVec 8) : Statement (.gangForms pos mask) := rfl
theorem gangStepStart (pos : Nat) (mask : BitVec 8) : Statement (.gangStepStart pos mask) := rfl
theorem matrixCommandDone (core : Nat) : Statement (.matrixCommandDone core) := rfl
theorem accumulatorRelease (core : Nat) : Statement (.accumulatorRelease core) := rfl
theorem thresherGranuleRead (pos : Nat) (k : Nat) (row : Nat) : Statement (.thresherGranuleRead pos k row) := rfl
theorem thresherRow (pos : Nat) (k : Nat) (row : Nat) : Statement (.thresherRow pos k row) := rfl
theorem resultBeat (pos : Nat) (k : Nat) (stack : Nat) : Statement (.resultBeat pos k stack) := rfl
theorem sendDelivery (k : Nat) : Statement (.sendDelivery k) := rfl
theorem sendStatus (k : Nat) : Statement (.sendStatus k) := rfl
theorem message (k : Nat) : Statement (.message k) := rfl
theorem messageStatus (k : Nat) : Statement (.messageStatus k) := rfl
theorem handlerActivationStart (core : Nat) : Statement (.handlerActivationStart core) := rfl
theorem postFlit (k : Nat) : Statement (.postFlit k) := rfl
theorem postStatus (k : Nat) : Statement (.postStatus k) := rfl
theorem grantFlit (k : Nat) : Statement (.grantFlit k) := rfl
theorem grantStatus (k : Nat) : Statement (.grantStatus k) := rfl
theorem permitReturn (k : Nat) : Statement (.permitReturn k) := rfl
theorem spoolRequest (k : Nat) : Statement (.spoolRequest k) := rfl
theorem spoolAnswer (k : Nat) : Statement (.spoolAnswer k) := rfl
theorem refillRetry (lease : Nat) : Statement (.refillRetry lease) := rfl
theorem wakeFlit (k : Nat) : Statement (.wakeFlit k) := rfl
theorem cancelDelivery (k : Nat) : Statement (.cancelDelivery k) := rfl
theorem dispatch (pos : Nat) : Statement (.dispatch pos) := rfl
theorem aging (task : Nat) : Statement (.aging task) := rfl
theorem gleanerInterval (lease : Nat) : Statement (.gleanerInterval lease) := rfl
theorem arrive (k : Nat) : Statement (.arrive k) := rfl
theorem flip (k : Nat) : Statement (.flip k) := rfl
theorem nodeWait (k : Nat) : Statement (.nodeWait k) := rfl
theorem nodeAnswer (k : Nat) : Statement (.nodeAnswer k) := rfl
theorem wakeWrite (lease : Nat) (queue : Nat) (p : BitVec 32) : Statement (.wakeWrite lease queue p) := rfl
theorem queueEnable (lease : Nat) (queue : Nat) (x : BitVec 64) : Statement (.queueEnable lease queue x) := rfl
theorem queueDisable (lease : Nat) (queue : Nat) (x : BitVec 64) : Statement (.queueDisable lease queue x) := rfl
theorem registerWrite (lease : Nat) (off : Nat) (x : BitVec 64) : Statement (.registerWrite lease off x) := rfl
theorem queueEntryTake (lease : Nat) (queue : Nat) : Statement (.queueEntryTake lease queue) := rfl
theorem launchStart (k : Nat) : Statement (.launchStart k) := rfl
theorem rootAllocationRetry (k : Nat) : Statement (.rootAllocationRetry k) := rfl
theorem recordLaunchStart (lease : Nat) : Statement (.recordLaunchStart lease) := rfl
theorem launchCommit (ver : Nat) : Statement (.launchCommit ver) := rfl
theorem shadowGranuleCopy (ver : Nat) : Statement (.shadowGranuleCopy ver) := rfl
theorem launchAbort (ver : Nat) : Statement (.launchAbort ver) := rfl
theorem prepareMsg (k : Nat) : Statement (.prepareMsg k) := rfl
theorem preparedMsg (k : Nat) : Statement (.preparedMsg k) := rfl
theorem retractMsg (k : Nat) : Statement (.retractMsg k) := rfl
theorem commitMsg (k : Nat) : Statement (.commitMsg k) := rfl
theorem abortMsg (k : Nat) : Statement (.abortMsg k) := rfl
theorem abortqMsg (k : Nat) : Statement (.abortqMsg k) := rfl
theorem doneMsg (k : Nat) : Statement (.doneMsg k) := rfl
theorem launchKill (ver : Nat) : Statement (.launchKill ver) := rfl
theorem gangStop (vdev : Nat) : Statement (.gangStop vdev) := rfl
theorem engineInterruption (u : EngineUnit) : Statement (.engineInterruption u) := rfl
theorem stopWatchdog (vdev : Nat) : Statement (.stopWatchdog vdev) := rfl
theorem marker (ch : Channel) : Statement (.marker ch) := rfl
theorem contextImageWrite (lease : Nat) : Statement (.contextImageWrite lease) := rfl
theorem restore (r : Restoration) : Statement (.restore r) := rfl
theorem uncorrectableError (e : SoftError) : Statement (.uncorrectableError e) := rfl
theorem rollback : Statement .rollback := rfl
theorem correctedError (w : CorrectedAt) : Statement (.correctedError w) := rfl
theorem scrub (vdev : Nat) (pa : Nat) : Statement (.scrub vdev pa) := rfl
theorem coreDump (k : Nat) (ok : Bool) : Statement (.coreDump k ok) := rfl
theorem drainComplete (lease : Nat) (slot : Nat) : Statement (.drainComplete lease slot) := rfl
theorem routeSlotWrite (lease : Nat) (slot : Nat) (x : BitVec 256) : Statement (.routeSlotWrite lease slot x) := rfl
theorem remapWindowWrite (lease : Nat) (win : Nat) (x : BitVec 256) : Statement (.remapWindowWrite lease win x) := rfl
theorem pinnedWindow (lease : Nat) (w : PinnedReq) : Statement (.pinnedWindow lease w) := rfl
theorem chunkEnd (task : Nat) (why : Nat) : Statement (.chunkEnd task why) := rfl
theorem writeIndexUpdate (lease : Nat) : Statement (.writeIndexUpdate lease) := rfl
theorem traceEnable (lease : Nat) (x : BitVec 64) : Statement (.traceEnable lease x) := rfl
theorem traceDisable (lease : Nat) (x : BitVec 64) : Statement (.traceDisable lease x) := rfl
theorem trpWrite (lease : Nat) (r : BitVec 32) : Statement (.trpWrite lease r) := rfl
theorem levelSample (lease : Nat) (unit : Nat) (src : BitVec 8) : Statement (.levelSample lease unit src) := rfl
theorem powerSample (avgMilliWatt : Nat) : Statement (.powerSample avgMilliWatt) := rfl
theorem thermalClamp (hot : Bool) : Statement (.thermalClamp hot) := rfl
theorem overtempReset : Statement .overtempReset := rfl
theorem linkCrcReplay (link : Nat) : Statement (.linkCrcReplay link) := rfl
theorem planeTableWrite (tbl : List Nat) : Statement (.planeTableWrite tbl) := rfl
theorem flitReceive (f : WireFlit) : Statement (.flitReceive f) := rfl
theorem timeSync (t : BitVec 64) : Statement (.timeSync t) := rfl
theorem trunkControl (f : WireFlit) : Statement (.trunkControl f) := rfl
theorem debugAttach (lease : Nat) : Statement (.debugAttach lease) := rfl
theorem debugContinue (lease : Nat) : Statement (.debugContinue lease) := rfl
theorem debugChunkStop (seq : Nat) : Statement (.debugChunkStop seq) := rfl
theorem watchpointWrite (lease : Nat) (ix : Nat) (x : BitVec 128) : Statement (.watchpointWrite lease ix x) := rfl
theorem breakpointPlant (lease : Nat) (pc : BitVec 64) (code : BitVec 40) : Statement (.breakpointPlant lease pc code) := rfl
theorem deviceReset (imageOk : Bool) : Statement (.deviceReset imageOk) := rfl
theorem configurationBlob (b : ConfigBlob) : Statement (.configurationBlob b) := rfl
theorem attestationRequest (nonce : BitVec 256) : Statement (.attestationRequest nonce) := rfl
theorem leaseCreate (r : LeaseRequest) : Statement (.leaseCreate r) := rfl
theorem teardown (lease : Nat) : Statement (.teardown lease) := rfl
theorem functionLevelReset (lease : Nat) : Statement (.functionLevelReset lease) := rfl
theorem hostWrite (vdev : Nat) (pa : Nat) (bytes : List (BitVec 8)) : Statement (.hostWrite vdev pa bytes) := rfl
theorem dumpSlotFree (lease : Nat) (slot : Nat) : Statement (.dumpSlotFree lease slot) := rfl
theorem launchImageLoad (lease : Nat) (img : LaunchImage) : Statement (.launchImageLoad lease img) := rfl
theorem unpinning (lease : Nat) (win : Nat) : Statement (.unpinning lease win) := rfl
theorem endToEndAcknowledgement (src : Nat) (dst : Nat) (vc : Nat) (seq : Nat) : Statement (.endToEndAcknowledgement src dst vc seq) := rfl
theorem debuggerWrite (task : Nat) (spec : BitVec 7) (x : BitVec 2048) : Statement (.debuggerWrite task spec x) := rfl

end Sys2Proof.Laws.Encoding
end

