-- ==== Sys2Proof/Tests/Slice0.lean ====
section
/-! SUPPORT. Tests: words written out from the spec's encodings and what they decode to, ill-formed instructions that are
refused, and for every statement with hypotheses the concrete states and operands that meet them. -/
namespace Sys2Proof.Tests

open Sys2Proof Sys2Proof.Machine

set_option Elab.async false
set_option maxRecDepth 4000

/-- Instruction fields without a guard or a TRAP mark on a source. -/
def flds (dst a b c : Reg) (mod : BitVec 8) (imm : BitVec 40) : Fields :=
  ⟨⟨false, false, 0⟩, dst, mod, ⟨a, false⟩, ⟨b, false⟩, ⟨c, false⟩, imm⟩

/-- R40, R54: a word of every instruction of class 0x0, written out field by field, decodes to it and is its encoding. -/
theorem test_words_integer :
    ([
      (0x000000000000000000000000, .nop (flds (.s 0) (.s 0) (.s 0) (.s 0) 0x0 0x0)),
      (0x001004050506000000000000, .add (flds (.s 4) (.s 5) (.s 6) (.s 0) 0x5 0x0)),
      (0x002004050506000000000000, .sub (flds (.s 4) (.s 5) (.s 6) (.s 0) 0x5 0x0)),
      (0x003004050506000000000000, .mul (flds (.s 4) (.s 5) (.s 6) (.s 0) 0x5 0x0)),
      (0x004004050506000000000000, .mulh (flds (.s 4) (.s 5) (.s 6) (.s 0) 0x5 0x0)),
      (0x005004050506000000000000, .div (flds (.s 4) (.s 5) (.s 6) (.s 0) 0x5 0x0)),
      (0x006004050506000000000000, .rem (flds (.s 4) (.s 5) (.s 6) (.s 0) 0x5 0x0)),
      (0x007004050506000000000000, .and (flds (.s 4) (.s 5) (.s 6) (.s 0) 0x5 0x0)),
      (0x008004050506000000000000, .or (flds (.s 4) (.s 5) (.s 6) (.s 0) 0x5 0x0)),
      (0x009004050506000000000000, .xor (flds (.s 4) (.s 5) (.s 6) (.s 0) 0x5 0x0)),
      (0x00A004050506000000000000, .andn (flds (.s 4) (.s 5) (.s 6) (.s 0) 0x5 0x0)),
      (0x00B004050506000000000000, .shl (flds (.s 4) (.s 5) (.s 6) (.s 0) 0x5 0x0)),
      (0x00C004050506000000000000, .shr (flds (.s 4) (.s 5) (.s 6) (.s 0) 0x5 0x0)),
      (0x00D004050506000000000000, .sar (flds (.s 4) (.s 5) (.s 6) (.s 0) 0x5 0x0)),
      (0x00E004050506000000000000, .rot (flds (.s 4) (.s 5) (.s 6) (.s 0) 0x5 0x0)),
      (0x00F004050506000000000000, .min (flds (.s 4) (.s 5) (.s 6) (.s 0) 0x5 0x0)),
      (0x010004050506000000000000, .max (flds (.s 4) (.s 5) (.s 6) (.s 0) 0x5 0x0)),
      (0x011004020500000000000000, .abs (flds (.s 4) (.s 5) (.s 0) (.s 0) 0x2 0x0)),
      (0x012004020500000000000000, .clz (flds (.s 4) (.s 5) (.s 0) (.s 0) 0x2 0x0)),
      (0x013004020500000000000000, .ctz (flds (.s 4) (.s 5) (.s 0) (.s 0) 0x2 0x0)),
      (0x014004020500000000000000, .popc (flds (.s 4) (.s 5) (.s 0) (.s 0) 0x2 0x0)),
      (0x015004020500000000000000, .brev (flds (.s 4) (.s 5) (.s 0) (.s 0) 0x2 0x0)),
      (0x016004020500000000000000, .bswap (flds (.s 4) (.s 5) (.s 0) (.s 0) 0x2 0x0)),
      (0x017004040506000000000000, .bfx (flds (.s 4) (.s 5) (.s 6) (.s 0) 0x4 0x0)),
      (0x018004000506070000000000, .bfi (flds (.s 4) (.s 5) (.s 6) (.s 7) 0x0 0x0)),
      (0x0190048005005BFFFFFFFFFD, .sel (flds (.s 4) (.s 5) (.s 0) (.q 3) 0x80 0xFFFFFFFFFD)),
      (0x01A004000000000000000040, .movi ⟨⟨false, false, 0⟩, .s 4, 0, 0x40⟩),
      (0x01B054000500000000000000, .mov (flds (.p 4) (.s 5) (.s 0) (.s 0) 0x0 0x0)),
      (0x01C004200506000000001234, .lea (flds (.s 4) (.s 5) (.s 6) (.s 0) 0x20 0x1234)),
      (0x01D05A940500000000000064, .cmp (flds (.q 2) (.s 5) (.s 0) (.s 0) 0x94 0x64)),
      (0x01E059080506000000000000, .tst (flds (.q 1) (.s 5) (.s 6) (.s 0) 0x8 0x0)),
      (0x01F004010506070000000000, .mad (flds (.s 4) (.s 5) (.s 6) (.s 7) 0x1 0x0)),
      (0x020004040506000000000000, .chk (flds (.s 4) (.s 5) (.s 6) (.s 0) 0x4 0x0))] : List (Nat × Instr)).all
      (fun e => decodeTableWord 96 e.1 == some e.2 && (encode e.2).toNat == e.1) = true := by
  decide +kernel

/-- R40, R54: a word of every instruction of class 0x1, written out field by field, decodes to it and is its encoding. -/
theorem test_words_float :
    ([
      (0x100004210506000000000000, .fadd (flds (.s 4) (.s 5) (.s 6) (.s 0) 0x21 0x0)),
      (0x101004210506000000000000, .fsub (flds (.s 4) (.s 5) (.s 6) (.s 0) 0x21 0x0)),
      (0x102004210506000000000000, .fmul (flds (.s 4) (.s 5) (.s 6) (.s 0) 0x21 0x0)),
      (0x103004E00506070000000000, .ffma (flds (.s 4) (.s 5) (.s 6) (.s 7) 0xE0 0x0)),
      (0x104004210506000000000000, .fdiv (flds (.s 4) (.s 5) (.s 6) (.s 0) 0x21 0x0)),
      (0x105004600500000000000000, .fsqrt (flds (.s 4) (.s 5) (.s 0) (.s 0) 0x60 0x0)),
      (0x106004010506000000000000, .fmin (flds (.s 4) (.s 5) (.s 6) (.s 0) 0x1 0x0)),
      (0x107004010506000000000000, .fmax (flds (.s 4) (.s 5) (.s 6) (.s 0) 0x1 0x0)),
      (0x10805F180506000000000000, .fcmp (flds (.q 7) (.s 5) (.s 6) (.s 0) 0x18 0x0)),
      (0x109004000500000000000000, .fclass (flds (.s 4) (.s 5) (.s 0) (.s 0) 0x0 0x0)),
      (0x10A004840500000000000000, .fcvt (flds (.s 4) (.s 5) (.s 0) (.s 0) 0x84 0x0)),
      (0x10B004300500000000000000, .ftoi (flds (.s 4) (.s 5) (.s 0) (.s 0) 0x30 0x0)),
      (0x10C004110500000000000000, .itof (flds (.s 4) (.s 5) (.s 0) (.s 0) 0x11 0x0)),
      (0x10D004080506000000000000, .fsgn (flds (.s 4) (.s 5) (.s 6) (.s 0) 0x8 0x0))] : List (Nat × Instr)).all
      (fun e => decodeTableWord 96 e.1 == some e.2 && (encode e.2).toNat == e.1) = true := by
  decide +kernel

/-- R40, R54: a word of every instruction of class 0x2, written out field by field, decodes to it and is its encoding. -/
theorem test_words_control :
    ([
      (0x20000000000000FFFFFFFFF9, .br (flds (.s 0) (.s 0) (.s 0) (.s 0) 0x0 0xFFFFFFFFF9)),
      (0x201000000900000000000000, .jmp (flds (.s 0) (.s 9) (.s 0) (.s 0) 0x0 0x0)),
      (0x20203F00000000000000000C, .call (flds (.s 63) (.s 0) (.s 0) (.s 0) 0x0 0xC)),
      (0x20303F000900000000000000, .callr (flds (.s 63) (.s 9) (.s 0) (.s 0) 0x0 0x0)),
      (0x204000003F00000000000000, .ret (flds (.s 0) (.s 63) (.s 0) (.s 0) 0x0 0x0)),
      (0x20500700000000FFFFFFFFFF, .loop (flds (.s 7) (.s 0) (.s 0) (.s 0) 0x0 0xFFFFFFFFFF)),
      (0x206000000000000000000F0F, .qset (flds (.s 0) (.s 0) (.s 0) (.s 0) 0x0 0xF0F)),
      (0x207059005A5B000000000008, .qlog (flds (.q 1) (.q 2) (.q 3) (.s 0) 0x0 0x8))] : List (Nat × Instr)).all
      (fun e => decodeTableWord 96 e.1 == some e.2 && (encode e.2).toNat == e.1) = true := by
  decide +kernel

/-- R40, R54: a word of every instruction of class 0x3, written out field by field, decodes to it and is its encoding. -/
theorem test_words_memory :
    ([
      (0x300008230507000000000000, .ld (flds (.s 8) (.s 5) (.s 7) (.s 0) 0x23 0x0)),
      (0x301000430507080000000008, .st (flds (.s 0) (.s 5) (.s 7) (.s 8) 0x43 0x8)),
      (0x30204334050700FFFFFFFF00, .ldv (flds (.v 3) (.s 5) (.s 7) (.s 0) 0x34 0xFFFFFFFF00)),
      (0x303052040507430000000000, .stv (flds (.p 2) (.s 5) (.s 7) (.v 3) 0x4 0x0)),
      (0x304043120544520000000000, .ldg (flds (.v 3) (.s 5) (.v 4) (.p 2) 0x12 0x0)),
      (0x305052220544430000000000, .stg (flds (.p 2) (.s 5) (.v 4) (.v 3) 0x22 0x0)),
      (0x306043800506070C00000105, .ldt (flds (.v 3) (.s 5) (.s 6) (.s 7) 0x80 0xC00000105)),
      (0x307000010507000000000040, .pref (flds (.s 0) (.s 5) (.s 7) (.s 0) 0x1 0x40)),
      (0x308000010507000000000040, .clean (flds (.s 0) (.s 5) (.s 7) (.s 0) 0x1 0x40)),
      (0x309000010507000000000040, .inval (flds (.s 0) (.s 5) (.s 7) (.s 0) 0x1 0x40))] : List (Nat × Instr)).all
      (fun e => decodeTableWord 96 e.1 == some e.2 && (encode e.2).toNat == e.1) = true := by
  decide +kernel

/-- R40, R54: a word of every instruction of class 0x4, written out field by field, decodes to it and is its encoding. -/
theorem test_words_tagged_and_atomic :
    ([
      (0x400008230507000000000008, .ldf (flds (.s 8) (.s 5) (.s 7) (.s 0) 0x23 0x8)),
      (0x401008230507000000000008, .ldff (flds (.s 8) (.s 5) (.s 7) (.s 0) 0x23 0x8)),
      (0x402000230507080000000008, .ste (flds (.s 0) (.s 5) (.s 7) (.s 8) 0x23 0x8)),
      (0x403000230507080000000008, .stf (flds (.s 0) (.s 5) (.s 7) (.s 8) 0x23 0x8)),
      (0x404000030507000000000008, .sete (flds (.s 0) (.s 5) (.s 7) (.s 0) 0x3 0x8)),
      (0x405008230507000000000008, .probe (flds (.s 8) (.s 5) (.s 7) (.s 0) 0x23 0x8)),
      (0x408008830507090000000008, .aadd (flds (.s 8) (.s 5) (.s 7) (.s 9) 0x83 0x8)),
      (0x409008830507090000000008, .aand (flds (.s 8) (.s 5) (.s 7) (.s 9) 0x83 0x8)),
      (0x40A008830507090000000008, .aor (flds (.s 8) (.s 5) (.s 7) (.s 9) 0x83 0x8)),
      (0x40B008830507090000000008, .axor (flds (.s 8) (.s 5) (.s 7) (.s 9) 0x83 0x8)),
      (0x40C0080A0507090000000008, .amin (flds (.s 8) (.s 5) (.s 7) (.s 9) 0xA 0x8)),
      (0x40D0080A0507090000000008, .amax (flds (.s 8) (.s 5) (.s 7) (.s 9) 0xA 0x8)),
      (0x40E008830507090000000008, .aswp (flds (.s 8) (.s 5) (.s 7) (.s 9) 0x83 0x8)),
      (0x40F008430507090000000008, .acas (flds (.s 8) (.s 5) (.s 7) (.s 9) 0x43 0x8)),
      (0x410008830507090000000008, .aincw (flds (.s 8) (.s 5) (.s 7) (.s 9) 0x83 0x8)),
      (0x411008C20507090000000008, .afaddb (flds (.s 8) (.s 5) (.s 7) (.s 9) 0xC2 0x8)),
      (0x412008830507090000000008, .afadd (flds (.s 8) (.s 5) (.s 7) (.s 9) 0x83 0x8)),
      (0x418000030000000000000000, .fence (flds (.s 0) (.s 0) (.s 0) (.s 0) 0x3 0x0)),
      (0x419000000000000000000000, .phase (flds (.s 0) (.s 0) (.s 0) (.s 0) 0x0 0x0)),
      (0x41A000000000000000000000, .rel (flds (.s 0) (.s 0) (.s 0) (.s 0) 0x0 0x0)),
      (0x41B000000000000000000000, .acq (flds (.s 0) (.s 0) (.s 0) (.s 0) 0x0 0x0))] : List (Nat × Instr)).all
      (fun e => decodeTableWord 96 e.1 == some e.2 && (encode e.2).toNat == e.1) = true := by
  decide +kernel

/-- R40, R54: a word of every instruction of class 0x5, written out field by field, decodes to it and is its encoding. -/
theorem test_words_copy :
    ([
      (0x500009400405060102000000, .get (flds (.s 9) (.s 4) (.s 5) (.s 6) 0x40 0x102000000)),
      (0x501009400405060102000000, .put (flds (.s 9) (.s 4) (.s 5) (.s 6) 0x40 0x102000000)),
      (0x502009400405060102000000, .push (flds (.s 9) (.s 4) (.s 5) (.s 6) 0x40 0x102000000)),
      (0x503009250405060102000000, .layout (flds (.s 9) (.s 4) (.s 5) (.s 6) 0x25 0x102000000)),
      (0x504009400405060100000000, .cfill (flds (.s 9) (.s 4) (.s 5) (.s 6) 0x40 0x100000000)),
      (0x505009000000000000000000, .cquery (flds (.s 9) (.s 0) (.s 0) (.s 0) 0x0 0x0)),
      (0x506009400400000100000005, .permit (flds (.s 9) (.s 4) (.s 0) (.s 0) 0x40 0x100000005))] : List (Nat × Instr)).all
      (fun e => decodeTableWord 96 e.1 == some e.2 && (encode e.2).toNat == e.1) = true := by
  decide +kernel

/-- R40, R54: a word of every instruction of class 0x6, written out field by field, decodes to it and is its encoding. -/
theorem test_words_vector_integer :
    ([
      (0x600041484243540000000000, .vadd (flds (.v 1) (.v 2) (.v 3) (.p 4) 0x48 0x0)),
      (0x601041484243540000000000, .vsub (flds (.v 1) (.v 2) (.v 3) (.p 4) 0x48 0x0)),
      (0x602041484243540000000000, .vmul (flds (.v 1) (.v 2) (.v 3) (.p 4) 0x48 0x0)),
      (0x603041304243540000000000, .vmulh (flds (.v 1) (.v 2) (.v 3) (.p 4) 0x30 0x0)),
      (0x604041484243540000000000, .vmad (flds (.v 1) (.v 2) (.v 3) (.p 4) 0x48 0x0)),
      (0x60504190420054FFFFFFFFFF, .vand (flds (.v 1) (.v 2) (.s 0) (.p 4) 0x90 0xFFFFFFFFFF)),
      (0x60604190420054FFFFFFFFFF, .vor (flds (.v 1) (.v 2) (.s 0) (.p 4) 0x90 0xFFFFFFFFFF)),
      (0x60704190420054FFFFFFFFFF, .vxor (flds (.v 1) (.v 2) (.s 0) (.p 4) 0x90 0xFFFFFFFFFF)),
      (0x60804190420054FFFFFFFFFF, .vshl (flds (.v 1) (.v 2) (.s 0) (.p 4) 0x90 0xFFFFFFFFFF)),
      (0x60904190420054FFFFFFFFFF, .vshr (flds (.v 1) (.v 2) (.s 0) (.p 4) 0x90 0xFFFFFFFFFF)),
      (0x60A04190420054FFFFFFFFFF, .vsar (flds (.v 1) (.v 2) (.s 0) (.p 4) 0x90 0xFFFFFFFFFF)),
      (0x60B041304243540000000000, .vmin (flds (.v 1) (.v 2) (.v 3) (.p 4) 0x30 0x0)),
      (0x60C041304243540000000000, .vmax (flds (.v 1) (.v 2) (.v 3) (.p 4) 0x30 0x0)),
      (0x60D041484200540000000000, .vabs (flds (.v 1) (.v 2) (.s 0) (.p 4) 0x48 0x0)),
      (0x60E0512D4243540000000000, .vcmp (flds (.p 1) (.v 2) (.v 3) (.p 4) 0x2D 0x0)),
      (0x60F041084243540000000000, .vsel (flds (.v 1) (.v 2) (.v 3) (.p 4) 0x8 0x0)),
      (0x610041100200000000000000, .vbcast (flds (.v 1) (.s 2) (.s 0) (.s 0) 0x10 0x0)),
      (0x611001284203000000000000, .vext (flds (.s 1) (.v 2) (.s 3) (.s 0) 0x28 0x0)),
      (0x612041880200000000000007, .vins (flds (.v 1) (.s 2) (.s 0) (.s 0) 0x88 0x7)),
      (0x613041084243540000000000, .vperm (flds (.v 1) (.v 2) (.v 3) (.p 4) 0x8 0x0)),
      (0x614041104203540000000000, .vslide (flds (.v 1) (.v 2) (.s 3) (.p 4) 0x10 0x0)),
      (0x6150012B4200540000000000, .vred (flds (.s 1) (.v 2) (.s 0) (.p 4) 0x2B 0x0)),
      (0x616041034200540000000000, .vscan (flds (.v 1) (.v 2) (.s 0) (.p 4) 0x3 0x0)),
      (0x617001005200540000000000, .vpopc (flds (.s 1) (.p 2) (.s 0) (.p 4) 0x0 0x0)),
      (0x618001005200000000000000, .vfirst (flds (.s 1) (.p 2) (.s 0) (.s 0) 0x0 0x0)),
      (0x619041005200000000000000, .viota (flds (.v 1) (.p 2) (.s 0) (.s 0) 0x0 0x0)),
      (0x61A051005253000000000006, .plog (flds (.p 1) (.p 2) (.p 3) (.s 0) 0x0 0x6)),
      (0x61B041004200540000000000, .vcompress (flds (.v 1) (.v 2) (.s 0) (.p 4) 0x0 0x0)),
      (0x61C041094203540000000000, .vtopk (flds (.v 1) (.v 2) (.s 3) (.p 4) 0x9 0x0))] : List (Nat × Instr)).all
      (fun e => decodeTableWord 96 e.1 == some e.2 && (encode e.2).toNat == e.1) = true := by
  decide +kernel

/-- R40, R54: a word of every instruction of class 0x7, written out field by field, decodes to it and is its encoding. -/
theorem test_words_vector_float :
    ([
      (0x700041284243540000000000, .vfadd (flds (.v 1) (.v 2) (.v 3) (.p 4) 0x28 0x0)),
      (0x701041284243540000000000, .vfsub (flds (.v 1) (.v 2) (.v 3) (.p 4) 0x28 0x0)),
      (0x702041284243540000000000, .vfmul (flds (.v 1) (.v 2) (.v 3) (.p 4) 0x28 0x0)),
      (0x703041284243540000000000, .vffma (flds (.v 1) (.v 2) (.v 3) (.p 4) 0x28 0x0)),
      (0x704041284243540000000000, .vfdiv (flds (.v 1) (.v 2) (.v 3) (.p 4) 0x28 0x0)),
      (0x705041684200540000000000, .vfsqrt (flds (.v 1) (.v 2) (.s 0) (.p 4) 0x68 0x0)),
      (0x706041104243540000000000, .vfmin (flds (.v 1) (.v 2) (.v 3) (.p 4) 0x10 0x0)),
      (0x707041104243540000000000, .vfmax (flds (.v 1) (.v 2) (.v 3) (.p 4) 0x10 0x0)),
      (0x7080510E4243540000000000, .vfcmp (flds (.p 1) (.v 2) (.v 3) (.p 4) 0xE 0x0)),
      (0x709041684200540000000000, .vfexp2 (flds (.v 1) (.v 2) (.s 0) (.p 4) 0x68 0x0)),
      (0x70A041684200540000000000, .vflog2 (flds (.v 1) (.v 2) (.s 0) (.p 4) 0x68 0x0)),
      (0x70B041684200540000000000, .vfrcp (flds (.v 1) (.v 2) (.s 0) (.p 4) 0x68 0x0)),
      (0x70C041684200540000000000, .vfrsq (flds (.v 1) (.v 2) (.s 0) (.p 4) 0x68 0x0)),
      (0x70D001604200540000000000, .vfred (flds (.s 1) (.v 2) (.s 0) (.p 4) 0x60 0x0)),
      (0x70E041024200000000000003, .vfcvt (flds (.v 1) (.v 2) (.s 0) (.s 0) 0x2 0x3)),
      (0x70F041224200000000000002, .vftoi (flds (.v 1) (.v 2) (.s 0) (.s 0) 0x22 0x2)),
      (0x710041224200000000000002, .vitof (flds (.v 1) (.v 2) (.s 0) (.s 0) 0x22 0x2)),
      (0x711041004203040000000003, .vquant (flds (.v 1) (.v 2) (.s 3) (.s 4) 0x0 0x3)),
      (0x712041044203000000000001, .vdeq (flds (.v 1) (.v 2) (.s 3) (.s 0) 0x4 0x1)),
      (0x713041804243540000000000, .vscale (flds (.v 1) (.v 2) (.v 3) (.p 4) 0x80 0x0)),
      (0x714041084200540000000000, .vfclass (flds (.v 1) (.v 2) (.s 0) (.p 4) 0x8 0x0))] : List (Nat × Instr)).all
      (fun e => decodeTableWord 96 e.1 == some e.2 && (encode e.2).toNat == e.1) = true := by
  decide +kernel

/-- R40, R54: a word of every instruction of class 0x8, written out field by field, decodes to it and is its encoding. -/
theorem test_words_matrix :
    ([
      (0x80000900000000000000000F, .mgang (flds (.s 9) (.s 0) (.s 0) (.s 0) 0x0 0xF)),
      (0x801009010400000100000000, .mldb (flds (.s 9) (.s 4) (.s 0) (.s 0) 0x1 0x100000000)),
      (0x802009110400610100000080, .mma (flds (.s 9) (.s 4) (.s 0) (.z 1) 0x11 0x100000080)),
      (0x803009000000610000000000, .mzero (flds (.s 9) (.s 0) (.s 0) (.z 1) 0x0 0x0)),
      (0x804009600400600003000020, .mrdz (flds (.s 9) (.s 4) (.s 0) (.z 0) 0x60 0x3000020)),
      (0x805009000400610100000020, .mwrz (flds (.s 9) (.s 4) (.s 0) (.z 1) 0x0 0x100000020)),
      (0x806009000405610000000000, .mscale (flds (.s 9) (.s 4) (.s 5) (.z 1) 0x0 0x0)),
      (0x807009000000000000000000, .mrel (flds (.s 9) (.s 0) (.s 0) (.s 0) 0x0 0x0)),
      (0x808009100400000102030001, .tmv (flds (.s 9) (.s 4) (.s 0) (.s 0) 0x10 0x102030001))] : List (Nat × Instr)).all
      (fun e => decodeTableWord 96 e.1 == some e.2 && (encode e.2).toNat == e.1) = true := by
  decide +kernel

/-- R40, R54: a word of every instruction of class 0x9, written out field by field, decodes to it and is its encoding. -/
theorem test_words_task :
    ([
      (0x900009540405060000000123, .spawn (flds (.s 9) (.s 4) (.s 5) (.s 6) 0x54 0x123)),
      (0x901009080405000700000003, .spawng (flds (.s 9) (.s 4) (.s 5) (.s 0) 0x8 0x700000003)),
      (0x902009010400000000000000, .touch (flds (.s 9) (.s 4) (.s 0) (.s 0) 0x1 0x0)),
      (0x9030090004005B0000000000, .touchs (flds (.s 9) (.s 4) (.s 0) (.q 3) 0x0 0x0)),
      (0x904009004400000000000020, .touchany (flds (.s 9) (.v 4) (.s 0) (.s 0) 0x0 0x20)),
      (0x905009000405000000000000, .resolve (flds (.s 9) (.s 4) (.s 5) (.s 0) 0x0 0x0)),
      (0x906009000405060000000000, .poison (flds (.s 9) (.s 4) (.s 5) (.s 6) 0x0 0x0)),
      (0x907009000400000000000000, .cancel (flds (.s 9) (.s 4) (.s 0) (.s 0) 0x0 0x0)),
      (0x908009000400000000000000, .keep (flds (.s 9) (.s 4) (.s 0) (.s 0) 0x0 0x0)),
      (0x909009000400000000000000, .fdrop (flds (.s 9) (.s 4) (.s 0) (.s 0) 0x0 0x0)),
      (0x90A009000400000000000000, .fstat (flds (.s 9) (.s 4) (.s 0) (.s 0) 0x0 0x0)),
      (0x90B000000400000000000000, .retire (flds (.s 0) (.s 4) (.s 0) (.s 0) 0x0 0x0)),
      (0x90C000000000000000000000, .yield (flds (.s 0) (.s 0) (.s 0) (.s 0) 0x0 0x0)),
      (0x90D009000000000000000001, .fnew (flds (.s 9) (.s 0) (.s 0) (.s 0) 0x0 0x1))] : List (Nat × Instr)).all
      (fun e => decodeTableWord 96 e.1 == some e.2 && (encode e.2).toNat == e.1) = true := by
  decide +kernel

/-- R40, R54: a word of every instruction of class 0xA, written out field by field, decodes to it and is its encoding. -/
theorem test_words_message_and_barrier :
    ([
      (0xA0000901000000000000004C, .needle (flds (.s 9) (.s 0) (.s 0) (.s 0) 0x1 0x4C)),
      (0xA01009020C0D000000000000, .send (flds (.s 9) (.s 12) (.s 13) (.s 0) 0x2 0x0)),
      (0xA02009050C4D000000000000, .sendv (flds (.s 9) (.s 12) (.v 13) (.s 0) 0x5 0x0)),
      (0xA03052000000000000000000, .clr (flds (.p 2) (.s 0) (.s 0) (.s 0) 0x0 0x0)),
      (0xA0400901044506000000003F, .msg (flds (.s 9) (.s 4) (.v 5) (.s 6) 0x1 0x3F)),
      (0xA05000000400000000000005, .mbind (flds (.s 0) (.s 4) (.s 0) (.s 0) 0x0 0x5)),
      (0xA06009000405060000000000, .mpost (flds (.s 9) (.s 4) (.s 5) (.s 6) 0x0 0x0)),
      (0xA07049020000000000001003, .mtake (flds (.v 9) (.s 0) (.s 0) (.s 0) 0x2 0x1003)),
      (0xA08000000405060000000000, .binit (flds (.s 0) (.s 4) (.s 5) (.s 6) 0x0 0x0)),
      (0xA09009000400000000000000, .barr (flds (.s 9) (.s 4) (.s 0) (.s 0) 0x0 0x0)),
      (0xA0A009000405000000000000, .bwait (flds (.s 9) (.s 4) (.s 5) (.s 0) 0x0 0x0)),
      (0xA0B009000400000000000000, .barw (flds (.s 9) (.s 4) (.s 0) (.s 0) 0x0 0x0)),
      (0xA0C009000405000000000000, .blink (flds (.s 9) (.s 4) (.s 5) (.s 0) 0x0 0x0))] : List (Nat × Instr)).all
      (fun e => decodeTableWord 96 e.1 == some e.2 && (encode e.2).toNat == e.1) = true := by
  decide +kernel

/-- R40, R54: a word of every instruction of class 0xB, written out field by field, decodes to it and is its encoding. -/
theorem test_words_system :
    ([
      (0xB00009000000000000000104, .getsr (flds (.s 9) (.s 0) (.s 0) (.s 0) 0x0 0x104)),
      (0xB01000000400000000000030, .setsr (flds (.s 0) (.s 4) (.s 0) (.s 0) 0x0 0x30)),
      (0xB020000000000000000ABCDE, .trap (flds (.s 0) (.s 0) (.s 0) (.s 0) 0x0 0xABCDE)),
      (0xB03000000000000000000000, .eret (flds (.s 0) (.s 0) (.s 0) (.s 0) 0x0 0x0)),
      (0xB040000000000000000ABCDE, .brk (flds (.s 0) (.s 0) (.s 0) (.s 0) 0x0 0xABCDE)),
      (0xB05000000400000000001234, .trace (flds (.s 0) (.s 4) (.s 0) (.s 0) 0x0 0x1234)),
      (0xB06009000000000000000000, .tstamp (flds (.s 9) (.s 0) (.s 0) (.s 0) 0x0 0x0)),
      (0xB07000000405000000000018, .lpatch (flds (.s 0) (.s 4) (.s 5) (.s 0) 0x0 0x18)),
      (0xB08009000400000000000000, .larm (flds (.s 9) (.s 4) (.s 0) (.s 0) 0x0 0x0)),
      (0xB0900000440000000000007F, .patset (flds (.s 0) (.v 4) (.s 0) (.s 0) 0x0 0x7F)),
      (0xB0A04900000000000000007F, .patget (flds (.v 9) (.s 0) (.s 0) (.s 0) 0x0 0x7F)),
      (0xB0B009000405000000000000, .baste (flds (.s 9) (.s 4) (.s 5) (.s 0) 0x0 0x0))] : List (Nat × Instr)).all
      (fun e => decodeTableWord 96 e.1 == some e.2 && (encode e.2).toNat == e.1) = true := by
  decide +kernel

/-- R39, R65: the guarded instruction with a TRAP mark that the spec writes out, and its worked branch. -/
theorem test_words_written_in_the_spec :
    decodeTableWord 96 0x001D04808500000000000007 =
      some (.add ⟨⟨true, true, 2⟩, .s 4, 0x80, ⟨.s 5, true⟩, ⟨.s 0, false⟩, ⟨.s 0, false⟩, 7⟩) ∧
    decodeTableWord 96 0x20000000000000FFFFFFFFF9 = some (.br (flds (.s 0) (.s 0) (.s 0) (.s 0) 0 0xFFFFFFFFF9)) := by
  decide +kernel

/-- R52: VOID, an unassigned class, an unassigned operation, and classes 0xC to 0xF do not decode. -/
theorem test_unassigned_words :
    ([0xFFFFFFFFFFFFFFFFFFFFFFFF, 0xF00000000000000000000000, 0x021000000000000000000000, 0x406000000000000000000000,
      0xC00000000000000000000000, 0xE00000000000000000000000] : List Nat).all
        (fun w => decodeTableWord 96 w == none) = true := by
  decide +kernel

/-- R41, R47, R52: an ill-formed instruction for each check is refused: DST, SA, SB and SC with a register of another file, a
reserved specifier, an unused field in use, a TRAP mark on an unused field, bits of IMM that the entry does not use or a
value that it does not allow, GN and GQ without GE, and a modifier that the entry does not define. -/
theorem test_ill_formed_instructions_are_refused :
    ([.add (flds (.v 4) (.s 5) (.s 6) (.s 0) 0 0), .add (flds (.s 4) (.v 5) (.s 6) (.s 0) 0 0),
      .add (flds (.s 4) (.s 5) (.q 6) (.s 0) 0 0), .add (flds (.s 4) (.s 5) (.s 6) (.s 7) 0 0),
      .add (flds (.s 4) (.s 5) (.rsv 3) (.s 0) 0 0), .add (flds (.s 4) (.s 5) (.s 6) (.s 0) 0x80 0),
      .add (flds (.s 4) (.s 5) (.s 6) (.s 0) 0 1), .add (flds (.s 4) (.s 5) (.s 6) (.s 0) 0x08 0),
      .nop ⟨⟨false, true, 0⟩, .s 0, 0, ⟨.s 0, false⟩, ⟨.s 0, false⟩, ⟨.s 0, false⟩, 0⟩,
      .nop ⟨⟨false, false, 1⟩, .s 0, 0, ⟨.s 0, false⟩, ⟨.s 0, false⟩, ⟨.s 0, false⟩, 0⟩,
      .nop ⟨⟨false, false, 0⟩, .s 0, 0, ⟨.s 0, true⟩, ⟨.s 0, false⟩, ⟨.s 0, false⟩, 0⟩,
      .movi ⟨⟨false, false, 0⟩, .v 1, 0, 5⟩, .movi ⟨⟨false, false, 0⟩, .s 1, 1, 5⟩,
      .mov (flds (.v 1) (.s 2) (.s 0) (.s 0) 0 0), .fadd (flds (.s 4) (.s 5) (.s 6) (.s 0) 0xA0 0),
      .loop (flds (.s 0) (.s 0) (.s 0) (.s 0) 0 5), .qset (flds (.s 0) (.s 0) (.s 0) (.s 0) 0 0x0100),
      .ld (flds (.s 8) (.s 5) (.s 7) (.s 0) 5 0), .ldv (flds (.v 8) (.s 5) (.s 7) (.s 0) 3 0),
      .aadd (flds (.s 8) (.s 5) (.s 7) (.s 9) 1 0), .fence (flds (.s 0) (.s 0) (.s 0) (.s 0) 6 0),
      .get (flds (.s 9) (.s 4) (.s 5) (.s 6) 0x80 0), .permit (flds (.s 9) (.s 4) (.s 0) (.s 0) 0 0),
      .cquery (flds (.s 0) (.s 0) (.s 0) (.s 0) 0 0), .vadd (flds (.v 1) (.v 2) (.v 3) (.q 1) 0 0),
      .vfcvt (flds (.v 1) (.v 2) (.s 0) (.s 0) 2 4), .mma (flds (.s 9) (.s 4) (.s 0) (.z 0) 0 129),
      .mzero (flds (.s 9) (.s 0) (.s 0) (.s 1) 0 0), .touchany (flds (.s 9) (.v 4) (.s 0) (.s 0) 0 33),
      .needle (flds (.s 9) (.s 0) (.s 0) (.s 0) 3 0x50), .clr (flds (.s 0) (.s 0) (.s 0) (.s 0) 0 0),
      .mtake (flds (.v 9) (.s 0) (.s 0) (.s 0) 0 0x1100), .getsr (flds (.s 9) (.s 0) (.s 0) (.s 0) 0 0x06)] :
      List Instr).all (fun i => !i.wf) = true := by
  decide +kernel

/-- The register files with scalar registers set. -/
def scalars (r : Regs) (l : List (Fin 64 × Word)) : Regs := l.foldl (fun r e => r.setValue (.s e.1) (e.2.setWidth 2048)) r

/-- The lease of the small machine. -/
def labLease : Lease := { Lease.none with live := true, positions := [0], trapVec := 64, quota := 1000, spoolCount := 300 }

/-- Its registers: numbers, then addresses in the own window, in memory and at another core's banks. -/
def labRegs : Regs :=
  scalars Regs.zero [(1, 5), (2, 3), (3, 0xE0000000000100), (4, 0x400), (5, 0x1234567890ABCDEF), (6, 0xE00000000C0108),
    (7, 0x10400)]

/-- Its task. -/
def labTask : Task :=
  { Task.none with live := true, regs := labRegs, loom := .running, lease := 1, slot := some 0, self := 0x100000005 }

/-- A small machine: one lease with one cluster, a task in slot 0 of core 0 at address 0, two pages held by the core, and
fetch lines at 0, 0x40, 0x80 and 0x400 whose slots may all be targets. -/
def lab : State := { State.reset with
  leases := [(1, labLease)]
  clusters := [(0, { Cluster.idle with lease := 1 })]
  cores := [(0, { Core.idle with tlb := [⟨1, 0, 65536, 35⟩, ⟨1, 65536, 65536, 0x1000B⟩] })]
  tasks := [(0, labTask)]
  mem := [(63, 0xF8), (127, 0xF8), (191, 0xF8), (1087, 0xF8)]
  seq := 10 }

/-- The small machine with the task's scalar registers set. -/
def labWith (l : List (Fin 64 × Word)) : State := lab.onMe fun t => { t with regs := scalars t.regs l }

/-- What the checks of ranks 6 to 9 give when they let an access go on. -/
def clears (s : State) (t : Task) (id : Nat) (u : Use) (align : Req → Option (BitVec 8)) (reqs : List Req) :
    Option (List Part × List RowEntry) :=
  match s.check t id u align reqs with
  | .ok x => some x
  | .error _ => none

/-- The checks answer what `clears` says. -/
theorem clears_ok {s : State} {t : Task} {id : Nat} {u : Use} {align : Req → Option (BitVec 8)} {reqs : List Req}
    {x : List Part × List RowEntry} (h : clears s t id u align reqs = some x) : s.check t id u align reqs = .ok x := by
  unfold clears at h; split at h
  · next h' => rw [h', Option.some.inj h]
  · cases h

/-- The small machine with s9 and q1 empty. -/
def labEmpty : State := lab.onMe fun t => { t with regs := (t.regs.setFull (.s 9) false).setFull (.q 1) false }

/-- A pattern entry of eight bytes in the own window. -/
def tile8 : PatWord := 0x0000000800E0000000000100#512 ||| (0x04#512 <<< 56)

/-- The small machine with that entry at index 0. -/
def labTile : State := lab.onLease 1 fun l => { l with pats := [(0, tile8)] }

/-- The small machine with the tagged word at offset 0x100 full. -/
def labFull : State := { lab with tags := [(0x100, 1)] }

/-- The small machine with a store of the task on its way. -/
def labStoring : State := { lab with
  flight := [⟨3, 0, 0, 0, 0, .access ⟨.store, [⟨⟨.spad, 0x100, 0, none⟩, 8, 0⟩], 0, 0, 0, none, 8, false, 0, 0⟩⟩] }

/-- A queued command of a task. -/
def labCommand (id task : Nat) (op : EngineOp) : Command :=
  ⟨id, task, op, 0, .s 30, 0, 0, 0, 0, 0, 0, 0, 0, 0, 0, none, none, false, 0, [], none, 0, none, [], [], [], [], [], 0, 0, 0⟩

/-- The small machine whose task holds the accumulators of its core. -/
def labHolder : State := (labWith [(9, 0xBF800000)]).onCore 0 fun c => { c with holder := some 0, gang := 1 }

/-- The small machine with a matrix command of its task queued. -/
def labQueued : State := lab.onCore 0 fun c => { c with queue := [labCommand 4 0 .mma] }

/-- The small machine with a full queue for its task at the copy unit. -/
def labBusy : State := lab.onCluster 0 fun c => { c with jobs := (List.range 16).map fun i => labCommand i 0 .get }

/-- A permit for the task over the first core's bytes. -/
def labPermit : Permit := ⟨0, 0, 0, 0xBFFFF, 3⟩

/-- The small machine with that permit and a pattern entry for a destination in those bytes. -/
def labPermitted : State := labTile.onCluster 0 fun c => { c with permits := [labPermit] }

/-- A handle of the small machine's Spool entry 5. -/
def labHandle : Word := 0x5000008E4B

/-- Its check is right. -/
theorem labHandle_good : lab.goodHandle labHandle = true := by decide +kernel

/-- The small machine with an entry there and its handle in s9 and in element 0 of v8. -/
def labEntry (e : Entry) : State :=
  { lab.onMe fun t => { t with regs := (scalars t.regs [(9, labHandle)]).setValue (.v 8) (labHandle.setWidth 2048) } with
    spool := [(5, e)] }

/-- A request finds the entry. -/
theorem labEntry_finds (e : Entry) (h : e.gen = 0 ∧ e.isFree = false) : Finds (labEntry e) labHandle :=
  ⟨labHandle_good, ⟨(fun _ hg => nomatch hg), (fun _ hg => nomatch hg)⟩, h.1.trans (by decide +kernel), h.2⟩

/-- A resolved entry. -/
def labResolved : Entry := { Entry.free with state := .resolved, value := 99 }

/-- A pending entry without a task. -/
def labPending : Entry := { Entry.free with state := .pending, notask := true }

/-- Needles of the small machine's task for s8, armed once, and for v2, filled. -/
def labNeedles : State := labWith [(9, 0x100010B6), (10, 0x8480B341), (11, 0x10000)]

/-- Their checks are right. -/
theorem labNeedles_good : bits 0x100010B6#64 15 0 = checkN lab.secret 0x100010B6 ∧
    bits 0x8480B341#64 15 0 = checkN lab.secret 0x8480B341 := by decide +kernel

/-- The small machine with a full arm table. -/
def labArms : State := lab.onCluster 0 fun c => { c with arms := (List.range 4096).map fun _ => (9, .s 1) }

/-- The small machine with a root node of target 5 and phase 9 at offset 0x100, so many arrived. -/
def labNode (arrived : Nat) : State :=
  { labWith [(10, 10)] with
    spad := Memory.putNum [] 0x100 8 (5 + arrived * 65536 + 9 * 2 ^ 32), tags := [(0x100, 3), (0x108, 3)] }

/-- The small machine with no handler for traps. -/
def labNoHandler : State := lab.onLease 1 fun l => { l with trapVec := 0 }

/-- The small machine with a task inside its handler. -/
def labInHandler : State := lab.onMe fun t => { t with inh := true, trapCause := 0x16, trapPc := 0xC }

/-- The small machine with one thing on its way. -/
def labFlight (b : Body') : State := { lab with flight := [⟨3, 0, 0, 0, 0, b⟩] }

/-- An access of eight bytes at offset 0x100 for s8. -/
def labAccess (k : AccessKind) : Access := ⟨k, [⟨⟨.spad, 0x100, 0, none⟩, 8, 0⟩], 0, 0, 0, some (.s 8), 8, false, 0, 0⟩

/-- A walk of page 5 for the task. -/
def labWalk : Walk := ⟨1, 5, 0, 0, false, [.task 0 0x50000 0]⟩

/-- The small machine with that walk and a table that maps page 5 in a leaf of level 2. -/
def labWalking : State :=
  { lab.onLease 1 fun l => { l with rootPa := 0x100000 } with
    walks := [labWalk], mem := Memory.putNum (Memory.putNum [] 0x100000 8 0x180001) 0x180000 8 3 }

/-- The small machine whose task waits in a fault record. -/
def labFaulted : State := { lab.onMe fun t => { t with loom := .faulted } with faults := [labWalk] }

/-- A pattern: format, base, two extents, tile of 8 columns and 8 rows, and other fields. -/
def labPat (fmt base e0 e1 other : Nat) : PatWord :=
  BitVec.ofNat 512 ((fmt <<< 56) + base + (e0 <<< 64) + (e1 <<< 96) + (8 <<< 352) + (8 <<< 364) + other)

/-- A fill of `n` elements of a byte from offset 0x100. -/
def labFill (n : Nat) : Command := { labCommand 4 0 .cfill with px := labPat 3 0xE0000000000100 n 1 0 }

/-- The small machine with one command at its copy unit, on channel 0 or waiting. -/
def labJob (run : Bool) (c : Command) : State := lab.onCluster 0 fun x =>
  { x with jobs := [c], channels := if run then x.channels.set 0 (some c.id) else x.channels }

/-- The small machine with a matrix command started on its slice. -/
def labSlice (c : Command) : State := lab.onCore 0 fun x =>
  { x with queue := [c], buf := x.buf.set 0 (some ⟨0x03, 0, false, 0, 8, [], [], [], 8⟩) }

/-- The small machine with a command of its Thresher port. -/
def labThresher (c : Command) : State := lab.onCluster 0 fun x => { x with thresher := [c] }

/-- A started TMV of one row of i8 in the own scratchpad, with these rows computed. -/
def labTmv (reads : List Nat) (rows : List (Nat × BitVec 32)) : Command :=
  { labCommand 4 0 .tmv with
    px := labPat 3 0xE0000000000100 4 1 0, py := labPat 3 0xE0000000000200 4 1 0, pz := labPat 9 0xE0000000000300 1 1 0
    started := true, reads := reads, rows := rows, xcodes := [1, 2, 3, 4] }

/-- A triple by its last two parts. -/
theorem triple {α β γ : Type} {x : α × β × γ} {n : β} {r : γ} (h : x.2.1 = n) (h' : x.2.2 = r) : x = (x.1, n, r) := by
  rw [← h, ← h']

/-- What an engine's access gave. -/
def resOk {α : Type} (r : EngineRes α) : Option (State × α) := match r with
  | .ok s x => some (s, x)
  | _ => none

/-- An access that gave something. -/
theorem res_ok {α : Type} {r : EngineRes α} (h : (resOk r).isSome = true) :
    r = .ok ((resOk r).get h).1 ((resOk r).get h).2 := by
  cases r with
  | ok s x => rfl
  | miss v a => cases h
  | fail c a => cases h

/-- The value of an access that gave one. -/
def resSome {α : Type} (r : EngineRes (Option α)) : Option (State × α) := match r with
  | .ok s (some x) => some (s, x)
  | _ => none

/-- An access that gave a value. -/
theorem res_some {α : Type} {r : EngineRes (Option α)} (h : (resSome r).isSome = true) :
    r = .ok ((resSome r).get h).1 (some ((resSome r).get h).2) := by
  match r, h with
  | .ok s (some x), _ => rfl

/-- A triple that is there, by its parts. -/
theorem triple_get {α β γ : Type} {o : Option (α × β × γ)} (h : o.isSome = true) :
    o = some ((o.get h).1, (o.get h).2.1, (o.get h).2.2) := by
  cases o with
  | none => cases h
  | some x => rfl

/-- Where task 0 alone is there and nothing is on its way or queued, a cluster has a free index. -/
theorem index_free {s : State} (pos : Nat) (hf : s.flight = []) (hc : s.commands = []) (ht : s.tasks.map Prod.fst = [0]) :
    (s.takeIndex pos).isSome = true := by
  have hb : ∀ id, id ≠ 0 → s.indexBusy id = false := by
    intro id hid
    obtain ⟨t, ht⟩ : ∃ t, s.tasks = [(0, t)] := by
      generalize s.tasks = l at ht
      rcases l with _ | ⟨⟨k, t⟩, _ | ⟨y, l⟩⟩
      · cases ht
      · exact ⟨t, by rw [List.cons.inj ht |>.1.symm]⟩
      · cases ht
    have : s.task id = Task.none := by
      simp [State.task, Store.find, ht, Ne.symm hid]
    simp [State.indexBusy, this, hf, hc, Task.none, Task.chunkDue]
  have hn : ∀ n, 2 ≤ n → ∀ i, (s.indexFrom pos n i).isSome = true := by
    intro n hn i
    obtain ⟨m, rfl⟩ : ∃ m, n = m + 1 + 1 := ⟨n - 2, by omega⟩
    rw [State.indexFrom]
    split
    · rename_i h
      rw [State.indexFrom, if_neg]
      · rfl
      · by_cases h0 : pos * 65536 + i % 65536 = 0
        · rw [hb (pos * 65536 + (i + 1) % 65536) (by omega)]; exact Bool.false_ne_true
        · rw [hb _ h0] at h; cases h
    · rfl
  rw [State.takeIndex, Option.isSome_map]
  exact hn _ (by decide) _

/-- A pair that is there, by its parts. -/
theorem pair_get {α β : Type} {o : Option (α × β)} (h : o.isSome = true) : o = some ((o.get h).1, (o.get h).2) := by
  cases o with
  | none => cases h
  | some x => rfl

/-- A copy from beyond the scratchpad. -/
def labGet : Command :=
  { labCommand 4 0 .get with px := labPat 3 0xE0000000700000 8 1 0, py := labPat 3 0xE0000000000100 8 1 0 }

/-- A fill of more elements than a granule holds. -/
def labWide : Command := { labCommand 4 0 .cfill with px := labPat 7 0xE0000000000100 300 1 (292 <<< 364) }

/-- The fields of a needle: task, generation, register and mode. -/
def labNeedle (task gen reg mode : Nat) : Word := w64 (task * 2 ^ 32 + gen * 2 ^ 16 + reg * 2 ^ 25 + mode * 2 ^ 23)

/-- A message for handler 0, bound. -/
def labMsg : Msg := ⟨0, 0, 0, 0, 0, 0, 0, 0x80⟩

/-- The small machine whose task is an activation on a core. -/
def labActive (core : Nat) : State := lab.onMe fun t => { t with act := some ⟨core, labMsg, 0⟩ }

/-- A delay account of a sender. -/
def labAccount (sender : BitVec 32) : Account := ⟨sender, 0, 0, 0, 0, 1, 2, 3, 4, 0⟩

/-- What holds of the one member of a list holds of every member. -/
theorem forall_one {α : Type} {p : α → Prop} {l : List α} {x : α} (hl : l = [x]) (h : p x) : ∀ g ∈ l, p g := by
  intro g hg; rw [hl] at hg; rw [List.mem_singleton.1 hg]; exact h

/-- An access that gave no value but went on. -/
theorem res_unit {r : EngineRes Unit} (h : (resOk r).isSome = true) : r = .ok ((resOk r).get h).1 () := res_ok h

/-- The cluster on the die of a stack. -/
def stackPos (h : Fin 24) : Nat := h.val / 3 * 16

/-- A TMV of one row that is dealt to a stack, with W in page 0 of memory. -/
def stackTmv (h : Fin 24) : Command :=
  { labCommand 4 0 .tmv with
    px := labPat 3 0 1 3 (1 <<< 506), py := labPat 3 0xE0000000000200 1 1 0, pz := labPat 6 0xE0000000000300 3 1 0
    a := w64 (h.val % 3 + 2 ^ 32) }

/-- The small machine with its cluster there and that TMV at its Thresher port. -/
def stackState (h : Fin 24) : State :=
  { lab.onLease 1 fun l => { l with positions := [stackPos h] } with
    clusters := [(stackPos h, { Cluster.idle with lease := 1, thresher := [stackTmv h], tlb := [⟨1, 0, 65536, 35⟩] })] }

/-- The page checks of that TMV pass when page 0 lies on that stack. -/
theorem stack_pages (h : Fin 24) (hh : Config.homeStack 0 0 = h) :
    pageChecks (stackState h) ((stackState h).task (stackTmv h).task) (stackPos h) (stackTmv h) = .ok (stackState h) true := by
  have hl : ∀ h : Fin 24, (tmvRows (stackTmv h)).flatMap (fun n => (rowSpans (stackTmv h) n).flatMap fun x =>
      (pagesOf x).map fun a => (stackOf (stackTmv h) n, a)) = [(h.val % 3, 0)] := by decide +kernel
  have hr : ∀ h : Fin 24, (stackState h).resolveEngine ((stackState h).task (stackTmv h).task) (stackPos h) (w64 0) =
      .ok ⟨.mem 0, 0, 0, none⟩ true none := by decide +kernel
  have hp : ∀ h : Fin 24, ((0 / 2 ^ 54 * 8 + h.val / 3 == dieOf (stackPos h)) && h.val % 3 == h.val % 3) = true := by
    decide +kernel
  have hs : (stackState h).onStack ((stackState h).task (stackTmv h).task) (stackPos h) (h.val % 3) 0 = .ok (stackState h) true := by
    rw [State.onStack, hr h]
    show EngineRes.ok _ (0 / 2 ^ 54 * 8 + (Config.homeStack (0 / 2 ^ 54) (0 % 2 ^ 54 / 65536)).val / 3 == _ && _) = _
    rw [show Config.homeStack (0 / 2 ^ 54) (0 % 2 ^ 54 / 65536) = h from hh, hp h]
  rw [pageChecks, hl h, allOnStack, hs]; rfl

/-- An access that gave a pair. -/
theorem res_pair {α β : Type} {r : EngineRes (α × β)} (h : (resOk r).isSome = true) :
    r = .ok ((resOk r).get h).1 (((resOk r).get h).2.1, ((resOk r).get h).2.2) := res_ok h

/-- An option that is there. -/
theorem opt_get {α : Type} {o : Option α} (h : o.isSome = true) : o = some (o.get h) := (Option.some_get h).symm

/-- A result by its value. -/
theorem is_ok {ε α : Type} {c : Except ε α} {x : α} (h : c.toOption = some x) : c = .ok x := by
  cases c with
  | ok y => rw [Option.some.inj h]
  | error e => cases h

/-- The error of a result. -/
def errOf {ε α : Type} (c : Except ε α) : Option ε := match c with
  | .error e => some e
  | .ok _ => none

/-- An error by its value. -/
theorem is_error {ε α : Type} {c : Except ε α} {e : ε} (h : errOf c = some e) : c = .error e := by
  cases c with
  | ok y => cases h
  | error e => rw [Option.some.inj h]

/-- A task that waits for nothing waits for no trap. -/
theorem no_trap {w : Wait} (h : w = .no) : ∀ c a i, w ≠ .trap c a i := by subst h; nofun

/-- The small machine with a host queue. -/
def labHost (qctl : Word) (pidx cidx : BitVec 32) : State := lab.onLease 1 fun l =>
  { l with queues := l.queues.set 0 { HostQueue.reset with qctl := qctl, pidx := pidx, cidx := cidx } }

/-- A start of the lease. -/
def labStart (data : Word) (waits : Bool) : Launch := { Launch.none with lease := 1, data := data, waits := waits, state := .starting }

/-- The small machine with that start. -/
def labStarting (data : Word) (waits : Bool) : State := { lab with starts := [(0, labStart data waits)] }

/-- A start goes on when a version, an entry and a task index are there. -/
theorem start_some {s : State} {l : Launch} {core : Nat} (h1 : (!l.versioned && !s.versionFree l.lease) = false)
    (h2 : (s.freeCount (s.lease (s.cluster (core / 8)).lease) (dieOf (core / 8)) < 1 || 65536 ≤ s.indicesUsed (core / 8)) = false)
    (h3 : ((if l.versioned then (s, l.ver) else s.takeVersion).1.allocate (s.cluster (core / 8)).lease (dieOf (core / 8)) 0
      { Entry.free with
        live := true, ver := BitVec.ofNat 16 (if l.versioned then (s, l.ver) else s.takeVersion).2 }).isSome = true)
    (h4 : (Option.get _ h3).1.flight = []) (h5 : (Option.get _ h3).1.commands = [])
    (h6 : (Option.get _ h3).1.tasks.map Prod.fst = [0]) : (s.startLaunch l core).isSome = true := by
  rw [State.startLaunch]
  simp only [h1, h2, Bool.false_eq_true, if_false]
  rw [triple_get h3]
  simp only [Option.bind_some, Option.isSome_map]
  exact index_free _ h4 h5 h6

/-- A launch whose root has resolved its entry. -/
def labLaunch : Launch := { Launch.none with ver := 2, lease := 1, root := labHandle, state := .running }

/-- The small machine with a launch, on one die or on two. -/
def labLaunched (two : Bool) (l : Launch) : State :=
  { lab with
    clusters := if two then lab.clusters ++ [(16, { Cluster.idle with lease := 1 })] else lab.clusters
    spool := [(5, labResolved)], launches := [(2, l)] }

/-- The same with a control message on its way. -/
def labCtrl (two : Bool) (l : Launch) (m : Ctrl) : State := { labLaunched two l with flight := [⟨3, 0, 0, 0, 3, .ctrl m⟩] }

/-- An empty basting point. -/
def labBasted : Basted where
  ver := 2
  covered := []
  tasks := []
  cores := []
  clusters := []
  spool := []
  spad := []
  tags := []
  nodes := []
  bank := []
  spans := []
  saved := []
  flight := []
  leases := []
  launches := []
  order := 0
  walks := []
  faults := []
  dumps := []

/-- The small machine with a basting point of its lease and an error that waits for a rollback. -/
def labBastedState : State := { lab with
  basted := some { labBasted with
    covered := [1], tasks := [(0, labTask)], spad := [(0x100, 7)], spans := [(64, 64)], saved := [(65, 9)], leases := lab.leases }
  pendingError := some (.memory 0 0x400) }

/-- What holds of the value of an option that is there. -/
theorem forall_some {α : Type} {p : α → Prop} {x : α} (h : p x) : ∀ k, some x = some k → p k := by
  intro k hk; rw [← Option.some.inj hk]; exact h

/-- The small machine with fields of its lease changed. -/
def labLeased (f : Lease → Lease) : State := lab.onLease 1 f

/-- The small machine in a debug stop. -/
def labDebug : State :=
  { labLeased fun l => { l with debugger := true } with stop := .debug, stoppedAt := some (0, 0x3F) }

/-- A flit of a kind. -/
def labFlit (kind : Nat) (trunk : Bool) : WireFlit := ⟨BitVec.ofNat 128 (kind <<< 100), 0, 0, 1, 0, 0, trunk⟩

/-- The small machine, booted and configured, with one link up. -/
def labDevice : State := { lab with
  device := { lab.device with booted := true, configured := true, powerLimit := 1 }
  fabric := { lab.fabric with links := 1, domain := [0], deviceMap := [(1, 0, 0)], kept := [labFlit 1 false] } }

/-- A request for a lease on four clusters. -/
def labRequest : LeaseRequest where
  lease := 1
  phys := 0
  group := 0
  positions := [0, 1, 2, 3]
  secret := []
  key := []
  spoolFirst := 0
  spoolCount := 16384
  quota := 15000
  spillArea := 0x10000000
  frameArea := 0x20000000
  holdArea := 0x30000000
  dumpArea := 0
  dumpSlots := 0
  bastingArea := 0x40000000
  chunkLog := 0x50000000
  chunkLogSize := 0x10000
  fillMask := 15
  age := 16
  glean := 8192
  inbox := 256
  chunk := 4096
  rollback := 3
  record := false
  replay := false
  shadow := 65536
  retry := 0
  directFlags := 0
  trapVec := 0
  rootVdev := 0
  rootPa := 0

/-- The small machine about to issue its task's instruction. -/
def labIssue : State := { lab with agenda := [.issue 0] }


/-- What the checks let through, by its parts. -/
theorem cleared {s : State} {u : Use} {align : Req → Option (BitVec 8)} {reqs : List Req}
    (h : (clears s s.me s.cur u align reqs).isSome = true) :
    Cleared s u align reqs ((clears s s.me s.cur u align reqs).get h).1 :=
  ⟨_, clears_ok (Option.some_get h).symm⟩

/-- A part of eight bytes of memory. -/
def P8 : Part := ⟨⟨.mem 0, 0x400, 0x400, none⟩, 8, 0⟩

/-- The same, with a first part. -/
theorem cleared_cons {s : State} {u : Use} {align : Req → Option (BitVec 8)} {reqs : List Req}
    (h : (clears s s.me s.cur u align reqs).isSome = true)
    (h' : ((clears s s.me s.cur u align reqs).get h).1 ≠ []) :
    Cleared s u align reqs (((clears s s.me s.cur u align reqs).get h).1.headD P8 ::
      ((clears s s.me s.cur u align reqs).get h).1.tail) := by
  have hc : ∀ l : List Part, l ≠ [] → l.headD P8 :: l.tail = l := fun l hl => by
    cases l with
    | nil => exact absurd rfl hl
    | cons x y => rfl
  rw [hc _ h']; exact cleared h

/-- A member of a list by its place. -/
theorem getElem_in {α : Type} {l : List α} {i : Nat} (h : i < l.length) : l[i] ∈ l := List.getElem_mem h

/-- What the checks let through, by its value. -/
theorem cleared_is {s : State} {u : Use} {align : Req → Option (BitVec 8)} {reqs : List Req} {parts : List Part}
    (h : (clears s s.me s.cur u align reqs).map Prod.fst = some parts) : Cleared s u align reqs parts := by
  cases hc : clears s s.me s.cur u align reqs with
  | none => rw [hc] at h; cases h
  | some x =>
    rw [hc] at h; cases h
    exact ⟨_, clears_ok hc⟩

/-- The checks let a barrier instruction go on to its node at offset 0x100. -/
theorem node_checked {f : Fields} {s : State} {p : Part} {ps : List Part} {rows : List RowEntry}
    (h : ((s.workingF f).check (s.workingF f).me s.cur (.tagged false) nodeAlign
      [⟨s.sa f, 16, 0, [(s.sa f, 8, 0), (s.sa f + 8, 8, 8)]⟩]).toOption = some (p :: ps, rows)) :
    NodeChecked f s (if rows.isEmpty then s.workingF f else (s.workingF f).keepRows s.me.core rows) p.loc :=
  ⟨p, ps, rows, is_ok h, rfl, rfl⟩

/-- The next state of an outcome. -/
def nextOf {σ φ ρ : Type} (o : Host.Outcome σ φ ρ) : Option σ := match o with
  | .next s => some s
  | _ => none

/-- An outcome that is a next state. -/
theorem next_get {σ φ ρ : Type} {o : Host.Outcome σ φ ρ} (h : (nextOf o).isSome = true) : o = .next ((nextOf o).get h) := by
  cases o with
  | next s => rfl
  | fault r => cases h
  | refused r => cases h

/-- What holds of both members of a list holds of every member. -/
theorem forall_two {α : Type} {p : α → Prop} {l : List α} {x y : α} (hl : l = [x, y]) (hx : p x) (hy : p y) : ∀ g ∈ l, p g := by
  intro g hg; rw [hl] at hg
  rcases List.mem_cons.1 hg with rfl | hg
  · exact hx
  · rw [List.mem_singleton.1 hg]; exact hy

/-- A poisoned entry. -/
def labPoisoned : Entry := { Entry.free with state := .poisoned, cause := 0x18, record := 7 }

/-- What holds of 0 holds of every number below 1. -/
theorem forall_lt_one {p : Nat → Prop} (h : p 0) : ∀ i, i < 1 → p i := by
  intro i hi; rw [Nat.lt_one_iff.1 hi]; exact h

/-- A part of eight bytes of the own window. -/
def S8 : Part := ⟨⟨.spad, 0x100, 0xE0000000000100, none⟩, 8, 0⟩
/-- The small machine with an uncorrectable word at offset 0x100. -/
def labMarked : State := { lab with spoilt := [0x100 / 8] }

/-- The small machine with uncorrectable errors in s1 and q1. -/
def labSpoil : State := lab.onMe fun t => { t with spoiled := [.s 1, .q 1] }

/-- The small machine with s9 and q1 empty and a cancellation standing. -/
def labCanp : State := labEmpty.onMe fun t => { t with canp := true }

/-- The small machine with PRIVATE, PHASED and READONLY lines in its L1. -/
def labL1 : State := (lab.onCore 0 fun c => { c with l1 := [⟨false, 16, 0x1122334455667788, 0xFF, 0x0F, 0, 0, 0, false, false, false⟩, ⟨false, 17, 0x1122334455667788, 0xFF, 0x0F, 0, 0, 2, false, false, false⟩, ⟨false, 18, 0x1122334455667788, 0xFF, 0, 0, 0, 3, false, false, false⟩] }).onMe fun t => { t with touched := [.s 1] }

/-- The same fields under the guard q1. -/
def g1f (f : Fields) : Fields := { f with guard := ⟨true, false, 1⟩ }

/-- The small machine with a release on its way. -/
def labReleasing : State := { lab with flight := [⟨3, 0, 0, 0, 0, .release⟩] }

/-- The small machine with s3 and s4 at the last bytes of a core's banks. -/
def labEdge : State := labWith [(3, 0xE00000000BFFFC), (4, 0xE00000000BFFFC)]

/-- The small machine whose holder has a full matrix queue. -/
def labG8 : State := lab.onCore 0 fun c => { c with queue := (List.range 8).map fun i => labCommand i 0 .mma, holder := some 0, gang := 1 }

/-- The second word of a node at offset 0x100. -/
def S8c : Part := ⟨⟨.spad, 0x108, 0xE0000000000108, none⟩, 8, 8⟩

/-- The small machine with two READY tasks, the first of them with a malformed frame in its record. -/
def labMalformed : State := { labWalking with
  walks := [], tasks := [(0, { labTask with loom := .ready, slot := none, inRecord := true, record := 0x50000 }), (1, { labTask with loom := .ready, slot := none })] }

/-- Its other checks pass and its operands can be read, on every stack. -/
theorem stack_rest (h : Fin 24) : (stackState h).job? (.thresher (stackPos h)) 4 = some (stackTmv h) ∧
    (stackState h).enginesRun (stackPos h) = true ∧ (stackState h).commandWaits 4 = false ∧
    portMayRun ((stackState h).jobs (.thresher (stackPos h))) (stackTmv h) = true ∧
    (stackTmv h).status = none ∧ (stackTmv h).started = false ∧
    tmvCheck (stackState h) (stackPos h) (stackTmv h) = none := by
  revert h; decide +kernel

/-- Its operands can be read, on every stack. -/
theorem stack_read (h : Fin 24) :
    (resOk (readOperands ((stackState h).task (stackTmv h).task) (stackPos h) (stackTmv h) (stackState h))).isSome = true := by
  revert h; decide +kernel

/-- A number laid out has its length. -/
theorem leBytes_length (n x : Nat) : (leBytes n x).length = n := by
  induction n generalizing x with
  | zero => rfl
  | succ n ih => simp [leBytes, ih]

/-- The state of Keccak has 25 lanes. -/
theorem keccakF_length (a : List Nat) (h : a.length = 25) : (keccakF a).length = 25 := by
  have : ∀ l : List Nat, ∀ a : List Nat, a.length = 25 → (l.foldl keccakRound a).length = 25 := by
    intro l
    induction l with
    | nil => exact fun a h => h
    | cons x l ih => exact fun a _ => ih _ (by simp [keccakRound])
  exact this _ _ h

/-- And keeps them. -/
theorem absorbAll_length (n : Nat) (a : List Nat) (bs : List Byte) (h : a.length = 25) : (absorbAll n a bs).length = 25 := by
  induction n generalizing a bs with
  | zero => exact h
  | succ n ih =>
    rw [absorbAll]
    split
    · exact h
    · exact ih _ _ (keccakF_length _ (by simp))

/-- A KMAC256 of 512 bits has 64 bytes. -/
theorem kmac256_length (key msg : List Byte) (n : Nat) (c : String) : (kmac256 key msg n c).length = 64 := by
  rw [kmac256, sponge, List.length_flatMap]
  simp only [leBytes_length, List.map_const', List.sum_replicate_nat, List.length_take]
  rw [absorbAll_length _ _ _ (by simp)]; rfl

/-- A piece of bytes behind others. -/
theorem slice_skip (a b : List Byte) (i n : Nat) (h : a.length ≤ i) : imageSlice (a ++ b) i n = imageSlice b (i - a.length) n := by
  rw [imageSlice, imageSlice, List.drop_append, List.drop_eq_nil_of_le h, List.nil_append]

/-- The first piece of bytes. -/
theorem slice_head (a b : List Byte) (n : Nat) (h : a.length = n) : imageSlice (a ++ b) 0 n = a := by
  subst h; simp [imageSlice]

/-- One of many equal pieces. -/
theorem slice_copies (t : List Byte) (ht : t.length = 64) (n i : Nat) (h : i < n) :
    imageSlice (List.replicate n t).flatten (64 * i) 64 = t := by
  induction n generalizing i with
  | zero => cases h
  | succ n ih =>
    rw [List.replicate_succ, List.flatten_cons]
    match i with
    | 0 => exact slice_head _ _ _ ht
    | i + 1 =>
      rw [slice_skip _ _ _ _ (by omega), ht, show 64 * (i + 1) - 64 = 64 * i by omega]
      exact ih i (by omega)

/-- So many bytes of zero. -/
def labZeros (n : Nat) : List Byte := List.replicate n 0

/-- Their number. -/
theorem labZeros_length (n : Nat) : (labZeros n).length = n := List.length_replicate

/-- The die quarter of a small image behind its header and tag: fields of zeros, and the same tag for every block. -/
def labFields (t : List Byte) : List Byte := labZeros 11456 ++ (List.replicate 36 t).flatten

/-- The tag of the small image. -/
def labTag (key : List Byte) : List Byte :=
  imageTag key (labZeros 256 ++ labZeros 64 ++ labFields (blockTag key [])) (List.replicate 36 (blockTag key []))

/-- The small image of a lease that has no blocks: no byte of it but its tags is set. -/
def labImage (key : List Byte) : List Byte := labZeros 256 ++ (labTag key ++ labFields (blockTag key []))

/-- A tag has 64 bytes. -/
theorem labTag_length (key : List Byte) : (labTag key).length = 64 := by
  rw [labTag, imageTag]; exact kmac256_length _ _ _ _

/-- So has the tag of a block. -/
theorem blockTag_length (key x : List Byte) : (blockTag key x).length = 64 := by
  rw [blockTag]; exact kmac256_length _ _ _ _

/-- The length of those fields. -/
theorem labFields_length {t : List Byte} (ht : t.length = 64) : (labFields t).length = 13760 := by
  rw [labFields, List.length_append, labZeros_length, List.length_flatten, List.map_replicate, ht]; rfl

/-- Behind its die quarter the small image has nothing. -/
theorem labImage_end (key : List Byte) (i n : Nat) (h : 14080 ≤ i) : imageSlice (labImage key) i n = [] := by
  rw [imageSlice, List.drop_eq_nil_of_le, List.take_nil]
  rw [labImage, List.length_append, List.length_append, labZeros_length, labTag_length,
    labFields_length (blockTag_length _ _)]
  exact h

/-- The small image passes the checks of a restore. -/
theorem labImage_ok (key : List Byte) : tagsHold key (labImage key) = true ∧ framesHold (labImage key) = true := by
  have ht := blockTag_length key []
  have hT : ∀ i, i < 36 → imageSlice (labImage key) (0x2E00 + 64 * i) 64 = blockTag key [] := by
    intro i hi
    rw [labImage, slice_skip _ _ _ _ (by rw [labZeros_length]; omega), labZeros_length,
      slice_skip _ _ _ _ (by rw [labTag_length]; omega), labTag_length, labFields,
      slice_skip _ _ _ _ (by rw [labZeros_length]; omega), labZeros_length,
      show 0x2E00 + 64 * i - 256 - 64 - 11456 = 64 * i by omega]
    exact slice_copies _ ht _ _ hi
  have hm : (List.range 36).map (fun i => imageSlice (labImage key) (0x2E00 + 64 * i) 64) = List.replicate 36 (blockTag key []) := by
    rw [List.map_congr_left fun i hi => hT i (List.mem_range.1 hi), List.map_const', List.length_range]
  have h0 : imageSlice (labImage key) 0 0x100 = labZeros 256 := slice_head _ _ _ (labZeros_length _)
  have hr : imageSlice (labImage key) 0x140 0x3EC0 = labFields (blockTag key []) := by
    rw [labImage, slice_skip _ _ _ _ (by rw [labZeros_length] <;> decide), labZeros_length,
      slice_skip _ _ _ _ (by rw [labTag_length] <;> decide), labTag_length, imageSlice]
    exact List.take_of_length_le (by rw [List.length_drop, labFields_length ht]; decide)
  have h1 : imageSlice (labImage key) 0x100 64 = labTag key := by
    rw [labImage, slice_skip _ _ _ _ (by rw [labZeros_length] <;> decide), labZeros_length]
    exact slice_head _ _ _ (labTag_length _)
  constructor
  · rw [tagsHold, Bool.and_eq_true]
    refine ⟨List.all_eq_true.2 fun i hi => ?_, ?_⟩
    · have : 14080 ≤ (imageBlockAt i).1 := by
        rw [imageBlockAt]; split
        · exact Nat.le_trans (by decide) (Nat.le_add_right _ _)
        · exact Nat.le_trans (by decide) (Nat.le_add_right _ _)
      rw [hT i (List.mem_range.1 hi), labImage_end key _ _ this]; exact beq_self_eq_true _
    · rw [hm, h0, hr, h1]; exact beq_self_eq_true (labTag key)
  · rw [framesHold]
    refine List.all_eq_true.2 fun k _ => List.all_eq_true.2 fun i _ => ?_
    show (leNat (imageSlice (labImage key) (0x104000 + k * 0xF7000 + 0xF6000 + 4 * i) 4) % 2 == 0 || _) = true
    rw [labImage_end key _ 4 (by omega)]; rfl

/-- The small machine with that image. -/
def labImaged : State := { lab with
  images := [(1, labImage lab.leaseKey)], fabric := { lab.fabric with domain := [0] } }

/-- A restore loads it. -/
theorem labImaged_restorable : labImaged.restorable [] ≠ [] := by
  have h := labImage_ok lab.leaseKey
  have : labImaged.restorable [] = [1] := by
    show (List.filter _ [_]).map _ = _
    rw [List.filter_cons_of_pos]
    · rfl
    · show (tagsHold lab.leaseKey (labImage lab.leaseKey) && framesHold (labImage lab.leaseKey) && labImaged.recordsHold 1) = true
      rw [h.1, h.2]; decide +kernel
  rw [this]; exact List.cons_ne_nil _ _

/-- The hypotheses of the clauses of `RegisterWriteReadsBack` can be met. -/
theorem test_register_write_reads_back :
    (∃ (n : Fin 64), n ≠ 0) ∧
    (∃ (r r' : Reg), r ≠ r') :=
  ⟨⟨1, by decide +kernel⟩,
   ⟨.s 0, .s 1, by decide +kernel⟩⟩

/-- The hypotheses of the clauses of `NextPcFollowsTheLine` can be met. -/
theorem test_next_pc_follows_the_line :
    (∃ (pc : Word), legalPc pc = true ∧ slotOf pc < 4) ∧
    (∃ (pc : Word), legalPc pc = true ∧ slotOf pc = 4) ∧
    (∃ (pc : Word), legalPc pc = true ∧ pc.toNat + 16 < 2 ^ 64) :=
  ⟨⟨0, by decide +kernel⟩,
   ⟨48, by decide +kernel⟩,
   ⟨0, by decide +kernel⟩⟩

/-- The hypotheses of the clauses of `WidthOperationsComplete` can be met. -/
theorem test_width_operations_complete :
    ∃ (e : (Fields → Instr) × (IntArgs → Int)) (f : Fields) (s : State), e ∈ widthRule ∧ NotGuard f.dst ∧ ReadyF f s
      :=
  ⟨(widthRule)[0]'(by decide), flds (.s 8) (.s 1) (.s 2) (.s 5) 0 0, lab, getElem_in _, by decide +kernel⟩

/-- The hypotheses of the clauses of `DivisionCompletesOrTraps` can be met. -/
theorem test_division_completes_or_traps :
    (∃ (f : Fields) (s : State), NotGuard f.dst ∧ ReadyF f s ∧ (intArgs f s).b ≠ 0) ∧
    (∃ (f : Fields) (s : State), NotGuard f.dst ∧ ReadyF f s ∧ (intArgs f s).b = 0) ∧
    (∃ (f : Fields) (s : State), NotGuard f.dst ∧ ReadyF f s ∧ (intArgs f s).b = 0 ∧ s.me.inh = false ∧ (s.lease
      s.me.lease).trapVec ≠ 0) :=
  ⟨⟨flds (.s 8) (.s 1) (.s 2) (.s 5) 0 0, lab, by decide +kernel⟩,
   ⟨flds (.s 8) (.s 4) (.s 0) (.s 5) 3 0, lab, by decide +kernel⟩,
   ⟨flds (.s 8) (.s 4) (.s 0) (.s 5) 3 0, lab, by decide +kernel⟩⟩

/-- The hypotheses of the clauses of `FloatOperationsComplete` can be met. -/
theorem test_float_operations_complete :
    ∃ (e : (Fields → Instr) × (Fields → Fmt → Round → Word → Word → Word → Nat)) (f : Fields) (s : State), e ∈
      floatRule ∧ NotGuard f.dst ∧ ReadyF f s :=
  ⟨(floatRule)[0]'(by decide), flds (.s 8) (.s 1) (.s 2) (.s 5) 0 0, lab, getElem_in _, by decide +kernel⟩

/-- The hypotheses of the clauses of `LaneOperationsComplete` can be met. -/
theorem test_lane_operations_complete :
    ∃ (e : (Fields → Instr) × (State → Fields → Nat × Bool × (Nat → Nat))) (f : Fields) (s : State), e ∈ laneRule ∧
      NotGuard f.dst ∧ Ready f.guard (sourcesOf f) (if (e.2 s f).2.1 then [f.dst] else mergeReads f) [f.dst] s :=
  ⟨(laneRule)[0]'(by decide), flds (.v 6) (.v 1) (.v 2) (.p 0) 0 0, lab, getElem_in _, by decide +kernel⟩

/-- The hypotheses of the clauses of `ValueInstructionsComplete` can be met. -/
theorem test_value_instructions_complete :
    (∃ (e : (Fields → Instr) × (State → Fields → Option (List Reg × VWord))) (f : Fields) (more : List Reg) (x :
      VWord) (s : State), e ∈ valueRule ∧ e.2 s f = some (more, x) ∧ Ready f.guard (sourcesOf f) more [f.dst] s) ∧
    (∃ (f : Fields) (s : State), ReadyF f s ∧ 2048 / vecWidth f.mod ≤ (second f s).toNat) ∧
    (∃ (f : Fields) (s : State), ReadyF f s ∧ 2048 / vecWidth f.mod ≤ (second f s).toNat ∧ s.me.full f.dst = true ∧
      s.me.landing [f.dst] = false) ∧
    (∃ (f : Fields) (s : State), ReadyF f s ∧ ((second f s).toNat = 0 ∨ 64 < (second f s).toNat)) ∧
    (∃ (f : Fields) (s : State), ReadyF f s ∧ (¬ (0 ≤ (intArgs f s).a ∧ (intArgs f s).a < (intArgs f s).b))) :=
  ⟨⟨(valueRule)[0]'(by decide), flds (.s 8) (.s 1) (.s 2) (.s 5) 0 0, _, _, lab, getElem_in _, pair_get
     (by decide +kernel), by decide +kernel⟩,
   ⟨flds (.s 8) (.v 1) (.s 1) (.s 0) 2 0, labWith [(1, 64)], by decide +kernel⟩,
   ⟨flds (.s 8) (.v 1) (.s 1) (.s 0) 2 0, labWith [(1, 64)], by decide +kernel⟩,
   ⟨flds (.s 8) (.s 4) (.s 0) (.s 5) 3 0, lab, by decide +kernel⟩,
   ⟨flds (.s 8) (.s 1) (.s 2) (.s 5) 0 0, lab, by decide +kernel⟩⟩

/-- The hypotheses of the clauses of `ComparisonsAndPlainMovesComplete` can be met. -/
theorem test_comparisons_and_plain_moves_complete :
    (∃ (e : (Fields → Instr) × (State → Fields → Bool)) (f : Fields) (s : State), e ∈ guardRule ∧ ReadyF f s) ∧
    (∃ (f : LFields) (s : State), NotGuard f.dst ∧ Ready f.guard [] [] [f.dst] s) ∧
    (∃ (f : Fields) (s : State), Ready f.guard [] [] ((qsetRegs f.imm).map Reg.q) s) ∧
    (∃ (f : Fields) (s : State), ReadyF f s) ∧
    (∃ (f : Fields) (s : State), Ready f.guard [] [] [] s) :=
  ⟨⟨(guardRule)[0]'(by decide), flds (.s 8) (.s 1) (.s 2) (.s 5) 0 0, lab, getElem_in _, by decide +kernel⟩,
   ⟨⟨⟨false, false, 0⟩, .s 8, 0, 77⟩, lab, by decide +kernel⟩,
   ⟨flds (.s 8) (.s 1) (.s 2) (.s 5) 0 0, lab, by decide +kernel⟩,
   ⟨flds (.s 8) (.s 1) (.s 2) (.s 5) 0 0, lab, by decide +kernel⟩,
   ⟨flds (.s 8) (.s 1) (.s 2) (.s 5) 0 0, lab, by decide +kernel⟩⟩

/-- The hypotheses of the clauses of `GuardsAndEmptySourcesDecide` can be met. -/
theorem test_guards_and_empty_sources_decide :
    (∃ (g : Guard) (s : State) (e : Fields → Instr) (f : Fields), e ∈ coreLocal ∧ s.me.live = true ∧ guardTest g s.me
      = some false ∧ .q g.q ∉ s.me.spoiled ∧ f.guard = g) ∧
    (∃ (g : Guard) (s : State) (f : LFields), s.me.live = true ∧ guardTest g s.me = some false ∧ .q g.q ∉ s.me.spoiled
      ∧ f.guard = g) ∧
    (∃ (g : Guard) (s : State) (e : Fields → Instr) (f : Fields), e ∈ coreLocal ∧ s.me.live = true ∧ guardTest g s.me
      = none ∧ f.guard = g) ∧
    (∃ (g : Guard) (s : State) (f : LFields), s.me.live = true ∧ guardTest g s.me = none ∧ f.guard = g) ∧
    (∃ (i : Fields → Instr) (f : Fields) (s : State) (n : Nat) (x : Src), i ∈ sourceReaders ∧ firstEmpty s.me
      (sourcesOf f) = some (n, x) ∧ s.me.live = true ∧ guardTest f.guard s.me = some true ∧ s.me.landing (sourceRegs
      f) = false ∧ x.trap = true) ∧
    (∃ (i : Fields → Instr) (f : Fields) (s : State) (n : Nat) (x : Src), i ∈ sourceReaders ∧ firstEmpty s.me
      (sourcesOf f) = some (n, x) ∧ s.me.live = true ∧ guardTest f.guard s.me = some true ∧ s.me.landing (sourceRegs
      f) = false ∧ x.trap = false ∧ s.me.canp = false) ∧
    (∃ (i : Fields → Instr) (f : Fields) (s : State) (n : Nat) (x : Src), i ∈ sourceReaders ∧ firstEmpty s.me
      (sourcesOf f) = some (n, x) ∧ s.me.live = true ∧ guardTest f.guard s.me = some true ∧ s.me.landing (sourceRegs
      f) = false ∧ x.trap = false ∧ s.me.canp = true) ∧
    (∃ (i : Fields → Instr) (f : Fields) (s : State) (r : Reg), i ∈ widthRule.map (·.1) ++ floatRule.map (·.1) ++
      guardRule.map (·.1) ∧ s.me.live = true ∧ guardTest f.guard s.me = some true ∧ (∀ x ∈ sourcesOf f, s.me.full
      x.2.reg = true) ∧ s.me.landing (sourceRegs f) = false ∧ s.pendingOn s.cur f.dst = false ∧ r ∈ s.me.spoiled ∧ r ∈
      readRegs f.guard (sourcesOf f) []) :=
  ⟨⟨⟨true, false, 1⟩, lab, (coreLocal)[0]'(by decide), g1f (flds (.s 8) (.s 1) (.s 2) (.s 5) 0 0), getElem_in _,
     by decide +kernel⟩,
   ⟨⟨true, false, 1⟩, lab, ⟨⟨true, false, 1⟩, .s 8, 0, 77⟩, by decide +kernel⟩,
   ⟨⟨true, false, 1⟩, labEmpty, (coreLocal)[0]'(by decide), g1f (flds (.s 8) (.s 1) (.s 2) (.s 5) 0 0), getElem_in _,
     by decide +kernel⟩,
   ⟨⟨true, false, 1⟩, labEmpty, ⟨⟨true, false, 1⟩, .s 8, 0, 77⟩, by decide +kernel⟩,
   ⟨(sourceReaders)[0]'(by decide), { flds (.s 8) (.s 9) (.s 2) (.s 5) 0 0 with a := ⟨.s 9, true⟩ }, labEmpty, _, _,
     getElem_in _, pair_get (by decide +kernel), by decide +kernel⟩,
   ⟨(sourceReaders)[0]'(by decide), flds (.s 8) (.s 9) (.s 2) (.s 5) 0 0, labEmpty, _, _, getElem_in _, pair_get
     (by decide +kernel), by decide +kernel⟩,
   ⟨(sourceReaders)[0]'(by decide), flds (.s 8) (.s 9) (.s 2) (.s 5) 0 0, labCanp, _, _, getElem_in _, pair_get
     (by decide +kernel), by decide +kernel⟩,
   ⟨(widthRule.map (·.1) ++ floatRule.map (·.1) ++ guardRule.map (·.1))[0]'(by decide), flds (.s 8) (.s 1) (.s 2) (.s
     5) 0 0, labSpoil, .s 1, getElem_in _, by decide +kernel⟩⟩

/-- The hypotheses of the clauses of `TransfersGoToTheirTarget` can be met. -/
theorem test_transfers_go_to_their_target :
    (∃ (e : (Fields → Instr) × (Fields → State → List (Nat × Src) × List Reg × List Reg × Word × Option Word)) (f :
      Fields) (s : State) (srcs : List (Nat × Src)) (more outs : List Reg) (target : Word) (link : Option Word) (l :
      State), e ∈ transferRule ∧ e.2 f s = (srcs, more, outs, target, link) ∧ l =
      (match link with | some x => (s.working f.guard srcs more).put f.dst x | none => s.working f.guard srcs more) ∧
      link = some 0 ∧ Ready f.guard srcs more outs s ∧ (link.isSome = true → NotGuard f.dst) ∧ e.1 f = .loop f) ∧
    (∃ (e : (Fields → Instr) × (Fields → State → List (Nat × Src) × List Reg × List Reg × Word × Option Word)) (f :
      Fields) (s : State) (srcs : List (Nat × Src)) (more outs : List Reg) (target : Word) (link : Option Word) (l :
      State) (w : IWord) (lw : BitVec 32), e ∈ transferRule ∧ e.2 f s = (srcs, more, outs, target, link) ∧ l =
      (match link with | some x => (s.working f.guard srcs more).put f.dst x | none => s.working f.guard srcs more) ∧
      l.fetchAt l.me target true = .got w lw ∧ Ready f.guard srcs more outs s ∧ (link.isSome = true → NotGuard f.dst)
      ∧ (e.1 f = .loop f → link ≠ some 0)) ∧
    (∃ (e : (Fields → Instr) × (Fields → State → List (Nat × Src) × List Reg × List Reg × Word × Option Word)) (f :
      Fields) (s : State) (srcs : List (Nat × Src)) (more outs : List Reg) (target : Word) (link : Option Word) (l :
      State) (c : BitVec 8) (a i : Word), e ∈ transferRule ∧ e.2 f s = (srcs, more, outs, target, link) ∧ l =
      (match link with | some x => (s.working f.guard srcs more).put f.dst x | none => s.working f.guard srcs more) ∧
      l.fetchAt l.me target true = .trap c a i ∧ Ready f.guard srcs more outs s ∧ (link.isSome = true → NotGuard
      f.dst) ∧ (e.1 f = .loop f → link ≠ some 0)) ∧
    (∃ (e : (Fields → Instr) × (Fields → State → List (Nat × Src) × List Reg × List Reg × Word × Option Word)) (f :
      Fields) (s : State) (srcs : List (Nat × Src)) (more outs : List Reg) (target : Word) (link : Option Word) (l :
      State) (va : Nat), e ∈ transferRule ∧ e.2 f s = (srcs, more, outs, target, link) ∧ l =
      (match link with | some x => (s.working f.guard srcs more).put f.dst x | none => s.working f.guard srcs more) ∧
      l.fetchAt l.me target true = .miss va ∧ Ready f.guard srcs more outs s ∧ (link.isSome = true → NotGuard f.dst) ∧
      (e.1 f = .loop f → link ≠ some 0)) :=
  ⟨⟨(transferRule)[5]'(by decide), flds (.s 8) (.s 1) (.s 2) (.s 5) 0 0, labWith [(8, 1)], _, _, _, _, _, _,
     getElem_in _, rfl, rfl, rfl, by decide +kernel⟩,
   ⟨(transferRule)[0]'(by decide), flds (.s 8) (.s 1) (.s 2) (.s 5) 0 0, lab, _, _, _, _, _, _, _, _, getElem_in _,
     rfl, rfl, rfl, by decide +kernel⟩,
   ⟨(transferRule)[0]'(by decide), flds (.s 8) (.s 4) (.s 0) (.s 5) 3 60, lab, _, _, _, _, _, _, _, _, _, getElem_in
     _, rfl, rfl, rfl, by decide +kernel⟩,
   ⟨(transferRule)[1]'(by decide), flds (.s 8) (.s 9) (.s 2) (.s 5) 0 0, labHolder, _, _, _, _, _, _, _, getElem_in _,
     rfl, rfl, rfl, by decide +kernel⟩⟩

/-- The hypotheses of the clauses of `LoadsComplete` can be met. -/
theorem test_loads_complete :
    (∃ (e : (Fields → Instr) × (Fields → State → (Req → Option (BitVec 8)) × List Req × Bool × (List Part → Access)))
      (f : Fields) (s : State) (parts : List Part), e ∈ loadRule ∧ Cleared (s.workingF f) .read (e.2 f s).1 (e.2 f
      s).2.1 parts ∧ ReadyF f s ∧ (ownBanks s.me parts = false ∨ (e.2 f s).2.2.1 = true)) ∧
    (∃ (e : (Fields → Instr) × (Fields → State → (Req → Option (BitVec 8)) × List Req × Bool × (List Part → Access)))
      (f : Fields) (s : State) (parts : List Part), e ∈ loadRule ∧ Cleared (s.workingF f) .read (e.2 f s).1 (e.2 f
      s).2.1 parts ∧ ReadyF f s ∧ ownBanks s.me parts = true ∧ (e.2 f s).2.2.1 = false ∧ (s.workingF f).heldBack s.cur s.seq
      (ordOf f.mod) false parts = false ∧ parts.find? (fun p => s.isMarked p.loc p.size) = none) ∧
    (∃ (e : (Fields → Instr) × (Fields → State → (Req → Option (BitVec 8)) × List Req × Bool × (List Part → Access)))
      (f : Fields) (s : State) (parts : List Part) (p : Part), e ∈ loadRule ∧ Cleared (s.workingF f) .read (e.2 f s).1
      (e.2 f s).2.1 parts ∧ parts.find? (fun p => s.isMarked p.loc p.size) = some p ∧ ReadyF f s ∧ ownBanks s.me parts
      = true ∧ (e.2 f s).2.2.1 = false ∧ (s.workingF f).heldBack s.cur s.seq
      (ordOf f.mod) false parts = false) ∧
    (∃ (f : Fields) (s : State) (p : PatWord) (c : Except Nat Nat) (n : Nat), p = s.pat s.me.lease (pxOf f) ∧ c =
      ldtCase p (s.sa f).toNat (s.sb f).toNat (bits (s.sc f) 31 0) (bits (s.sc f) 63 32) (fld f.imm 9 0) ∧ c = .error
      n ∧ ReadyF f s) ∧
    (∃ (f : Fields) (s : State) (p : PatWord) (c : Except Nat Nat) (n : Nat) (parts : List Part), p = s.pat s.me.lease
      (pxOf f) ∧ c = ldtCase p (s.sa f).toNat (s.sb f).toNat (bits (s.sc f) 31 0) (bits (s.sc f) 63 32) (fld f.imm 9
      0) ∧ c = .ok n ∧ Cleared (s.workingF f) .read anyAlign (ldtReqs p (s.sa f).toNat (s.sb f).toNat (bits (s.sc f)
      31 0) (bits (s.sc f) 63 32) n) parts ∧ ReadyF f s) :=
  ⟨⟨(loadRule)[0]'(by decide), flds (.s 8) (.s 1) (.s 2) (.s 5) 0 0, lab, _, getElem_in _, cleared
     (by decide +kernel), by decide +kernel⟩,
   ⟨(loadRule)[0]'(by decide), flds (.s 8) (.s 3) (.s 0) (.s 5) 3 0, lab, _, getElem_in _, cleared
     (by decide +kernel), by decide +kernel⟩,
   ⟨(loadRule)[0]'(by decide), flds (.s 8) (.s 3) (.s 0) (.s 5) 3 0, labMarked, _, _, getElem_in _, cleared
     (by decide +kernel), opt_get (by decide +kernel), by decide +kernel⟩,
   ⟨flds (.s 8) (.s 1) (.s 2) (.s 5) 0 0, lab, _, _, _, rfl, rfl, rfl, by decide +kernel⟩,
   ⟨flds (.v 6) (.v 1) (.v 2) (.p 0) 0 0, labTile, _, _, _, _, rfl, rfl, rfl, cleared (by decide +kernel),
     by decide +kernel⟩⟩

/-- The hypotheses of the clauses of `StoresComplete` can be met. -/
theorem test_stores_complete :
    (∃ (e : (Fields → Instr) × (Fields → State → List Reg × List Reg × (Req → Option (BitVec 8)) × List Req)) (f :
      Fields) (s : State) (parts : List Part), e ∈ storeRule ∧ Cleared (s.working f.guard (sourcesOf f) (e.2 f s).1)
      .write (e.2 f s).2.2.1 (e.2 f s).2.2.2 parts ∧ Ready f.guard (sourcesOf f) (e.2 f s).1 (e.2 f s).2.1 s ∧
      s.spad.wf = true ∧ parts ≠ [] ∧ ownBanks s.me parts = false) ∧
    (∃ (e : (Fields → Instr) × (Fields → State → List Reg × List Reg × (Req → Option (BitVec 8)) × List Req)) (f :
      Fields) (s : State) (parts : List Part), e ∈ storeRule ∧ Cleared (s.working f.guard (sourcesOf f) (e.2 f s).1)
      .write (e.2 f s).2.2.1 (e.2 f s).2.2.2 parts ∧ Ready f.guard (sourcesOf f) (e.2 f s).1 (e.2 f s).2.1 s ∧
      s.spad.wf = true ∧ ownBanks s.me parts = true ∧ (s.working f.guard (sourcesOf f) (e.2 f s).1).heldBack
      s.cur s.seq (ordOf f.mod) true parts = false) ∧
    (∃ (f : Fields) (s : State), Ready f.guard (sourcesOf f) [f.dst] [] s ∧ maskOf s.me f.dst = 0) :=
  ⟨⟨(storeRule)[0]'(by decide), flds (.s 8) (.s 1) (.s 2) (.s 5) 0 0, lab, _, getElem_in _, cleared
     (by decide +kernel), by decide +kernel⟩,
   ⟨(storeRule)[0]'(by decide), flds (.s 8) (.s 3) (.s 0) (.s 5) 3 0, lab, _, getElem_in _, cleared
     (by decide +kernel), by decide +kernel⟩,
   ⟨flds (.p 1) (.s 3) (.v 2) (.v 1) 2 0, lab, by decide +kernel⟩⟩

/-- The hypotheses of the clauses of `CacheInstructionsComplete` can be met. -/
theorem test_cache_instructions_complete :
    (∃ (f : Fields) (s : State), ReadyF f s ∧ s.memWf = true) ∧
    (∃ (f : Fields) (s : State) (p : Part) (ps : List Part), Cleared (s.workingF f) .none anyAlign [Req.plain (effAddr
      f s) 1 0 0] (p :: ps) ∧ ReadyF f s ∧ (p.loc.space = .spad ∨ p.loc.space = .mem 3 ∨ p.loc.space = .mem 4 ∨
      p.loc.space = .host 3)) ∧
    (∃ (f : Fields) (s : State) (p : Part) (ps : List Part), Cleared (s.workingF f) .none anyAlign [Req.plain (effAddr
      f s) 1 0 0] (p :: ps) ∧ ReadyF f s ∧ (¬ (p.loc.space = .spad ∨ p.loc.space = .mem 3 ∨ p.loc.space = .mem 4 ∨
      p.loc.space = .host 3))) :=
  ⟨⟨flds (.s 8) (.s 1) (.s 2) (.s 5) 0 0, lab, by decide +kernel⟩,
   ⟨flds (.s 8) (.s 3) (.s 0) (.s 5) 3 0, lab, _, _, cleared_cons (by decide +kernel) (by decide +kernel),
     by decide +kernel⟩,
   ⟨flds (.s 8) (.s 1) (.s 2) (.s 5) 0 0, lab, _, _, cleared_cons (by decide +kernel) (by decide +kernel),
     by decide +kernel⟩⟩

/-- The hypotheses of the clauses of `TaggedOperationsComplete` can be met. -/
theorem test_tagged_operations_complete :
    (∃ (f : Fields) (s : State) (p : Part) (ps : List Part), Cleared (s.workingF f) (.tagged !((Instr.ldf, false)).2)
      taggedAlign [Req.plain (effAddr f s) 8 0 0] (p :: ps) ∧ ReadyF f s ∧ NotGuard f.dst ∧ s.me.canp = false ∧
      s.me.inRecord = false ∧ Quiet s (coreEnd (coreOfKey p.loc.addr)) 0 ∧ Quiet s (coreEnd s.me.core) 1
      ∧ (∀ w ∈ s.bank, w.loc.addr ≠ p.loc.addr) ∧
      (s.workingF f).heldBack s.cur s.seq (ordOf f.mod) false [⟨p.loc, 8, 0⟩] = false ∧ s.tagF p.loc.addr = true ∧ p.loc.addr / 8 ∉
      s.spoilt) ∧
    (∃ (f : Fields) (s : State) (p : Part) (ps : List Part) (rows : List RowEntry) (w : State), (s.workingF f).check
      (s.workingF f).me s.cur (.tagged true) taggedAlign [Req.plain (effAddr f s) 8 0 0] = .ok (p :: ps, rows) ∧
      Released (if rows.isEmpty then s.workingF f else (s.workingF f).keepRows s.me.core rows) w ∧ ReadyF f s ∧
      NotGuard f.dst ∧ s.me.canp = false ∧ s.me.inRecord = false ∧ Quiet s (coreEnd (coreOfKey p.loc.addr)) 0 ∧ Quiet s (coreEnd s.me.core) 1
      ∧ (∀ w ∈
      s.bank, w.loc.addr ≠ p.loc.addr) ∧ s.tagF p.loc.addr = false) ∧
    (∃ (f : Fields) (s : State) (p : Part) (ps : List Part), Cleared (s.workingF f) (.tagged true) taggedAlign
      [Req.plain (effAddr f s) 8 0 0] (p :: ps) ∧ ReadyF f s ∧ s.me.canp = false ∧ (s.workingF f).heldBack s.cur s.seq (ordOf
      f.mod) false [⟨p.loc, 8, 0⟩] = false) ∧
    (∃ (f : Fields) (s : State) (p : Part) (ps : List Part), Cleared (s.workingF f) (.tagged false) taggedAlign
      [Req.plain (effAddr f s) 8 0 0] (p :: ps) ∧ ReadyF f s ∧ s.me.canp = false ∧ (s.workingF f).heldBack s.cur s.seq (ordOf
      f.mod) false [⟨p.loc, 8, 0⟩] = false) ∧
    (∃ (f : Fields) (s : State) (p : Part) (ps : List Part) (rows : List RowEntry) (w : State), (s.workingF f).check
      (s.workingF f).me s.cur (.tagged true) taggedAlign [Req.plain (effAddr f s) 8 0 0] = .ok (p :: ps, rows) ∧
      Released (if rows.isEmpty then s.workingF f else (s.workingF f).keepRows s.me.core rows) w ∧ ReadyF f s ∧
      s.me.canp = false) ∧
    (∃ (f : Fields) (s : State) (p : Part) (ps : List Part), Cleared (s.workingF f) (.tagged false) taggedAlign
      [Req.plain (effAddr f s) 8 0 0] (p :: ps) ∧ ReadyF f s ∧ s.isMarked p.loc 8 = true) ∧
    (∃ (f : Fields) (s : State) (p : Part) (ps : List Part), Cleared (s.workingF f) (.tagged false) taggedAlign
      [Req.plain (effAddr f s) 8 0 0] (p :: ps) ∧ ReadyF f s ∧ s.isMarked p.loc 8 = false ∧ (s.workingF f).heldBack s.cur s.seq
      (ordOf f.mod) false [⟨p.loc, 8, 0⟩] = false ∧ NotGuard f.dst) ∧
    (∃ (f : Fields) (s : State) (p : Part) (ps : List Part), Cleared (s.workingF f) (.tagged true) taggedAlign
      [Req.plain (effAddr f s) 8 0 0] (p :: ps) ∧ ReadyF f s ∧ (s.workingF f).heldBack s.cur s.seq (ordOf f.mod) true [⟨p.loc, 8,
      0⟩] = false ∧ (∀ w ∈ s.bank, w.loc.addr ≠ p.loc.addr)) :=
  ⟨⟨flds (.s 8) (.s 3) (.s 0) (.s 5) 3 0, labFull, S8, [], cleared_is (by decide +kernel), by decide +kernel⟩,
   ⟨flds (.s 8) (.s 3) (.s 0) (.s 5) 3 0, lab, S8, [], [], _, is_ok (by decide +kernel), opt_get (by decide +kernel),
     by decide +kernel⟩,
   ⟨flds (.s 8) (.s 3) (.s 0) (.s 5) 3 0, lab, S8, [], cleared_is (by decide +kernel), by decide +kernel⟩,
   ⟨flds (.s 8) (.s 3) (.s 0) (.s 5) 3 0, lab, S8, [], cleared_is (by decide +kernel), by decide +kernel⟩,
   ⟨flds (.s 8) (.s 3) (.s 0) (.s 5) 3 0, lab, S8, [], [], _, is_ok (by decide +kernel), opt_get (by decide +kernel),
     by decide +kernel⟩,
   ⟨flds (.s 8) (.s 3) (.s 0) (.s 5) 3 0, labMarked, _, _, cleared_cons (by decide +kernel) (by decide +kernel),
     by decide +kernel⟩,
   ⟨flds (.s 8) (.s 3) (.s 0) (.s 5) 3 0, lab, _, _, cleared_cons (by decide +kernel) (by decide +kernel),
     by decide +kernel⟩,
   ⟨flds (.s 8) (.s 3) (.s 0) (.s 5) 3 0, lab, _, _, cleared_cons (by decide +kernel) (by decide +kernel),
     by decide +kernel⟩⟩

/-- The hypotheses of the clauses of `AtomicsComplete` can be met. -/
theorem test_atomics_complete :
    ∃ (e : (Fields → Instr) × AtomicOp × (Fields → State → Word)) (f : Fields) (s : State) (parts : List Part), e ∈
      atomicTable ∧ Cleared (s.workingF f) (.atomic e.2.1 (f.dst == .s 0)) atomicAlign [atomicReq f (e.2.2 f s)] parts
      ∧ ReadyF f s :=
  ⟨(atomicTable)[0]'(by decide), flds (.s 8) (.s 1) (.s 2) (.s 5) 0 0, lab, _, getElem_in _, cleared
    (by decide +kernel), by decide +kernel⟩

/-- The hypotheses of the clauses of `OrderingInstructionsComplete` can be met. -/
theorem test_ordering_instructions_complete :
    (∃ (f : Fields) (s : State), Ready f.guard [] [] [] s ∧ s.unperformed s.cur = false) ∧
    (∃ (f : Fields) (s : State), Ready f.guard [] [] [] s ∧ s.unperformed s.cur = true ∧ s.me.canp = false) ∧
    (∃ (f : Fields) (s : State), Ready f.guard [] [] [] s) ∧
    (∃ (f : Fields) (s : State), Ready f.guard [] [] [] s ∧ s.releasing s.cur = false) ∧
    (∃ (f : Fields) (s : State), Ready f.guard [] [] [] s ∧ s.releasing s.cur = true ∧ s.me.canp = false) ∧
    (∃ (f : Fields) (s w : State), Released (s.working f.guard [] []) w ∧ Ready f.guard [] [] [] s) ∧
    (∃ (s w : State), Released s w ∧ s.memWf = true) ∧
    (∃ (s w : State) (e : L1Line), Released s w ∧ e ∈ (w.core s.me.core).l1 ∧ s.memWf = true ∧ e.attr = 2) :=
  ⟨⟨flds (.s 8) (.s 1) (.s 2) (.s 5) 0 0, lab, by decide +kernel⟩,
   ⟨flds (.s 8) (.s 1) (.s 2) (.s 5) 0 0, labStoring, by decide +kernel⟩,
   ⟨flds (.s 8) (.s 1) (.s 2) (.s 5) 0 0, lab, by decide +kernel⟩,
   ⟨flds (.s 8) (.s 1) (.s 2) (.s 5) 0 0, lab, by decide +kernel⟩,
   ⟨flds (.s 8) (.s 1) (.s 2) (.s 5) 0 0, labReleasing, by decide +kernel⟩,
   ⟨flds (.s 8) (.s 1) (.s 2) (.s 5) 0 0, lab, _, opt_get (by decide +kernel), by decide +kernel⟩,
   ⟨lab, _, opt_get (by decide +kernel), by decide +kernel⟩,
   ⟨labL1, _, _, opt_get (by decide +kernel), getElem_in (i := 2) (by decide +kernel), by decide +kernel⟩⟩

/-- The hypotheses of the clauses of `EngineCommandsIssue` can be met. -/
theorem test_engine_commands_issue :
    (∃ (e : (Fields → Instr) × EngineOp × (State → EngineUnit) × Nat × Nat) (f : Fields) (s w : State), e ∈ queueRule
      ∧ Released (s.touch (sourceRegs f)) w ∧ EngineReady f s ∧ (s.jobs (e.2.2.1 s)).length < e.2.2.2.1 ∧ jobsOf
      (s.jobs (e.2.2.1 s)) s.cur < e.2.2.2.2) ∧
    (∃ (e : (Fields → Instr) × EngineOp × (State → EngineUnit) × Nat × Nat) (f : Fields) (s : State), e ∈ queueRule ∧
      EngineReady f s ∧ (e.2.2.2.1 ≤ (s.jobs (e.2.2.1 s)).length ∨ e.2.2.2.2 ≤ jobsOf (s.jobs (e.2.2.1 s)) s.cur) ∧
      s.me.canp = false) ∧
    (∃ (e : Fields → Instr) (f : Fields) (s : State), e ∈ engineRule ∧ s.me.live = true ∧ guardTest f.guard s.me =
      some false ∧ .q f.guard.q ∉ s.me.spoiled ∧ s.pendingOn s.cur f.dst = false ∧ NotGuard f.dst) ∧
    (∃ (f : Fields) (s : State), EngineReady f s ∧ NotGuard f.dst ∧ holdOf f s = none ∧ heldBefore (s.jobs (.copy
      s.me.pos)) s.cur s.seq = false) ∧
    (∃ (f : Fields) (s w : State), Released (s.touch (sourceRegs f)) w ∧ EngineReady f s ∧ NotGuard f.dst ∧ ((holdOf f
      s).isSome = true ∨ heldBefore (s.jobs (.copy s.me.pos)) s.cur s.seq = true) ∧ (s.jobs (.copy s.me.pos)).length < 64 ∧ jobsOf (s.jobs (.copy
      s.me.pos)) s.cur < 16) :=
  ⟨⟨(queueRule)[0]'(by decide), flds (.s 8) (.s 1) (.s 2) (.s 5) 0 0, lab, _, getElem_in _, opt_get
     (by decide +kernel), by decide +kernel⟩,
   ⟨(queueRule)[0]'(by decide), flds (.s 8) (.s 1) (.s 2) (.s 5) 0 0, labBusy, getElem_in _, by decide +kernel⟩,
   ⟨(engineRule)[0]'(by decide), g1f (flds (.s 8) (.s 1) (.s 2) (.s 5) 0 0), lab, getElem_in _, by decide +kernel⟩,
   ⟨flds (.s 8) (.s 1) (.s 2) (.s 5) 0 0, lab, by decide +kernel⟩,
   ⟨g1f (flds (.s 8) (.s 1) (.s 2) (.s 5) 0 0), labEmpty, _, opt_get (by decide +kernel), by decide +kernel⟩⟩

/-- The hypotheses of the clauses of `PushTakesAPermit` can be met. -/
theorem test_push_takes_a_permit :
    (∃ (f : Fields) (s w0 : State), w0 = s.touch (sourceRegs f) ∧ EngineReady f s ∧ (s.cluster (s.cur /
      65536)).permits.find? (fun p => p.covers s.cur (pushSpan w0 f)) = none) ∧
    (∃ (f : Fields) (s w0 : State) (p : Permit) (w : State), w0 = s.touch (sourceRegs f) ∧ (s.cluster (s.cur /
      65536)).permits.find? (fun p => p.covers s.cur (pushSpan w0 f)) = some p ∧ Released w0 w ∧ EngineReady f s ∧
      (s.jobs (.copy s.me.pos)).length < 64 ∧ jobsOf (s.jobs (.copy s.me.pos)) s.cur < 16) :=
  ⟨⟨flds (.s 8) (.s 1) (.s 2) (.s 5) 0 0, lab, _, rfl, by decide +kernel⟩,
   ⟨flds (.s 8) (.s 4) (.s 0) (.s 5) 3 0, labPermitted, _, _, _, rfl, opt_get (by decide +kernel), opt_get
     (by decide +kernel), by decide +kernel⟩⟩

/-- The hypotheses of the clauses of `MatrixCommandsIssue` can be met. -/
theorem test_matrix_commands_issue :
    (∃ (e : (Fields → Instr) × EngineOp × (Fields → State → Bool)) (f : Fields) (s w : State), e ∈ matrixRule ∧
      Released (s.touch (sourceRegs f)) w ∧ EngineReady f s ∧ (s.core s.me.core).queue.length < 8 ∧ s.holds s.cur =
      true ∧ e.2.2 f s = true) ∧
    (∃ (e : (Fields → Instr) × EngineOp × (Fields → State → Bool)) (f : Fields) (s : State), e ∈ matrixRule ∧
      EngineReady f s ∧ (s.core s.me.core).queue.length < 8 ∧ s.holds s.cur = false ∧ (e.1 f = .mrel f → s.gangPending
      s.cur = false)) ∧
    (∃ (e : Fields → Instr) (f : Fields) (s : State), e ∈ Instr.mgang :: matrixRule.map (·.1) ∧ EngineReady f s ∧ 8 ≤
      (s.core s.me.core).queue.length ∧ s.me.canp = false) ∧
    (∃ (f : Fields) (s : State), EngineReady f s ∧ (s.core s.me.core).queue.length < 8 ∧ s.holds s.cur = true ∧
      (validScale (bits (s.sa f) 31 0) && validScale (bits (s.sb f) 31 0)) = false) ∧
    (∃ (f : Fields) (s w : State) (m : BitVec 8) (k : Nat), m = BitVec.ofNat 8 (exOf f) ∧ k = s.me.core ∧ Released
      (s.touch (sourceRegs f)) w ∧ EngineReady f s ∧ (s.core k).queue.length < 8 ∧ NotGuard f.dst ∧ holdOf f s = none
      ∧ (s.core k).queue.all (fun c => c.task != s.cur) = true ∧ ((s.core k).holder ≠ none ∨ (s.core k).pending ≠
      none)) ∧
    (∃ (f : Fields) (s w : State) (m : BitVec 8) (k : Nat), m = BitVec.ofNat 8 (exOf f) ∧ k = s.me.core ∧ Released
      (s.touch (sourceRegs f)) w ∧ EngineReady f s ∧ (s.core k).queue.length < 8 ∧ NotGuard f.dst ∧ holdOf f s = none
      ∧ (s.core k).queue.all (fun c => c.task != s.cur) = true ∧ (s.core k).holder = none ∧ (s.core k).pending = none
      ∧ m.getLsbD (k % 8) = false) ∧
    (∃ (f : Fields) (s w : State) (m : BitVec 8) (k : Nat), m = BitVec.ofNat 8 (exOf f) ∧ k = s.me.core ∧ Released
      (s.touch (sourceRegs f)) w ∧ maskList 8 m.toNat = [k % 8] ∧ EngineReady f s ∧ (s.core k).queue.length < 8 ∧
      NotGuard f.dst ∧ holdOf f s = none ∧ (s.core k).queue.all (fun c => c.task != s.cur) = true ∧ (s.core k).holder
      = none ∧ (s.core k).pending = none) ∧
    (∃ (f : Fields) (s w : State) (m : BitVec 8) (k : Nat), m = BitVec.ofNat 8 (exOf f) ∧ k = s.me.core ∧ Released
      (s.touch (sourceRegs f)) w ∧ EngineReady f s ∧ (s.core k).queue.length < 8 ∧ NotGuard f.dst ∧ holdOf f s = none
      ∧ (s.core k).queue.all (fun c => c.task != s.cur) = true ∧ (s.core k).holder = none ∧ (s.core k).pending = none
      ∧ m.getLsbD (k % 8) = true ∧ maskList 8 m.toNat ≠ [k % 8]) ∧
    (∃ (f : Fields) (s w : State) (m : BitVec 8) (k : Nat), m = BitVec.ofNat 8 (exOf f) ∧ k = s.me.core ∧ Released
      (s.touch (sourceRegs f)) w ∧ EngineReady f s ∧ (s.core k).queue.length < 8 ∧ NotGuard f.dst ∧ (holdOf f s ≠ none
      ∨ (s.core k).queue.all (fun c => c.task != s.cur) = false)) ∧
    (∃ (f : Fields) (s w : State) (d : Reg), Released (s.touch (sourceRegs f)) w ∧ EngineReady f s ∧ (s.core
      s.me.core).queue.length < 8 ∧ NotGuard f.dst ∧ NotGuard d ∧ s.gangToken s.cur = some d ∧ holdOf f s = none ∧
      (s.core s.me.core).queue.all (fun c => c.task != s.cur) = true) ∧
    (∃ (f : Fields) (s w : State) (d : Reg), Released (s.touch (sourceRegs f)) w ∧ EngineReady f s ∧ (s.core
      s.me.core).queue.length < 8 ∧ NotGuard f.dst ∧ NotGuard d ∧ s.gangToken s.cur = some d ∧ (holdOf f s ≠ none ∨
      (s.core s.me.core).queue.all (fun c => c.task != s.cur) = false)) :=
  ⟨⟨(matrixRule)[0]'(by decide), flds (.s 8) (.s 1) (.s 2) (.s 5) 0 0, labHolder, _, getElem_in _, opt_get
     (by decide +kernel), by decide +kernel⟩,
   ⟨(matrixRule)[0]'(by decide), flds (.s 8) (.s 1) (.s 2) (.s 5) 0 0, lab, getElem_in _, by decide +kernel⟩,
   ⟨(Instr.mgang :: matrixRule.map (·.1))[0]'(by decide), flds (.s 8) (.s 1) (.s 2) (.s 5) 0 0, labG8, getElem_in _,
     by decide +kernel⟩,
   ⟨flds (.s 8) (.s 5) (.s 2) (.s 1) 5 0, labHolder, by decide +kernel⟩,
   ⟨flds (.s 8) (.s 1) (.s 2) (.s 5) 0 0, labHolder, _, _, _, rfl, rfl, opt_get (by decide +kernel),
     by decide +kernel⟩,
   ⟨flds (.s 8) (.s 1) (.s 2) (.s 5) 0 0, lab, _, _, _, rfl, rfl, opt_get (by decide +kernel), by decide +kernel⟩,
   ⟨flds (.s 8) (.s 1) (.s 2) (.s 5) 0 1, lab, _, _, _, rfl, rfl, opt_get (by decide +kernel), rfl, by decide +kernel⟩,
   ⟨flds (.s 8) (.s 0) (.s 0) (.s 0) 0 5, lab, _, _, _, rfl, rfl, opt_get (by decide +kernel), by decide +kernel⟩,
   ⟨flds (.s 8) (.s 1) (.s 2) (.s 5) 0 0, labQueued, _, _, _, rfl, rfl, opt_get (by decide +kernel),
     by decide +kernel⟩,
   ⟨flds (.s 8) (.s 1) (.s 2) (.s 5) 0 0, lab.onCore 0 fun c => { c with pending := some (0, 3, .s 9) }, _, .s 9,
     opt_get (by decide +kernel), by decide +kernel⟩,
   ⟨flds (.s 8) (.s 1) (.s 2) (.s 5) 0 0, (lab.onCore 0 fun c =>
     { c with queue := [labCommand 4 0 .mma], pending := some (0, 3, .s 9) }), _, .s 9, opt_get (by decide +kernel),
     by decide +kernel⟩⟩

/-- The hypotheses of the clauses of `SpawnsAndNewFuturesComplete` can be met. -/
theorem test_spawns_and_new_futures_complete :
    (∃ (f : Fields) (s w x : State) (args : ArgBlock) (grid : Bool) (ms : List Member) (m : Member) (rest : List
      Member) (y z b : State) (h : Word) (key id : Nat) (g : BitVec 7), (∀ work, withArgs f.b.reg work w = work args
      x) ∧ ms = m :: rest ∧ (if grid then ¬ (patEmpty (x.pat s.me.lease (pxOf f)) ∨ fld (x.pat s.me.lease (pxOf f)) 63
      56 = 0x15 ∨ patTrows (x.pat s.me.lease (pxOf f)) = 0 ∨ patTcols (x.pat s.me.lease (pxOf f)) = 0 ∨ 4096 <
      gridMembers (x.pat s.me.lease (pxOf f))) ∧ gridList f x (x.pat s.me.lease (pxOf f)) (gridMembers (x.pat
      s.me.lease (pxOf f))) 0 = some ms ∧ y = { x with fresh := x.fresh + gridMembers (x.pat s.me.lease (pxOf f)) }
      else (∃ p, placement f x (s.sc f) = some p ∧ m = ⟨p, zero4, zero4⟩) ∧ rest = [] ∧ y = x.freshen) ∧ (y.takeSub
      (childSub f y).2).1.allocate s.me.lease (dieOf s.me.pos) (fld f.imm 11 0) { Entry.free with
      live := true, grid := grid, members := ms.length, total := ms.length, ver := s.me.ver,
      bsub := (y.takeSub (childSub f y).2).2 } = some (z, h, key) ∧ z.takeIndex m.pos = some (b, id, g) ∧ ReadyF f s ∧
      NotGuard f.dst ∧ s.me.canp = false ∧ Released (s.workingF f) w ∧ args.bad = none ∧ x.tasks = w.tasks ∧ x.cur =
      w.cur ∧ x.tags = w.tags ∧ spawnRefused y (childSub f y).1 (childSub f y).2 (ms.map (·.pos)) = none) ∧
    (∃ (f : Fields) (s : State) (l : Lease) (die i : Nat), l = s.lease s.me.lease ∧ die = dieOf s.me.pos ∧ s.freeIndex
      l die = some i ∧ ReadyF f s ∧ NotGuard f.dst ∧ 1 ≤ s.freeCount l die ∧ (s.resident l die < l.quota ∨ (s.victim l
      die []).isSome = true)) ∧
    (∃ (f : Fields) (s : State) (l : Lease) (die : Nat), l = s.lease s.me.lease ∧ die = dieOf s.me.pos ∧ ReadyF f s ∧
      NotGuard f.dst ∧ 1 ≤ s.freeCount l die ∧ (s.freeIndex l die).isSome = true ∧ l.quota ≤ s.resident l die ∧
      s.victim l die [] = none) ∧
    (∃ (f : Fields) (s : State) (l : Lease) (die : Nat), l = s.lease s.me.lease ∧ die = dieOf s.me.pos ∧ ReadyF f s ∧
      NotGuard f.dst ∧ s.freeCount l die < 1) :=
  ⟨⟨flds (.s 8) (.s 4) (.s 0) (.s 5) 3 0, lab, lab, lab, ArgBlock.none, false, _, _, _, _, _, _, _, _, _, _, fun _ =>
     rfl, rfl, cast (if_neg Bool.false_ne_true).symm ⟨⟨_, opt_get (by decide +kernel), rfl⟩, rfl, rfl⟩, triple_get
     (by decide +kernel), triple_get (index_free _ (by decide +kernel) (by decide +kernel) (by decide +kernel)),
     by decide +kernel⟩,
   ⟨flds (.s 8) (.s 1) (.s 2) (.s 5) 0 0, lab, _, _, _, rfl, rfl, opt_get (by decide +kernel), by decide +kernel⟩,
   ⟨flds (.s 8) (.s 1) (.s 2) (.s 5) 0 0, lab.onLease 1 fun l => { l with quota := 0 }, _, _, rfl, rfl,
     by decide +kernel⟩,
   ⟨flds (.s 8) (.s 1) (.s 2) (.s 5) 0 0, lab.onLease 1 fun l => { l with spoolCount := 0 }, _, _, rfl, rfl,
     by decide +kernel⟩⟩

/-- The hypotheses of the clauses of `TouchesComplete` can be met. -/
theorem test_touches_complete :
    (∃ (f : Fields) (s : State) (h : Word) (e : Entry), h = s.sa f ∧ e = s.entry (hKey h) ∧ ReadyF f s ∧ s.goodHandle
      h = false) ∧
    (∃ (f : Fields) (s : State) (h : Word) (e : Entry), h = s.sa f ∧ e = s.entry (hKey h) ∧ Ready f.guard [(1, f.a)]
      [] [f.dst, f.c.reg] s ∧ s.goodHandle h = false) ∧
    (∃ (f : Fields) (s : State) (h : Word) (e : Entry), h = s.sa f ∧ e = s.entry (hKey h) ∧ s.goodHandle h = true ∧
      Finds s h ∧ ReadyF f s ∧ s.me.canp = false ∧ e.spilled = false ∧ NotGuard f.dst ∧ e.state = .resolved) ∧
    (∃ (f : Fields) (s : State) (h : Word) (e : Entry), h = s.sa f ∧ e = s.entry (hKey h) ∧ s.goodHandle h = true ∧
      Finds s h ∧ (e.state = .poisoned ∨ e.state = .cancelled) ∧ ReadyF f s ∧ s.me.canp = false ∧ e.spilled = false ∧
      NotGuard f.dst ∧ s.me.emptied = none ∧ s.me.inh = false ∧ (s.lease s.me.lease).trapVec ≠ 0) ∧
    (∃ (q : Fin 8) (f : Fields) (s : State) (h : Word) (e : Entry), h = s.sa f ∧ e = s.entry (hKey h) ∧ s.goodHandle h
      = true ∧ Finds s h ∧ Ready f.guard [(1, f.a)] [] [f.dst, f.c.reg] s ∧ s.me.canp = false ∧ e.spilled = false ∧
      NotGuard f.dst ∧ e.isSettled = true ∧ f.c.reg = .q q) ∧
    (∃ (q : Fin 8) (f : Fields) (s : State) (h : Word) (e : Entry), h = s.sa f ∧ e = s.entry (hKey h) ∧ s.goodHandle h
      = true ∧ Finds s h ∧ Ready f.guard [(1, f.a)] [] [f.dst, f.c.reg] s ∧ s.me.canp = false ∧ e.spilled = false ∧
      NotGuard f.dst ∧ e.isSettled = true ∧ f.c.reg = .q q) ∧
    (∃ (f : Fields) (s : State) (hs : Nat → Word), (∀ i, hs i = w64 (lane (s.me.value f.a.reg) 64 i)) ∧ ReadyF f s ∧
      s.goodHandle (hs 0) = false) ∧
    (∃ (f : Fields) (s : State) (hs : Nat → Word), (∀ i, hs i = w64 (lane (s.me.value f.a.reg) 64 i)) ∧ s.goodHandle
      (hs 0) = true ∧ (∀ i, i < 1 → s.goodHandle (hs i) = true ∧ Fresh s (hs i) ∧ (s.entry (hKey (hs i))).spilled =
      false) ∧ ReadyF f s ∧ QuietSpool s (hs 0) ∧ s.me.canp = false ∧ NotGuard f.dst ∧ fld f.imm 5 0 =
      1 ∧ (s.entry (hKey (hs 0))).isSettled = true) :=
  ⟨⟨flds (.s 8) (.s 0) (.s 2) (.s 5) 0 0, lab, _, _, rfl, rfl, by decide +kernel⟩,
   ⟨flds (.s 8) (.s 0) (.s 2) (.s 5) 0 0, lab, _, _, rfl, rfl, by decide +kernel⟩,
   ⟨flds (.s 8) (.s 9) (.s 2) (.s 5) 0 0, labEntry labResolved, labHandle, _, rfl, rfl, labHandle_good, labEntry_finds
     _ (by decide +kernel), by decide +kernel⟩,
   ⟨flds (.s 8) (.s 9) (.s 2) (.s 5) 0 0, labEntry labPoisoned, labHandle, _, rfl, rfl, labHandle_good, labEntry_finds
     _ (by decide +kernel), .inl rfl, by decide +kernel⟩,
   ⟨5, flds (.s 8) (.s 9) (.s 0) (.q 5) 0 0, labEntry labResolved, labHandle, _, rfl, rfl, labHandle_good,
     labEntry_finds _ (by decide +kernel), by decide +kernel⟩,
   ⟨5, flds (.s 8) (.s 9) (.s 0) (.q 5) 0 0, labEntry labPoisoned, labHandle, _, rfl, rfl, labHandle_good,
     labEntry_finds _ (by decide +kernel), by decide +kernel⟩,
   ⟨flds (.s 8) (.s 0) (.s 2) (.s 5) 0 0, lab, fun i => w64 (lane (lab.me.value (flds (.s 8) (.s 0) (.s 2) (.s 5) 0
     0).a.reg) 64 i), fun _ => rfl, by decide +kernel⟩,
   ⟨flds (.s 8) (.v 8) (.s 0) (.s 0) 0 1, labEntry labResolved, fun i => w64 (lane ((labEntry labResolved).me.value
     (flds (.s 8) (.v 8) (.s 0) (.s 0) 0 1).a.reg) 64 i), fun _ => rfl, labHandle_good, forall_lt_one ⟨labHandle_good,
     by decide +kernel⟩, by decide +kernel⟩⟩

/-- The hypotheses of the clauses of `FutureManagementCompletes` can be met. -/
theorem test_future_management_completes :
    (∃ (r : (Fields → Instr) × (Fields → State → SpoolOp) × Bool) (f : Fields) (s : State) (h : Word) (e : Entry), r ∈
      manageRule ∧ h = s.sa f ∧ e = s.entry (hKey h) ∧ ReadyF f s ∧ s.goodHandle h = false) ∧
    (∃ (r : (Fields → Instr) × (Fields → State → SpoolOp) × Bool) (f : Fields) (s : State) (h : Word) (e : Entry) (w :
      State), r ∈ manageRule ∧ h = s.sa f ∧ e = s.entry (hKey h) ∧ s.goodHandle h = true ∧ (if r.2.2 then Released
      (s.workingF f) w else w = s) ∧ Finds s h ∧ ReadyF f s ∧ NotGuard f.dst) ∧
    (∃ (r : (Fields → Instr) × (Fields → State → SpoolOp) × Bool) (f : Fields) (s : State) (h : Word) (e : Entry) (w :
      State), r ∈ manageRule ∧ h = s.sa f ∧ e = s.entry (hKey h) ∧ s.goodHandle h = true ∧ (if r.2.2 then Released
      (s.workingF f) w else w = s) ∧ Finds s h ∧ ReadyF f s ∧ NotGuard f.dst ∧ r.2.1 f s = .cancel ∧ s.cur ∈ s.bound e
      h) ∧
    (∃ (r : (Fields → Instr) × (Fields → State → SpoolOp) × Bool) (f : Fields) (s : State) (h : Word) (e : Entry) (w :
      State), r ∈ manageRule ∧ h = s.sa f ∧ e = s.entry (hKey h) ∧ s.goodHandle h = true ∧ (if r.2.2 then Released
      (s.workingF f) w else w = s) ∧ ReadyF f s ∧ QuietSpool s h ∧ (¬ Fresh s h) ∧ s.me.emptied = none
      ∧ s.me.inh = false ∧ (s.lease s.me.lease).trapVec ≠ 0) :=
  ⟨⟨(manageRule)[0]'(by decide), flds (.s 8) (.s 0) (.s 2) (.s 5) 0 0, lab, _, _, getElem_in _, rfl, rfl,
     by decide +kernel⟩,
   ⟨(manageRule)[0]'(by decide), flds (.s 8) (.s 9) (.s 2) (.s 5) 0 0, labEntry labPending, labHandle, _, _,
     getElem_in _, rfl, rfl, labHandle_good, cast (if_pos rfl).symm (opt_get (by decide +kernel)), labEntry_finds _
     (by decide +kernel), by decide +kernel⟩,
   ⟨(manageRule)[2]'(by decide), flds (.s 8) (.s 9) (.s 2) (.s 5) 0 0, (labEntry { labPending with notask := false, bound := 0 }).onMe
     fun t => { t with self := labHandle }, labHandle, _, _, getElem_in _, rfl, rfl, labHandle_good,
     cast (if_neg Bool.false_ne_true).symm rfl, ⟨labHandle_good, ⟨(fun _ hg => nomatch hg), (fun _ hg => nomatch hg)⟩,
     by decide +kernel⟩, by decide +kernel⟩,
   ⟨(manageRule)[2]'(by decide), flds (.s 8) (.s 9) (.s 2) (.s 5) 0 0, labEntry { labPending with gen := 3 },
     labHandle, _, _, getElem_in _, rfl, rfl, labHandle_good, cast (if_neg Bool.false_ne_true).symm rfl,
     by decide +kernel⟩⟩

/-- The hypotheses of the clauses of `LeavingTheSlot` can be met. -/
theorem test_leaving_the_slot :
    (∃ (f : Fields) (s : State), ReadyF f s) ∧
    (∃ (f : Fields) (s : State) (a : Activation) (x : Account), ReadyF f s ∧ s.me.act = some a ∧ (s.core
      a.core).accounts.find? (fun x => x.sender == a.msg.sender) = some x) ∧
    (∃ (f : Fields) (s : State) (a : Activation), ReadyF f s ∧ s.me.act = some a ∧ (s.core a.core).accounts.find?
      (fun x => x.sender == a.msg.sender) = none ∧ (s.core a.core).accounts.length = 64) ∧
    (∃ (f : Fields) (s : State), ReadyF f s ∧ s.me.canp = true) ∧
    (∃ (f : Fields) (s : State), ReadyF f s ∧ s.me.canp = false ∧ s.holdsAny s.cur = true) ∧
    (∃ (f : Fields) (s : State), ReadyF f s ∧ s.me.canp = false ∧ s.holdsAny s.cur = false ∧ s.localPending s.cur =
      true) ∧
    (∃ (f : Fields) (s : State), ReadyF f s ∧ s.me.canp = false ∧ s.holdsAny s.cur = false ∧ s.localPending s.cur =
      false) :=
  ⟨⟨flds (.s 8) (.s 1) (.s 2) (.s 5) 0 0, lab, by decide +kernel⟩,
   ⟨flds (.s 8) (.s 1) (.s 2) (.s 5) 0 0, (labActive 0).onCore 0 fun c => { c with accounts := [labAccount 0] },
     ⟨0, labMsg, 0⟩, labAccount 0, by decide +kernel⟩,
   ⟨flds (.s 8) (.s 1) (.s 2) (.s 5) 0 0, (labActive 0).onCore 0 fun c =>
     { c with accounts := (List.range 64).map fun i => labAccount (BitVec.ofNat 32 (i + 1)) }, ⟨0, labMsg, 0⟩,
     by decide +kernel⟩,
   ⟨flds (.s 8) (.s 1) (.s 2) (.s 5) 0 0, labCanp, by decide +kernel⟩,
   ⟨flds (.s 8) (.s 1) (.s 2) (.s 5) 0 0, labHolder, by decide +kernel⟩,
   ⟨flds (.s 8) (.s 1) (.s 2) (.s 5) 0 0, lab.onMe fun t => { t with fixed := [(.s 20, 7)] }, by decide +kernel⟩,
   ⟨flds (.s 8) (.s 1) (.s 2) (.s 5) 0 0, lab, by decide +kernel⟩⟩

/-- The hypotheses of the clauses of `NeedlesAndMailboxesComplete` can be met. -/
theorem test_needles_and_mailboxes_complete :
    (∃ (f : Fields) (s : State) (n : Word), n = s.makeNeedle s.cur (BitVec.ofNat 7 (fld f.imm 6 0)) (fld f.mod 1 0) ∧
      ReadyF f s ∧ NotGuard f.dst ∧ fld f.mod 1 0 ≠ 0) ∧
    (∃ (f : Fields) (s : State) (n : Word) (r : Reg) (c : Cluster), n = s.makeNeedle s.cur (BitVec.ofNat 7 (fld f.imm
      6 0)) (fld f.mod 1 0) ∧ r = Reg.ofSpec (BitVec.ofNat 7 (fld f.imm 6 0)) ∧ c = s.cluster (s.cur / 65536) ∧ ReadyF
      f s ∧ NotGuard f.dst ∧ fld f.mod 1 0 = 0 ∧ (s.armed s.cur r = true ∨ c.arms.length + c.armsAhead s.cur < 4096)) ∧
    (∃ (f : Fields) (s : State) (n : Word) (r : Reg) (c : Cluster), n = s.makeNeedle s.cur (BitVec.ofNat 7 (fld f.imm
      6 0)) (fld f.mod 1 0) ∧ r = Reg.ofSpec (BitVec.ofNat 7 (fld f.imm 6 0)) ∧ c = s.cluster (s.cur / 65536) ∧ ReadyF
      f s ∧ NotGuard f.dst ∧ fld f.mod 1 0 = 0 ∧ s.armed s.cur r = false ∧ 4096 ≤ c.arms.length + c.armsAhead s.cur ∧
      s.me.canp = false) ∧
    (∃ (f : Fields) (s : State), ReadyF f s) ∧
    (∃ (f : Fields) (s : State) (b : Fin 4) (box : List Post), b = Fin.ofNat 4 (fld f.imm 1 0) ∧ box = (s.core
      s.me.core).boxes.get b ∧ ReadyF f s) :=
  ⟨⟨flds (.s 8) (.s 5) (.s 2) (.s 1) 5 0, lab, _, rfl, by decide +kernel⟩,
   ⟨flds (.s 8) (.s 1) (.s 2) (.s 5) 0 0, lab, _, _, _, rfl, rfl, rfl, by decide +kernel⟩,
   ⟨flds (.s 8) (.s 1) (.s 2) (.s 5) 0 0, labArms, _, _, _, rfl, rfl, rfl, by decide +kernel⟩,
   ⟨flds (.s 8) (.s 1) (.s 2) (.s 5) 0 0, lab, by decide +kernel⟩,
   ⟨flds (.s 8) (.s 1) (.s 2) (.s 5) 0 0, lab, _, _, rfl, rfl, by decide +kernel⟩⟩

/-- The hypotheses of the clauses of `SendsMessagesAndPostsComplete` can be met. -/
theorem test_sends_messages_and_posts_complete :
    (∃ (f : Fields) (s : State) (n : Word) (isVec : Bool), n = s.sa f ∧ isVec =
      (match nReg n with | .v _ => true | _ => false) ∧ (s.populated (nPos n) = false ∨ bits n 15 0 ≠ checkN s.secret
      n) ∧ ReadyF f s) ∧
    (∃ (f : Fields) (s : State) (n : Word) (isVec : Bool), n = s.sa f ∧ isVec =
      (match nReg n with | .v _ => true | _ => false) ∧ bits n 15 0 = checkN s.secret n ∧ ReadyF f s ∧ s.populated
      (nPos n) = true ∧ isVec ≠ ((Instr.send, false, fun (f : Fields) (s : State) => (s.sb f).setWidth 2048)).2.1 ∧
      f.mod.getLsbD 2 = true) ∧
    (∃ (f : Fields) (s : State) (n : Word) (isVec : Bool), n = s.sa f ∧ isVec =
      (match nReg n with | .v _ => true | _ => false) ∧ bits n 15 0 = checkN s.secret n ∧ ReadyF f s ∧ s.populated
      (nPos n) = true ∧ isVec ≠ ((Instr.send, false, fun (f : Fields) (s : State) => (s.sb f).setWidth 2048)).2.1 ∧
      f.mod.getLsbD 2 = false ∧ NotGuard f.dst) ∧
    (∃ (f : Fields) (s w : State) (n : Word) (isVec : Bool), n = s.sa f ∧ isVec =
      (match nReg n with | .v _ => true | _ => false) ∧ bits n 15 0 = checkN s.secret n ∧ isVec = ((Instr.send, false,
      fun (f : Fields) (s : State) => (s.sb f).setWidth 2048)).2.1 ∧ SendState f s w ∧ ReadyF f s ∧ s.populated (nPos
      n) = true) ∧
    (∃ (f : Fields) (s : State) (core : Nat), (if f.mod.getLsbD 0 then s.nearCore (s.sa f) else if s.goodWord (s.sa f)
      false then some (wordCore (s.sa f)) else none) = some core ∧ ReadyF f s) ∧
    (∃ (f : Fields) (s : State), ReadyF f s ∧ (if f.mod.getLsbD 0 then s.nearCore (s.sa f) else if s.goodWord (s.sa f)
      false then some (wordCore (s.sa f)) else none) = none) ∧
    (∃ (f : Fields) (s : State), ReadyF f s ∧ s.goodWord (s.sa f) true = true ∧ (s.cluster (wordPos (s.sa f))).lease =
      s.me.lease) ∧
    (∃ (f : Fields) (s : State), ReadyF f s ∧ (s.goodWord (s.sa f) true = false ∨ (s.cluster (wordPos (s.sa f))).lease
      ≠ s.me.lease)) :=
  ⟨⟨flds (.s 8) (.s 5) (.s 2) (.s 5) 0 0, lab, _, _, rfl, rfl, .inl (by decide +kernel), by decide +kernel⟩,
   ⟨flds (.s 8) (.s 10) (.s 2) (.s 0) 4 0, labNeedles, 0x8480B341, _, rfl, rfl, labNeedles_good.2, by decide +kernel⟩,
   ⟨flds (.s 8) (.s 10) (.s 2) (.s 0) 0 0, labNeedles, 0x8480B341, _, rfl, rfl, labNeedles_good.2, by decide +kernel⟩,
   ⟨flds (.s 8) (.s 9) (.s 2) (.s 5) 0 0, labNeedles, _, 0x100010B6, _, rfl, rfl, labNeedles_good.1, rfl, cast (if_neg
     Bool.false_ne_true).symm rfl, by decide +kernel⟩,
   ⟨flds (.s 8) (.s 1) (.s 2) (.s 5) 0 0, lab, _, opt_get (by decide +kernel), by decide +kernel⟩,
   ⟨flds (.s 8) (.s 5) (.s 2) (.s 1) 5 0, lab, by decide +kernel⟩,
   ⟨flds (.s 8) (.s 1) (.s 2) (.s 5) 0 0, lab, by decide +kernel⟩,
   ⟨flds (.s 8) (.s 5) (.s 2) (.s 1) 5 0, lab, by decide +kernel⟩⟩

/-- The hypotheses of the clauses of `BarrierInstructionsComplete` can be met. -/
theorem test_barrier_instructions_complete :
    (∃ (f : Fields) (s : State) (p : Part) (ps : List Part), Cleared (s.workingF f) (.tagged (!f.mod.getLsbD 0))
      nodeAlign [⟨s.sa f, 16, 0, [(s.sa f, 8, 0), (s.sa f + 8, 8, 8)]⟩] (p :: ps) ∧ ReadyF f s ∧ (s.workingF f).heldBack s.cur
      s.seq 0 true [⟨p.loc, 16, 0⟩] = false ∧ f.mod.getLsbD 0 = false ∧ s.sb f ≠ 0 ∧ (s.sb f).toNat < 65536 ∧
      s.spad.wf = true ∧ (∀ w ∈ s.bank, w.loc.addr ≠ p.loc.addr ∧ w.loc.addr ≠ p.loc.addr + 8)) ∧
    (∃ (f : Fields) (s : State) (p : Part) (ps : List Part), Cleared (s.workingF f) (.tagged (!f.mod.getLsbD 0))
      nodeAlign [⟨s.sa f, 16, 0, [(s.sa f, 8, 0), (s.sa f + 8, 8, 8)]⟩] (p :: ps) ∧ ReadyF f s ∧ (s.workingF f).heldBack s.cur
      s.seq 0 true [⟨p.loc, 16, 0⟩] = false ∧ f.mod.getLsbD 0 = true) ∧
    (∃ (f : Fields) (s : State) (p : Part) (ps : List Part), Cleared (s.workingF f) (.tagged (!f.mod.getLsbD 0))
      nodeAlign [⟨s.sa f, 16, 0, [(s.sa f, 8, 0), (s.sa f + 8, 8, 8)]⟩] (p :: ps) ∧ ReadyF f s ∧ (s.workingF f).heldBack s.cur
      s.seq 0 true [⟨p.loc, 16, 0⟩] = false ∧ f.mod.getLsbD 0 = false ∧ (s.sb f = 0 ∨ 65536 ≤ (s.sb f).toNat)) ∧
    (∃ (f : Fields) (s w : State) (n : Place) (r : State), NodeChecked f s w n ∧ Released w r ∧ ReadyF f s) ∧
    (∃ (f : Fields) (s w : State) (n : Place), NodeChecked f s w n ∧ ReadyF f s) ∧
    (∃ (f : Fields) (s w : State) (n : Place), NodeChecked f s w n ∧ ReadyF f s ∧ s.me.canp = false) ∧
    (∃ (f : Fields) (s w : State) (n : Place) (r : State), NodeChecked f s w n ∧ Released w r ∧ ReadyF f s ∧ s.me.canp
      = false ∧ s.me.standing = none) ∧
    (∃ (f : Fields) (s w : State) (n : Place) (tok : BitVec 32), NodeChecked f s w n ∧ s.me.standing = some tok ∧
      ReadyF f s ∧ s.me.canp = false) ∧
    (∃ (f : Fields) (s w : State) (n : Place), NodeChecked f s w n ∧ ReadyF f s ∧ NotGuard f.dst ∧ s.me.canp = false ∧
      Quiet s (coreEnd (coreOfKey n.addr)) 2 ∧ Quiet s (coreEnd s.me.core) 2 ∧ s.tagK n.addr = true ∧ s.spad.wf = true ∧ tokenPassed (s.nodePhase
      n.addr) (bits (s.sb f) 31 0) = true) ∧
    (∃ (f : Fields) (s w : State) (n : Place) (r : State), NodeChecked f s w n ∧ Released w r ∧ ReadyF f s ∧ NotGuard
      f.dst ∧ s.me.canp = false ∧ Quiet s (coreEnd (coreOfKey n.addr)) 2 ∧ Quiet s (coreEnd s.me.core) 2 ∧ s.tagK n.addr = true ∧ s.spad.wf = true ∧
      s.me.standing = none ∧ s.nodeParent n.addr = 0 ∧ s.nodeArrived n.addr + 1 = s.nodeTarget n.addr ∧ s.node n.addr
      = Node.idle ∧ s.bankLoad (bankOf n.addr) < 32 ∧ s.basteReq = none) ∧
    (∃ (f : Fields) (s w : State) (n : Place) (ph : Nat), NodeChecked f s w n ∧ ph = bits (s.sb f) 31 0 ∧ ReadyF f s ∧
      NotGuard f.dst ∧ s.tagK n.addr = true ∧ s.nodeParent n.addr = 0 ∧ tokenPassed (s.nodePhase n.addr) ph = false) ∧
    (∃ (f : Fields) (s w : State) (n : Place) (ph : Nat), NodeChecked f s w n ∧ ph = bits (s.sb f) 31 0 ∧ ReadyF f s ∧
      NotGuard f.dst ∧ (s.tagK n.addr = false ∨ s.nodeParent n.addr ≠ 0 ∨ tokenPassed (s.nodePhase n.addr) ph = true)) :=
  ⟨⟨flds (.s 8) (.s 3) (.s 9) (.s 0) 0 0, labWith [(9, 65535)], _, _, cleared_cons (by decide +kernel)
     (by decide +kernel), by decide +kernel⟩,
   ⟨flds (.s 8) (.s 3) (.s 0) (.s 5) 3 0, lab, _, _, cleared_cons (by decide +kernel) (by decide +kernel),
     by decide +kernel⟩,
   ⟨flds (.v 6) (.s 3) (.s 0) (.v 1) 0 0, lab, _, _, cleared_cons (by decide +kernel) (by decide +kernel),
     by decide +kernel⟩,
   ⟨flds (.s 8) (.s 3) (.s 0) (.s 5) 3 0, lab, _, S8.loc, _, node_checked (p := S8) (ps := [S8c]) (rows := [])
     (by decide +kernel), opt_get (by decide +kernel), by decide +kernel⟩,
   ⟨flds (.s 8) (.s 3) (.s 0) (.s 5) 3 0, lab, _, S8.loc, node_checked (p := S8) (ps := [S8c]) (rows := [])
     (by decide +kernel), by decide +kernel⟩,
   ⟨flds (.s 8) (.s 3) (.s 0) (.s 5) 3 0, lab, _, S8.loc, node_checked (p := S8) (ps := [S8c]) (rows := [])
     (by decide +kernel), by decide +kernel⟩,
   ⟨flds (.s 8) (.s 3) (.s 0) (.s 5) 3 0, lab, _, S8.loc, _, node_checked (p := S8) (ps := [S8c]) (rows := [])
     (by decide +kernel), opt_get (by decide +kernel), by decide +kernel⟩,
   ⟨flds (.s 8) (.s 3) (.s 0) (.s 5) 3 0, (labNode 4).onMe fun t =>
     { t with wdr := true, waitObj := 0xFF80000000000003 }, _, S8.loc, _, node_checked (p := S8) (ps := [S8c]) (rows
     := []) (by decide +kernel), opt_get (by decide +kernel), by decide +kernel⟩,
   ⟨flds (.s 8) (.s 3) (.s 0) (.s 5) 3 0, labNode 0, _, S8.loc, node_checked (p := S8) (ps := [S8c]) (rows := [])
     (by decide +kernel), by decide +kernel⟩,
   ⟨flds (.s 8) (.s 3) (.s 0) (.s 5) 3 0, labNode 4, _, S8.loc, _, node_checked (p := S8) (ps := [S8c]) (rows := [])
     (by decide +kernel), opt_get (by decide +kernel), by decide +kernel⟩,
   ⟨flds (.s 8) (.s 3) (.s 10) (.s 0) 0 0, labNode 0, _, S8.loc, _, node_checked (p := S8) (ps := [S8c]) (rows := [])
     (by decide +kernel), rfl, by decide +kernel⟩,
   ⟨flds (.s 8) (.s 3) (.s 0) (.s 5) 3 0, lab, _, S8.loc, _, node_checked (p := S8) (ps := [S8c]) (rows := [])
     (by decide +kernel), rfl, by decide +kernel⟩⟩

/-- The hypotheses of the clauses of `SpecialRegistersReadAndWrite` can be met. -/
theorem test_special_registers_read_and_write :
    (∃ (f : Fields) (s : State), ReadyF f s ∧ NotGuard f.dst ∧ srNum f < 0x100) ∧
    (∃ (f : Fields) (s : State), ReadyF f s ∧ NotGuard f.dst ∧ 0x100 ≤ srNum f) ∧
    (∃ (f : Fields) (s : State) (n : Nat), n = srNum f ∧ Ready f.guard [] [] [] s ∧ srLocked n = true) ∧
    (∃ (f : Fields) (s : State) (n : Nat), n = srNum f ∧ Ready f.guard [] [] [] s ∧ srLocked n = false ∧ s.me.full
      f.a.reg = true ∧ s.me.landing [f.a.reg] = false ∧ srReserved n (s.sa f) = true) ∧
    (∃ (f : Fields) (s : State) (n : Nat), n = srNum f ∧ Ready f.guard [] [] [] s ∧ srLocked n = false ∧ s.me.full
      f.a.reg = true ∧ s.me.landing [f.a.reg] = false ∧ srReserved n (s.sa f) = false ∧ f.a.reg ∉ s.me.spoiled) :=
  ⟨⟨flds (.s 8) (.s 1) (.s 2) (.s 5) 0 0, lab, by decide +kernel⟩,
   ⟨flds (.s 8) (.s 1) (.s 0) (.s 0) 0 0x100, lab, by decide +kernel⟩,
   ⟨flds (.s 8) (.s 1) (.s 2) (.s 5) 0 0, lab, _, rfl, by decide +kernel⟩,
   ⟨flds (.s 0) (.s 5) (.s 0) (.s 0) 0 0x30, lab, _, rfl, by decide +kernel⟩,
   ⟨flds (.s 8) (.s 4) (.s 0) (.s 5) 3 60, lab, _, rfl, by decide +kernel⟩⟩

/-- The hypotheses of the clauses of `TrapEntrySavesAndJumps` can be met. -/
theorem test_trap_entry_saves_and_jumps :
    (∃ (s : State), s.me.inh = false ∧ (s.lease s.me.lease).trapVec ≠ 0) ∧
    (∃ (s : State), s.me.inh = false ∧ (s.lease s.me.lease).trapVec = 0) ∧
    (∃ (s : State), s.me.inh = true) :=
  ⟨⟨lab, by decide +kernel⟩,
   ⟨labNoHandler, by decide +kernel⟩,
   ⟨labInHandler, by decide +kernel⟩⟩

/-- The hypotheses of the clauses of `SoftwareTrapsAndTheirReturn` can be met. -/
theorem test_software_traps_and_their_return :
    (∃ (f : Fields) (s : State), Ready f.guard [] [] [] s ∧ s.me.inh = false ∧ (s.lease s.me.lease).trapVec ≠ 0) ∧
    (∃ (f : Fields) (s : State), Ready f.guard [] [] [] s ∧ s.me.inh = false ∧ (s.lease s.me.lease).trapVec ≠ 0 ∧
      (s.lease s.me.lease).debugger = false) ∧
    (∃ (f : Fields) (s : State), Ready f.guard [] [] [] s) ∧
    (∃ (f : Fields) (s : State), Ready f.guard [] [] [] s ∧ (s.lease s.me.lease).debugger = false) ∧
    (∃ (f : Fields) (s : State), Ready f.guard [] [] [] s ∧ (s.lease s.me.lease).debugger = true) ∧
    (∃ (f : Fields) (s : State), Ready f.guard [] [] [] s ∧ s.me.inh = true) ∧
    (∃ (f : Fields) (s : State), Ready f.guard [] [] [] s ∧ s.me.inh = false) ∧
    (∃ (s t : State) (c cause : BitVec 8) (pc addr info : Word) (waiting : Nat) (l : Lease) (full : Bool), c = (if
      s.me.inh then 0x3F else cause) ∧ t = s.takeTrap s.cur cause pc addr info ∧ waiting = (s.dumps.filter fun d =>
      (s.task d.task).lease == s.me.lease).length ∧ l = s.lease s.me.lease ∧ full = (decide (l.dumpSlots ≤
      l.dumpUsed.length + waiting) || decide (64 < waiting)) ∧ s.me.live = true ∧ (s.me.inh = true ∨ (s.lease
      s.me.lease).trapVec = 0) ∧ (l.dumpSlots = 0 ∨ full = true)) ∧
    (∃ (s t : State) (c cause : BitVec 8) (pc addr info : Word) (waiting : Nat) (l : Lease) (full : Bool), c = (if
      s.me.inh then 0x3F else cause) ∧ t = s.takeTrap s.cur cause pc addr info ∧ waiting = (s.dumps.filter fun d =>
      (s.task d.task).lease == s.me.lease).length ∧ l = s.lease s.me.lease ∧ full = (decide (l.dumpSlots ≤
      l.dumpUsed.length + waiting) || decide (64 < waiting)) ∧ s.me.live = true ∧ (s.me.inh = true ∨ (s.lease
      s.me.lease).trapVec = 0) ∧ (l.dumpSlots = 0 ∨ full = true) ∧ l.dumpSlots ≠ 0) ∧
    (∃ (s t : State) (c cause : BitVec 8) (pc addr info : Word) (waiting : Nat) (l : Lease) (full : Bool), c = (if
      s.me.inh then 0x3F else cause) ∧ t = s.takeTrap s.cur cause pc addr info ∧ waiting = (s.dumps.filter fun d =>
      (s.task d.task).lease == s.me.lease).length ∧ l = s.lease s.me.lease ∧ full = (decide (l.dumpSlots ≤
      l.dumpUsed.length + waiting) || decide (64 < waiting)) ∧ s.me.live = true ∧ (s.me.inh = true ∨ (s.lease
      s.me.lease).trapVec = 0) ∧ (l.dumpSlots = 0 ∨ full = true) ∧ s.me.act = none ∧ s.me.self ≠ 0) ∧
    (∃ (s t : State) (c cause : BitVec 8) (pc addr info : Word) (waiting : Nat) (l : Lease) (full : Bool), c = (if
      s.me.inh then 0x3F else cause) ∧ t = s.takeTrap s.cur cause pc addr info ∧ waiting = (s.dumps.filter fun d =>
      (s.task d.task).lease == s.me.lease).length ∧ l = s.lease s.me.lease ∧ full = (decide (l.dumpSlots ≤
      l.dumpUsed.length + waiting) || decide (64 < waiting)) ∧ full = false ∧ s.me.live = true ∧ (s.me.inh = true ∨
      (s.lease s.me.lease).trapVec = 0) ∧ l.dumpSlots ≠ 0) :=
  ⟨⟨flds (.s 8) (.s 1) (.s 2) (.s 5) 0 0, lab, by decide +kernel⟩,
   ⟨flds (.s 8) (.s 1) (.s 2) (.s 5) 0 0, lab, by decide +kernel⟩,
   ⟨flds (.s 8) (.s 1) (.s 2) (.s 5) 0 0, lab, by decide +kernel⟩,
   ⟨flds (.s 8) (.s 1) (.s 2) (.s 5) 0 0, lab, by decide +kernel⟩,
   ⟨flds (.s 8) (.s 1) (.s 2) (.s 5) 0 0, lab.onLease 1 fun l => { l with debugger := true }, by decide +kernel⟩,
   ⟨flds (.s 8) (.s 1) (.s 2) (.s 5) 0 0, labInHandler.onLease 1 fun l => { l with dumpSlots := 2 },
     by decide +kernel⟩,
   ⟨flds (.s 8) (.s 1) (.s 2) (.s 5) 0 0, lab, by decide +kernel⟩,
   ⟨labNoHandler, _, _, 0, 0, 0, 0, _, _, _, rfl, rfl, rfl, rfl, rfl, by decide +kernel⟩,
   ⟨labNoHandler.onLease 1 fun l => { l with dumpSlots := 2, dumpUsed := [0, 1] }, _, _, 0, 0, 0, 0, _, _, _, rfl,
     rfl, rfl, rfl, rfl, by decide +kernel⟩,
   ⟨labNoHandler, _, _, 0, 0, 0, 0, _, _, _, rfl, rfl, rfl, rfl, rfl, by decide +kernel⟩,
   ⟨labInHandler.onLease 1 fun l => { l with dumpSlots := 2 }, _, _, 0, 0, 0, 0, _, _, _, rfl, rfl, rfl, rfl, rfl,
     rfl, by decide +kernel⟩⟩

/-- The hypotheses of the clauses of `TraceRecordsAndPatternsComplete` can be met. -/
theorem test_trace_records_and_patterns_complete :
    (∃ (f : Fields) (s : State) (r : TraceRing), r = (s.lease s.me.lease).trace ∧ Ready f.guard [(1, f.a)] [] [] s ∧
      r.tctl.getLsbD 0 = true ∧ r.pending = 0 ∧ r.free = true) ∧
    (∃ (f : Fields) (s : State) (r : TraceRing), r = (s.lease s.me.lease).trace ∧ Ready f.guard [] [] [f.dst] s ∧
      s.owes s.cur = false ∧ NotGuard f.dst) ∧
    (∃ (f : Fields) (s : State) (i : Word) (off : Nat), i = s.sa f ∧ off = fld f.imm 7 0 ∧ ReadyF f s ∧ i.toNat < 4096
      ∧ patchable off = true ∧ ((s.lease s.me.lease).record i.toNat).state = .idle) ∧
    (∃ (f : Fields) (s : State) (i : Word) (off : Nat), i = s.sa f ∧ off = fld f.imm 7 0 ∧ ReadyF f s ∧ (4096 ≤
      i.toNat ∨ patchable off = false ∨ ((s.lease s.me.lease).record i.toNat).state ≠ .idle)) ∧
    (∃ (f : Fields) (s : State) (i : Word) (off : Nat), i = s.sa f ∧ off = fld f.imm 7 0 ∧ ReadyF f s ∧ 4096 ≤
      i.toNat) ∧
    (∃ (f : Fields) (s : State) (i : Word) (off : Nat), i = s.sa f ∧ off = fld f.imm 7 0 ∧ ReadyF f s ∧ i.toNat < 4096
      ∧ NotGuard f.dst ∧ ((s.lease s.me.lease).record i.toNat).state ≠ .idle) ∧
    (∃ (f : Fields) (s : State) (i : Word) (off : Nat), i = s.sa f ∧ off = fld f.imm 7 0 ∧ ReadyF f s ∧ i.toNat < 4096
      ∧ NotGuard f.dst ∧ ((s.lease s.me.lease).record i.toNat).state = .idle ∧ s.versionFree s.me.lease = false ∧
      s.me.canp = false) ∧
    (∃ (f : Fields) (s : State) (i : Word) (off : Nat), i = s.sa f ∧ off = fld f.imm 7 0 ∧ ReadyF f s ∧ i.toNat < 4096
      ∧ NotGuard f.dst ∧ ((s.lease s.me.lease).record i.toNat).state = .idle ∧ s.versionFree s.me.lease = true) ∧
    (∃ (f : Fields) (s : State) (i : Word) (off : Nat), i = s.sa f ∧ off = fld f.imm 7 0 ∧ ReadyF f s ∧ patOk
      ((s.me.value f.a.reg).setWidth 512) = true) ∧
    (∃ (f : Fields) (s : State) (i : Word) (off : Nat), i = s.sa f ∧ off = fld f.imm 7 0 ∧ ReadyF f s ∧ patOk
      ((s.me.value f.a.reg).setWidth 512) = false) :=
  ⟨⟨flds (.s 8) (.s 1) (.s 2) (.s 5) 0 0, lab.onLease 1 fun l =>
     { l with trace := { l.trace with tctl := 0x080001, tring := 0x1000 } }, (lab.onLease 1 fun l =>
     { l with trace := { l.trace with tctl := 0x080001, tring := 0x1000 } }).lease 1 |>.trace, by decide +kernel⟩,
   ⟨flds (.s 8) (.s 1) (.s 2) (.s 5) 0 0, lab, _, rfl, by decide +kernel⟩,
   ⟨flds (.s 8) (.s 1) (.s 2) (.s 5) 0 0, lab, _, _, rfl, rfl, by decide +kernel⟩,
   ⟨flds (.s 8) (.s 1) (.s 2) (.s 5) 0 0, lab.onLease 1 fun l => { l with records := [(5, ⟨0, .armed, 3, none⟩)] }, _,
     _, rfl, rfl, by decide +kernel⟩,
   ⟨flds (.s 8) (.s 5) (.s 2) (.s 1) 5 0, lab, _, _, rfl, rfl, by decide +kernel⟩,
   ⟨flds (.s 8) (.s 1) (.s 2) (.s 5) 0 0, lab.onLease 1 fun l => { l with records := [(5, ⟨0, .armed, 3, none⟩)] }, _,
     _, rfl, rfl, by decide +kernel⟩,
   ⟨flds (.s 8) (.s 1) (.s 2) (.s 5) 0 0, { labWith [(9, 5)] with launches := [(0, Launch.none)] }, _, _, rfl, rfl,
     by decide +kernel⟩,
   ⟨flds (.s 8) (.s 1) (.s 2) (.s 5) 0 0, lab, _, _, rfl, rfl, by decide +kernel⟩,
   ⟨flds (.v 6) (.v 1) (.v 2) (.p 0) 0 0, lab, _, _, rfl, rfl, by decide +kernel⟩,
   ⟨flds (.s 8) (.s 1) (.s 2) (.s 5) 0 0, lab, _, _, rfl, rfl, by decide +kernel⟩⟩

/-- The hypotheses of the clauses of `ResultsReturn` can be met. -/
theorem test_results_return :
    (∃ (s : State) (id : Nat) (r : Reg) (x : VWord) (rest : List (Reg × VWord)), (s.task id).fixed = (r, x) :: rest) ∧
    (∃ (s : State) (k id src dst : Nat) (r : Reg) (x : VWord) (n : Bool) (va : Word), Arrives s k id src dst (.value r
      x false n va) ∧ (s.task id).inRecord = false ∧ (s.task id).wait ≠ .answer k) ∧
    (∃ (s : State) (k id src dst : Nat) (r : Reg) (x : VWord) (n : Bool) (va : Word), Arrives s k id src dst (.value r
      x false n va) ∧ (s.task id).inRecord = false ∧ (s.task id).wait = .answer k ∧ (s.task id).canp = false) ∧
    (∃ (s : State) (k id src dst : Nat) (r : Reg) (x : VWord) (n : Bool) (va : Word), Arrives s k id src dst (.value r
      x true n va) ∧ (s.task id).wait ≠ .answer k ∧ (∀ d ∈ s.dumps, d.task ≠ id)) ∧
    (∃ (s : State) (k id src dst : Nat) (r : Reg) (x : VWord) (n : Bool) (va : Word) (d : Dump), Arrives s k id src
      dst (.value r x true n va) ∧ s.dumps.find? (fun d => d.task == id) = some d ∧ (s.task id).wait ≠ .answer k ∧
      d.secondary.length < 7) ∧
    (∃ (s : State) (k id src dst : Nat), Arrives s k id src dst .ack ∧ (s.task id).wait ≠ .answer k) ∧
    (∃ (s : State) (k id src dst : Nat), Arrives s k id src dst .release ∧ (∀ g ∈ s.flight, g.task = id → g.id < k → ¬
      (match g.body with | .access _ | .tagged .. | .resend .. | .release => True | _ => False))) :=
  ⟨⟨lab.onMe fun t => { t with fixed := [(.s 8, 7)] }, 0, _, _, _, rfl⟩,
   ⟨labFlight (.value (.s 8) 7 false true 0), 3, _, _, _, _, _, _, _, ⟨_, rfl, by decide +kernel⟩, by decide +kernel⟩,
   ⟨(labFlight (.value (.s 8) 7 false false 0)).onMe fun t => { t with wait := .answer 3, loom := .waiting }, 3, _, _,
     _, _, _, _, _, ⟨_, rfl, by decide +kernel⟩, by decide +kernel⟩,
   ⟨labFlight (.value (.s 8) 7 true true 0x400), 3, _, _, _, _, _, _, _, ⟨_, rfl, by decide +kernel⟩,
     by decide +kernel⟩,
   ⟨{ labFlight (.value (.s 8) 7 true true 0x400) with dumps := [⟨0, 0x18, [], false, none, 0⟩] }, 3, _, _, _, _, _,
     _, _, _, ⟨_, rfl, by decide +kernel⟩, opt_get (by decide +kernel), by decide +kernel⟩,
   ⟨labFlight (.ack), 3, _, _, _, ⟨_, rfl, by decide +kernel⟩, by decide +kernel⟩,
   ⟨labFlight (.release), 3, _, _, _, ⟨_, rfl, by decide +kernel⟩, forall_one rfl fun _ h => absurd h (by decide)⟩⟩

/-- The hypotheses of the clauses of `MemoryAccessesPerform` can be met. -/
theorem test_memory_accesses_perform :
    (∃ (s : State) (k id src dst : Nat) (a : Access) (p : Part) (d : Reg), Arrives s k id src dst (.access a) ∧
      a.parts = [p] ∧ a.dst = some d ∧ (a.kind = .load ∨ ∃ op, a.kind = .atomic op) ∧ p.loc.space = .spad ∧ s.heldBack
      id k a.ord a.changes a.parts = false ∧ s.spad.wf = true ∧ s.isMarked p.loc p.size = true) ∧
    (∃ (s : State) (k id src dst : Nat) (a : Access) (p : Part) (d : Reg), Arrives s k id src dst (.access a) ∧
      a.parts = [p] ∧ a.dst = some d ∧ p.loc.space = .spad ∧ s.heldBack id k a.ord a.changes a.parts = false ∧
      s.spad.wf = true ∧ s.isMarked p.loc p.size = false ∧ a.kind = .load) ∧
    (∃ (s : State) (k id src dst : Nat) (a : Access) (p : Part) (op : AtomicOp) (r : Option Nat), Arrives s k id src
      dst (.access a) ∧ a.parts = [p] ∧ r = atomicRule op a.signed (8 * p.size) (s.spad.num p.loc.addr p.size)
      (a.operand.toNat % 2 ^ (8 * p.size)) (a.data.toNat % 2 ^ (8 * p.size)) ∧ p.loc.space = .spad ∧ s.heldBack id k
      a.ord a.changes a.parts = false ∧ s.spad.wf = true ∧ s.isMarked p.loc p.size = false ∧ a.kind = .atomic op) ∧
    (∃ (s : State) (k id src dst : Nat) (a : Access) (p : Part), Arrives s k id src dst (.access a) ∧ a.parts = [p] ∧
      p.loc.space = .spad ∧ s.heldBack id k a.ord a.changes a.parts = false ∧ s.spad.wf = true ∧ a.kind = .store) ∧
    (∃ (s : State) (k id src dst : Nat) (a : Access) (p : Part) (attr : BitVec 3) (drop : Bool), Arrives s k id src
      dst (.access a) ∧ a.parts = [p] ∧ p.loc.space = .mem attr ∧ a.kind = .clean drop ∧ a.dst = none ∧ s.heldBack id
      k a.ord a.changes a.parts = false) :=
  ⟨⟨{ labFlight (.access (labAccess .load)) with spoilt := [0x20] }, 3, _, _, _, _, _, _, ⟨_, rfl, by decide +kernel⟩,
     rfl, opt_get (by decide +kernel), .inl rfl, by decide +kernel⟩,
   ⟨labFlight (.access (labAccess .load)), 3, _, _, _, _, _, _, ⟨_, rfl, by decide +kernel⟩, rfl, opt_get
     (by decide +kernel), by decide +kernel⟩,
   ⟨labFlight (.access (labAccess (.atomic .add))), 3, _, _, _, _, _, .add, _, ⟨_, rfl, by decide +kernel⟩, rfl, rfl,
     by decide +kernel⟩,
   ⟨labStoring, 3, _, _, _, _, _, ⟨_, rfl, by decide +kernel⟩, rfl, by decide +kernel⟩,
   ⟨{ labL1 with
     flight := [⟨3, 0, 0, 0, 0, .access ⟨.clean false, [⟨⟨.mem 0, 0x400, 0x400, none⟩, 64, 0⟩], 0, 0, 0, none, 0, false, 0, 0⟩⟩] },
     3, _, _, _, _, _, 0, false, ⟨_, rfl, by decide +kernel⟩, rfl, by decide +kernel⟩⟩

/-- The hypotheses of the clauses of `TaggedRequestsAndFaultsAreServed` can be met. -/
theorem test_tagged_requests_and_faults_are_served :
    (∃ (s : State) (k id src dst : Nat) (op : TaggedOp) (loc : Place) (r : Reg) (x : Word) (q : Bool), Arrives s k id
      src dst (.tagged op loc r x q) ∧ tagReady s op loc.addr = true ∧ (∀ w ∈ s.bank, w.loc.addr ≠ loc.addr)) ∧
    (∃ (s : State) (k id src dst : Nat) (op : TaggedOp) (loc : Place) (r : Reg) (x : Word) (q : Bool), Arrives s k id
      src dst (.tagged op loc r x q) ∧ tagReady s op loc.addr = false ∧ s.bankLoad (bankOf loc.addr) < 32) ∧
    (∃ (s : State) (k id src dst : Nat) (op : TaggedOp) (loc : Place) (r : Reg) (x : Word) (q : Bool), Arrives s k id
      src dst (.tagged op loc r x q) ∧ tagReady s op loc.addr = false ∧ 32 ≤ s.bankLoad (bankOf loc.addr)) ∧
    (∃ (s : State) (k id src dst : Nat) (op : TaggedOp) (loc : Place) (r : Reg) (x : Word), Arrives s k id src dst
      (.resend op loc r x)) ∧
    (∃ (s : State) (k id src dst n w : Nat), Arrives s k id src dst (.withdraw n w) ∧ (∃ g ∈ s.flight, g.id = w ∧ g.id
      ≠ k ∧ (g.body = .ack ∨ ∃ d x bad c va, g.body = .value d x bad c va)) ∧ (∀ g ∈ s.flight, g.id = w → ¬
      (match g.body with | .tagged .. | .arrive .. | .nodeWait .. => True | _ => False)) ∧ (s.task id).live = true) ∧
    (∃ (s : State) (k id src dst n w : Nat), Arrives s k id src dst (.withdraw n w) ∧ (s.task id).live = true ∧ (∀ g ∈
      s.flight, g.id ≠ w) ∧ (s.task id).canp = false) ∧
    (∃ (s : State) (k id src dst n w : Nat), Arrives s k id src dst (.withdraw n w) ∧ (s.task id).live = true ∧ (∀ g ∈
      s.flight, g.id ≠ w) ∧ (s.task id).canp = true) ∧
    (∃ (s s1 : State) (k : Nat) (w : Walk) (id : Nat) (a i e : Word) (base size : Nat), w.who = [.task id a i] ∧
      { s with walks := s.walks.eraseIdx k }.walkOn w.lease (w.page * 65536) = (s1, .leaf e base size) ∧ (s.task
      id).live = true ∧ s.walks[k]? = some w ∧ s.walking k w = true ∧ (s.task id).loom = .waiting ∧ (s.task id).wait =
      .walk w.page) ∧
    (∃ (s s1 : State) (k : Nat) (w : Walk) (id : Nat) (a i : Word) (lvl : Nat) (bad : Bool), w.who = [.task id a i] ∧
      { s with walks := s.walks.eraseIdx k }.walkOn w.lease (w.page * 65536) = (s1, .stop lvl bad) ∧ (s.task id).live
      = true ∧ s.walks[k]? = some w ∧ s.walking k w = true ∧ (∀ x ∈ s.faults, ¬ (x.lease = w.lease ∧ x.page = w.page))
      ∧ s.holdsAny id = false ∧ s.localPending id = false) ∧
    (∃ (s s1 : State) (k : Nat) (w : Walk) (id : Nat) (a i : Word) (lvl : Nat) (bad : Bool), w.who = [.task id a i] ∧
      { s with walks := s.walks.eraseIdx k }.walkOn w.lease (w.page * 65536) = (s1, .stop lvl bad) ∧ (s.task id).live
      = true ∧ s.walks[k]? = some w ∧ s.walking k w = true ∧ (∀ x ∈ s.faults, ¬ (x.lease = w.lease ∧ x.page = w.page))
      ∧ s.holdsAny id = true ∧ (s.task id).canp = false) ∧
    (∃ (s : State) (k : Nat) (w : Walk) (id : Nat) (a i : Word) (m : PageMap), w.who = [.task id a i] ∧ (s.task
      id).live = true ∧ s.faults[k]? = some w ∧ s.faultsServed = true ∧ (s.task id).canp = false ∧ entriesOk m = true ∧
      (s.task id).loom = .faulted) ∧
    (∃ (s : State) (k : Nat) (w : Walk) (id : Nat) (a i : Word), w.who = [.task id a i] ∧ (s.task id).live = true ∧
      s.faults[k]? = some w ∧ s.faultsServed = true ∧ (s.task id).canp = false ∧ (s.task id).loom = .waiting ∧ (s.task id).wait = .fault) ∧
    (∃ (s : State) (k : Nat) (w : Walk) (id : Nat) (a i : Word), w.who = [.task id a i] ∧ (s.task id).live = true ∧
      s.faults[k]? = some w ∧ s.faultsServed = true ∧ (s.task id).canp = false) :=
  ⟨⟨{ labFlight (.tagged .ldf ⟨.spad, 0x100, 0, none⟩ (.s 8) 0 true) with tags := [(0x100, 1)] }, 3, _, _, _, _, _, _, _, _,
     ⟨_, rfl, by decide +kernel⟩, by decide +kernel⟩,
   ⟨labFlight (.tagged .ldf ⟨.spad, 0x100, 0, none⟩ (.s 8) 0 true), 3, _, _, _, _, _, _, _, _, ⟨_, rfl, by decide +kernel⟩,
     by decide +kernel⟩,
   ⟨{ labFlight (.tagged .ldf ⟨.spad, 0x100, 0, none⟩ (.s 8) 0 true) with
     bank := (List.range 32).map fun i => ⟨i, 9, .ldf, ⟨.spad, 0x100, 0, none⟩, .s 8, 0⟩ }, 3, _, _, _, _, _, _, _, _, ⟨_,
     rfl, by decide +kernel⟩, by decide +kernel⟩,
   ⟨labFlight (.resend .ldf ⟨.spad, 0x100, 0, none⟩ (.s 8) 0), 3, _, _, _, _, _, _, _, ⟨_, rfl, by decide +kernel⟩⟩,
   ⟨{ lab with flight := [⟨3, 0, 0, 0, 0, .withdraw 0 2⟩, ⟨2, 0, 0, 0, 1, .ack⟩] }, 3, _, _, _, _, 2, ⟨_, rfl,
     by decide +kernel⟩, ⟨_, List.mem_cons_of_mem _ (List.mem_singleton_self _), rfl, by decide, .inl rfl⟩, forall_two
     rfl (fun _ => id) (fun _ => id), by decide +kernel⟩,
   ⟨{ labFlight (.withdraw 0 2) with bank := [⟨2, 0, .ldf, ⟨.spad, 0x100, 0, none⟩, .s 8, 0⟩] }, 3, _, _, _, _, _, ⟨_, rfl,
     by decide +kernel⟩, by decide +kernel⟩,
   ⟨(labFlight (.withdraw 0 2)).onMe fun t => { t with canp := true }, 3, _, _, _, _, _, ⟨_, rfl, by decide +kernel⟩,
     by decide +kernel⟩,
   ⟨labWalking.onMe fun t => { t with loom := .waiting, wait := .walk 5 }, _, 0, labWalk, _, _, _, _, _, _, rfl, rfl,
     by decide +kernel⟩,
   ⟨{ lab with walks := [labWalk] }, _, 0, labWalk, _, _, _, _, _, rfl, rfl, by decide +kernel⟩,
   ⟨{ labHolder with walks := [labWalk] }, _, 0, labWalk, _, _, _, _, _, rfl, rfl, by decide +kernel⟩,
   ⟨labFaulted, 0, labWalk, _, _, _, ⟨[]⟩, rfl, by decide +kernel⟩,
   ⟨{ lab.onMe fun t => { t with loom := .waiting, wait := .fault } with faults := [labWalk] }, 0, labWalk, _, _, _,
     rfl, by decide +kernel⟩,
   ⟨labFaulted, 0, labWalk, _, _, _, rfl, by decide +kernel⟩⟩

/-- The hypotheses of the clauses of `CopyCommandsAndPermitsMove` can be met. -/
theorem test_copy_commands_and_permits_move :
    (∃ (s : State) (u : EngineUnit) (k : Nat) (c : Command), s.job? u k = some c ∧ c.held ≠ none ∧ c.heldValue =
      some true ∧ c.op ≠ .cquery) ∧
    (∃ (s : State) (u : EngineUnit) (k : Nat) (c : Command), s.job? u k = some c ∧ (c.held = none ∨ c.heldValue =
      some true) ∧ c.op = .cquery ∧ heldBefore (s.jobs u) c.task k = false) ∧
    (∃ (s : State) (u : EngineUnit) (k : Nat) (c : Command), s.job? u k = some c ∧ c.held ≠ none ∧ c.heldValue =
      some false) ∧
    (∃ (p : Permit) (s : State) (u : EngineUnit) (k : Nat) (c : Command), s.job? u k = some c ∧ c.permit = some p ∧
      c.held ≠ none ∧ c.heldValue = some false) ∧
    (∃ (s s' : State) (pos chan : Nat) (c : Command), s.nextCopy pos = some c ∧ s' =
      { s.onCluster pos (fun cl => { cl with served := cl.served.put c.task s.seq }) with
      seq := s.seq + 1 } ∧ s.enginesRun pos = true ∧ (s.cluster pos).channel chan = none ∧ chan < 4 ∧ c.started =
      true) ∧
    (∃ (s s' : State) (pos chan : Nat) (c : Command) (st : BitVec 8), s.nextCopy pos = some c ∧ s' =
      { s.onCluster pos (fun cl => { cl with served := cl.served.put c.task s.seq }) with
      seq := s.seq + 1 } ∧ copyPrecheck s' pos c = some st ∧ s.enginesRun pos = true ∧ (s.cluster pos).channel chan =
      none ∧ chan < 4 ∧ c.started = false) ∧
    (∃ (s s' : State) (pos chan : Nat) (c : Command), s.nextCopy pos = some c ∧ s' =
      { s.onCluster pos (fun cl => { cl with served := cl.served.put c.task s.seq }) with
      seq := s.seq + 1 } ∧ s.enginesRun pos = true ∧ (s.cluster pos).channel chan = none ∧ chan < 4 ∧ c.started =
      false ∧ copyPrecheck s' pos c = none ∧ c.op ≠ .permit) ∧
    (∃ (s s' : State) (pos chan : Nat) (c : Command), s.nextCopy pos = some c ∧ s' =
      { s.onCluster pos (fun cl => { cl with served := cl.served.put c.task s.seq }) with
      seq := s.seq + 1 } ∧ s.enginesRun pos = true ∧ (s.cluster pos).channel chan = none ∧ chan < 4 ∧ c.started =
      false ∧ copyPrecheck s' pos c = none ∧ c.op = .permit) ∧
    (∃ (s : State) (pos chan : Nat) (c : Command) (st : BitVec 8) (a : Nat), ((s.cluster pos).channel chan).bind
      (s.job? (.copy pos)) = some c ∧ c.status = some (st, a)) ∧
    (∃ (s s1 : State) (pos chan : Nat) (c : Command), ((s.cluster pos).channel chan).bind (s.job? (.copy pos)) = some
      c ∧ s.copyGranule pos c = (s1, none) ∧ c.status = none ∧ s.enginesRun pos = true ∧ s.commandWaits c.id = false ∧
      c.granules < 16 ∧ copyTotal c ≤ c.progress + granuleElems c) ∧
    (∃ (s s1 : State) (pos chan : Nat) (c : Command), ((s.cluster pos).channel chan).bind (s.job? (.copy pos)) = some
      c ∧ s.copyGranule pos c = (s1, none) ∧ c.status = none ∧ s.enginesRun pos = true ∧ s.commandWaits c.id = false ∧
      c.granules < 16 ∧ c.progress + granuleElems c < copyTotal c) ∧
    (∃ (s s1 : State) (pos chan : Nat) (c : Command) (st : BitVec 8) (a : Nat), ((s.cluster pos).channel chan).bind
      (s.job? (.copy pos)) = some c ∧ s.copyGranule pos c = (s1, some (.inr (st, a))) ∧ c.status = none ∧ s.enginesRun
      pos = true ∧ s.commandWaits c.id = false ∧ c.granules < 16) ∧
    (∃ (s s1 : State) (pos chan : Nat) (c : Command) (v : Nat) (a : Word), ((s.cluster pos).channel chan).bind (s.job?
      (.copy pos)) = some c ∧ s.copyGranule pos c = (s1, some (.inl (v, a))) ∧ c.status = none ∧ s.enginesRun pos =
      true ∧ s.commandWaits c.id = false ∧ c.granules < 16) ∧
    (∃ (s : State) (pos chan : Nat) (c : Command), ((s.cluster pos).channel chan).bind (s.job? (.copy pos)) = some c ∧
      16 ≤ c.granules) ∧
    (∃ (s : State) (pos id : Nat) (places : List (Option (Nat × Nat) × Nat)) (used : List (Nat × Nat × Nat × Nat)),
      s.firstIn pos .queued = some id ∧ placeTiles id (s.task id).tiles (s.cluster pos).tiles = some (places, used) ∧
      s.enginesRun pos = true ∧ (s.liveTasks.filter fun e => e.2.pos == pos && e.2.loom == .prefetching).length < 8 ∧
      (s.cluster pos).jobs.length < 64 ∧ s.unentered pos = none) ∧
    (∃ (s : State) (k id src dst cmd : Nat) (p : Permit) (mine : List Permit), Arrives s k id src dst (.grant cmd p) ∧
      mine = (s.cluster (p.idx / 65536)).permits.filter (fun x => x.idx == p.idx) ∧ (s.task p.idx).live = false) ∧
    (∃ (s : State) (k id src dst cmd : Nat) (p : Permit) (mine : List Permit), Arrives s k id src dst (.grant cmd p) ∧
      mine = (s.cluster (p.idx / 65536)).permits.filter (fun x => x.idx == p.idx) ∧ (s.task p.idx).live = true ∧ (∀ x
      ∈ mine, ¬ (x.granter = p.granter ∧ x.first = p.first ∧ x.last = p.last)) ∧ mine.length < 16 ∧ (s.cluster (p.idx
      / 65536)).permits.length < 1024) ∧
    (∃ (s : State) (k id src dst cmd : Nat) (p : Permit) (mine : List Permit), Arrives s k id src dst (.grant cmd p) ∧
      mine = (s.cluster (p.idx / 65536)).permits.filter (fun x => x.idx == p.idx) ∧ (s.task p.idx).live = true ∧ (∀ x
      ∈ mine, ¬ (x.granter = p.granter ∧ x.first = p.first ∧ x.last = p.last)) ∧ (16 ≤ mine.length ∨ 1024 ≤ (s.cluster
      (p.idx / 65536)).permits.length)) ∧
    (∃ (s : State) (k id src dst cmd : Nat) (p : Permit) (mine : List Permit), Arrives s k id src dst (.grant cmd p) ∧
      mine = (s.cluster (p.idx / 65536)).permits.filter (fun x => x.idx == p.idx) ∧ (s.task p.idx).live = true ∧ (∃ x
      ∈ mine, x.granter = p.granter ∧ x.first = p.first ∧ x.last = p.last)) ∧
    (∃ (s : State) (k id src dst cmd : Nat) (w : Word) (e : Nat × Cluster) (c : Command), Arrives s k id src dst
      (.grantStatus cmd w) ∧ s.clusters.find? (fun e => e.2.jobs.any fun c => c.id == cmd) = some e ∧ e.2.jobs.find?
      (fun c => c.id == cmd) = some c) ∧
    (∃ (s : State) (k id src dst core n : Nat), Arrives s k id src dst (.permitReturn core n)) :=
  ⟨⟨labJob false ({ labCommand 4 0 .get with held := some (false, 0), heldValue := some true }), .copy 0, 4, _, opt_get (by decide +kernel),
     by decide +kernel⟩,
   ⟨labJob false ({ labCommand 4 0 .cquery with held := some (false, 0), heldValue := some true, dst := .q 3 }), .copy 0, 4, _, opt_get
     (by decide +kernel), by decide +kernel⟩,
   ⟨labJob false ({ labCommand 4 0 .get with held := some (false, 0), heldValue := some false }), .copy 0, 4, _, opt_get (by decide +kernel),
     by decide +kernel⟩,
   ⟨_, labJob false { labCommand 4 0 .push with held := some (false, 0), heldValue := some false, permit := some labPermit }, .copy 0, 4, _,
     opt_get (by decide +kernel), opt_get (by decide +kernel), by decide +kernel⟩,
   ⟨labJob false ({ labCommand 4 0 .get with started := true }), _, 0, 0, _, opt_get (by decide +kernel), rfl,
     by decide +kernel⟩,
   ⟨labJob false ({ labCommand 4 0 .get with heldValue := some true }), _, 0, 0, _, _, opt_get (by decide +kernel),
     rfl, opt_get (by decide +kernel), by decide +kernel⟩,
   ⟨labJob false (labFill 8), _, 0, 0, _, opt_get (by decide +kernel), rfl, by decide +kernel⟩,
   ⟨labJob false ({ labFill 8 with op := .permit, ex := 1 }), _, 0, 0, _, opt_get (by decide +kernel), rfl,
     by decide +kernel⟩,
   ⟨labJob true ({ labCommand 4 0 .get with status := some (0x10, 0) }), 0, 0, _, _, _, opt_get (by decide +kernel),
     pair_get (by decide +kernel)⟩,
   ⟨labJob true (labFill 8), _, 0, 0, _, opt_get (by decide +kernel), rfl, by decide +kernel⟩,
   ⟨labJob true (labWide), _, 0, 0, _, opt_get (by decide +kernel), rfl, by decide +kernel⟩,
   ⟨labJob true (labGet), _, 0, 0, _, _, _, opt_get (by decide +kernel), rfl, by decide +kernel⟩,
   ⟨labJob true { labGet with px := labPat 3 0x500000 8 1 0 }, _, 0, 0, _, _, _, opt_get (by decide +kernel), rfl,
     by decide +kernel⟩,
   ⟨labJob true ({ labCommand 4 0 .get with granules := 16 }), 0, 0, _, opt_get (by decide +kernel),
     by decide +kernel⟩,
   ⟨lab.onMe fun t => { t with loom := .queued, slot := none }, 0, _, _, _, opt_get (by decide +kernel), pair_get
     (by decide +kernel), by decide +kernel⟩,
   ⟨labFlight (.grant 4 ⟨7, 0, 0, 0xBFFFF, 3⟩), 3, _, _, _, _, _, _, ⟨_, rfl, by decide +kernel⟩, rfl,
     by decide +kernel⟩,
   ⟨labFlight (.grant 4 ⟨0, 0, 0, 0xBFFFF, 3⟩), 3, _, _, _, _, _, _, ⟨_, rfl, by decide +kernel⟩, rfl,
     by decide +kernel⟩,
   ⟨(labFlight (.grant 4 ⟨0, 0, 0, 0xBFFFF, 3⟩)).onCluster 0 fun c =>
     { c with permits := List.replicate 16 ⟨0, 8, 0, 7, 1⟩ }, 3, _, _, _, _, _, _, ⟨_, rfl, by decide +kernel⟩, rfl,
     by decide +kernel⟩,
   ⟨(labFlight (.grant 4 ⟨0, 0, 0, 0xBFFFF, 3⟩)).onCluster 0 fun c => { c with permits := [labPermit] }, 3, _, _, _,
     _, _, _, ⟨_, rfl, by decide +kernel⟩, rfl, by decide +kernel⟩,
   ⟨(labFlight (.grantStatus 4 (tokenWord 0 0))).onCluster 0 fun c => { c with jobs := [labCommand 4 0 .permit] }, 3,
     _, _, _, _, _, _, _, ⟨_, rfl, by decide +kernel⟩, opt_get (by decide +kernel), opt_get (by decide +kernel)⟩,
   ⟨labFlight (.permitReturn 0 2), 3, _, _, _, _, _, ⟨_, rfl, by decide +kernel⟩⟩⟩

/-- The hypotheses of the clauses of `MatrixCommandsRunAndGangsForm` can be met. -/
theorem test_matrix_commands_run_and_gangs_form :
    (∃ (s : State) (core : Nat) (c : Command), s.nextMatrix core = some c ∧ s.enginesRun (core / 8) = true ∧ (c.op =
      .mzero ∨ c.op = .mscale ∨ c.op = .mrel ∨ c.op = .mrelPending)) ∧
    (∃ (s : State) (core : Nat) (c : Command), s.nextMatrix core = some c ∧ s.enginesRun (core / 8) = true ∧ c.op =
      .mgang) ∧
    (∃ (s : State) (core : Nat) (c : Command), s.nextMatrix core = some c ∧ s.enginesRun (core / 8) = true ∧ c.op =
      .mma ∧ (s.core core).broken = true) ∧
    (∃ (s : State) (core : Nat) (c : Command) (r : Option (BitVec 8)) (st : BitVec 8), s.nextMatrix core = some c ∧
      s.enginesRun (core / 8) = true ∧ ((c.op = .mma ∧ (s.core core).broken = false ∧ r = mmaCheck s core c) ∨ (c.op =
      .mldb ∧ r = mldbCheck s (s.task c.task) (core / 8) c) ∨ ((c.op = .mrdz ∨ c.op = .mwrz) ∧ r = moveCheck s core
      c)) ∧ r = some st) ∧
    (∃ (s : State) (core : Nat) (c : Command) (r : Option (BitVec 8)), s.nextMatrix core = some c ∧ s.enginesRun (core
      / 8) = true ∧ ((c.op = .mma ∧ (s.core core).broken = false ∧ r = mmaCheck s core c) ∨ (c.op = .mldb ∧ r =
      mldbCheck s (s.task c.task) (core / 8) c) ∨ ((c.op = .mrdz ∨ c.op = .mwrz) ∧ r = moveCheck s core c)) ∧ r =
      none) ∧
    (∃ (s : State) (core : Nat) (c : Command), (s.runningJob core fun _ => true) = some c ∧ s.enginesRun (core / 8) =
      true ∧ (s.runningJob core fun c => c.status.isSome) = none ∧ c.op = .mzero) ∧
    (∃ (s : State) (core : Nat) (c : Command) (n : Bool) (m m' : Nat) (e e' : Int), (s.runningJob core fun _ => true)
      = some c ∧ s.enginesRun (core / 8) = true ∧ (s.runningJob core fun c => c.status.isSome) = none ∧ c.op = .mscale
      ∧ Fmt.fp32.decode (bits c.a 31 0) = .fin n m e ∧ Fmt.fp32.decode (bits c.b 31 0) = .fin n m' e') ∧
    (∃ (s : State) (core : Nat) (c : Command), (s.runningJob core fun _ => true) = some c ∧ (s.core core).holder =
      some c.task ∧ s.enginesRun (core / 8) = true ∧ (s.runningJob core fun c => c.status.isSome) = none ∧ c.op =
      .mrel) ∧
    (∃ (s : State) (core : Nat) (c : Command) (s1 : State) (b : BBuf), (s.runningJob core fun _ => true) = some c ∧
      readBlock (s.task c.task) (core / 8) c s = .ok s1 b ∧ s.enginesRun (core / 8) = true ∧ (s.runningJob core fun c
      => c.status.isSome) = none ∧ c.op = .mldb) ∧
    (∃ (s : State) (core : Nat) (c : Command) (ms : List (Nat × Command)) (s1 : State) (l : Nat × Command),
      (s.runningJob core fun _ => true) = some c ∧ (s.core core).running = some c ∧ ms = s.stepMembers core ∧ l ∈ ms ∧
      mmaAdvance (s.task l.2.task) (core / 8) c ms 8 c.progress s = (s1, none) ∧ s.enginesRun (core / 8) = true ∧
      (s.runningJob core fun c => c.status.isSome) = none ∧ c.op = .mma ∧ (∀ m ∈ ms, l.1 ≤ m.1)) ∧
    (∃ (s : State) (core : Nat) (c : Command) (s1 : State), (s.runningJob core fun _ => true) = some c ∧ mrdzGranules
      (.slice core) core (moveCols c * moveRows c) c s = (s1, none) ∧ s.enginesRun (core / 8) = true ∧ (s.runningJob
      core fun c => c.status.isSome) = none ∧ c.op = .mrdz) ∧
    (∃ (s : State) (core : Nat) (c : Command) (s1 : State) (n : Nat), (s.runningJob core fun _ => true) = some c ∧
      mwrzRows (s.task c.task) (core / 8) core c 128 c.progress s = (s1, n, none) ∧ s.enginesRun (core / 8) = true ∧
      (s.runningJob core fun c => c.status.isSome) = none ∧ c.op = .mwrz) ∧
    (∃ (s : State) (pos : Nat) (mask : BitVec 8), (∀ i ∈ maskList 8 mask.toNat, ∃ id d, (s.core (pos * 8 + i)).pending
      = some (id, mask, d)) ∧ mask ≠ 0) ∧
    (∃ (s : State) (pos : Nat) (mask : BitVec 8), s.enginesRun pos = true ∧ 2 ≤ (maskList 8 mask.toNat).length ∧ (∀ i
      ∈ maskList 8 mask.toNat, (s.memberMma (pos * 8 + i) mask).isSome = true)) ∧
    (∃ (s : State) (core id : Nat), (s.core core).holder = some id ∧ (s.core core).release = true ∧ (∀ c ∈ (s.core
      core).queue, c.task ≠ id)) :=
  ⟨⟨labSlice (labCommand 4 0 .mzero), 0, _, opt_get (by decide +kernel), by decide +kernel⟩,
   ⟨labSlice (labCommand 4 0 .mgang), 0, _, opt_get (by decide +kernel), by decide +kernel⟩,
   ⟨(labSlice (labCommand 4 0 .mma)).onCore 0 fun c => { c with broken := true }, 0, _, opt_get (by decide +kernel),
     by decide +kernel⟩,
   ⟨labSlice (labCommand 4 0 .mma), 0, _, some 0x81, 0x81, opt_get (by decide +kernel), by decide +kernel⟩,
   ⟨labSlice ({ labCommand 4 0 .mma with px := labPat 3 0xE0000000000100 8 8 0, ex := 8 }), 0, _, none, opt_get
     (by decide +kernel), by decide +kernel⟩,
   ⟨labSlice ({ labCommand 4 0 .mzero with started := true }), 0, _, opt_get (by decide +kernel), by decide +kernel⟩,
   ⟨labSlice ({ labCommand 4 0 .mscale with started := true, a := 0x3F800000, b := 0x40000000 }), 0, _, false, 2^23,
     2^23, -23, -22, opt_get (by decide +kernel), by decide +kernel⟩,
   ⟨(labSlice { labCommand 4 0 .mrel with started := true }).onCore 0 fun c => { c with holder := some 0 }, 0, _,
     opt_get (by decide +kernel), opt_get (by decide +kernel), by decide +kernel⟩,
   ⟨labSlice ({ labCommand 4 0 .mldb with started := true, px := labPat 3 0xE0000000000100 4 2 0 }), 0, _, _, _,
     opt_get (by decide +kernel), res_ok (by decide +kernel), by decide +kernel⟩,
   ⟨labSlice { labCommand 4 0 .mma with px := labPat 3 0xE0000000000100 8 8 0, ex := 8, started := true }, 0, _, _, _, _,
     opt_get (by decide +kernel), opt_get (by decide +kernel), rfl, getElem_in (i := 0) (by decide +kernel), rfl,
     by decide +kernel⟩,
   ⟨labSlice { labCommand 4 0 .mrdz with px := labPat 9 0xE0000000000100 8 8 0, started := true }, 0, _, _, opt_get
     (by decide +kernel), rfl, by decide +kernel⟩,
   ⟨labSlice { labCommand 4 0 .mwrz with px := labPat 9 0xE0000000000100 8 8 0, started := true }, 0, _, _, _, opt_get
     (by decide +kernel), rfl, by decide +kernel⟩,
   ⟨lab.onCore 0 fun c => { c with pending := some (0, 1, .s 8) }, 0, 1, forall_one (x := 0) (by decide +kernel) ⟨0,
     .s 8, by decide +kernel⟩, by decide +kernel⟩,
   ⟨{ lab with
     cores := (List.range 2).map fun i => (i, { Core.idle with holder := some i, gang := 3, queue := [labCommand (4 + i) i .mma] }) },
     0, 3, by decide +kernel⟩,
   ⟨lab.onCore 0 fun c => { c with holder := some 0, release := true }, 0, _, opt_get (by decide +kernel),
     by decide +kernel⟩⟩

/-- The hypotheses of the clauses of `ThreshersCompute` can be met. -/
theorem test_threshers_compute :
    (∃ (s : State) (pos k : Nat) (c : Command) (st : BitVec 8) (a : Nat), s.job? (.thresher pos) k = some c ∧ c.status
      = some (st, a)) ∧
    (∃ (s : State) (pos k : Nat) (c : Command) (st : BitVec 8), s.job? (.thresher pos) k = some c ∧ tmvCheck s pos c =
      some st ∧ c.status = none ∧ s.enginesRun pos = true ∧ s.commandWaits k = false ∧ portMayRun (s.jobs (.thresher
      pos)) c = true ∧ c.started = false) ∧
    (∃ (s : State) (pos k : Nat) (c : Command) (s1 : State), pageChecks s (s.task c.task) pos c = .ok s1 false ∧
      s.job? (.thresher pos) k = some c ∧ c.status = none ∧ s.enginesRun pos = true ∧ s.commandWaits k = false ∧
      portMayRun (s.jobs (.thresher pos)) c = true ∧ c.started = false ∧ tmvCheck s pos c = none) ∧
    (∃ (s : State) (pos k : Nat) (c : Command) (s1 s2 : State) (xs : List Nat) (ys : List (Nat × Nat)), s.job?
      (.thresher pos) k = some c ∧ c.status = none ∧ s.enginesRun pos = true ∧ s.commandWaits k = false ∧ portMayRun
      (s.jobs (.thresher pos)) c = true ∧ c.started = false ∧ tmvCheck s pos c = none ∧ pageChecks s (s.task c.task)
      pos c = .ok s1 true ∧ readOperands (s.task c.task) pos c s1 = .ok s2 (xs, ys)) ∧
    (∃ (s : State) (pos k row : Nat) (c : Command) (s1 : State) (r : Option (List (Nat × Machine.Num))), rowBlocks (s.task
      c.task) pos c row s = .ok s1 r ∧ s.job? (.thresher pos) k = some c ∧ c.status = none ∧ s.enginesRun pos = true ∧
      s.commandWaits k = false ∧ portMayRun (s.jobs (.thresher pos)) c = true ∧ c.started = true ∧ row ∈ tmvRows c ∧
      c.rowDone row = false ∧ (c.reads.filter fun n => n == row).length < rowReads c ∧ r = none) ∧
    (∃ (s : State) (pos k row : Nat) (c : Command) (s1 : State) (r : Option (List (Nat × Machine.Num))) (bl : List (Nat ×
      Machine.Num)), rowBlocks (s.task c.task) pos c row s = .ok s1 r ∧ r = some bl ∧ s.job? (.thresher pos) k = some c ∧
      c.status = none ∧ s.enginesRun pos = true ∧ s.commandWaits k = false ∧ portMayRun (s.jobs (.thresher pos)) c =
      true ∧ c.started = true ∧ row ∈ tmvRows c ∧ c.rowDone row = false ∧ (c.reads.filter fun n => n == row).length <
      rowReads c) ∧
    (∃ (s : State) (pos k row : Nat) (c : Command) (s1 : State) (r : Option Nat), tmvRow (s.task c.task) pos c row s =
      .ok s1 r ∧ s.job? (.thresher pos) k = some c ∧ c.status = none ∧ s.enginesRun pos = true ∧ s.commandWaits k =
      false ∧ c.started = true ∧ row ∈ tmvRows c ∧ c.rowDone row = false ∧ rowReads c ≤ (c.reads.filter fun n => n ==
      row).length ∧ s.rowTurn pos c row = true ∧ r = none) ∧
    (∃ (s : State) (pos k row : Nat) (c : Command) (s1 : State) (r : Option Nat) (v : Nat), tmvRow (s.task c.task) pos
      c row s = .ok s1 r ∧ r = some v ∧ s.job? (.thresher pos) k = some c ∧ c.status = none ∧ s.enginesRun pos = true
      ∧ s.commandWaits k = false ∧ c.started = true ∧ row ∈ tmvRows c ∧ c.rowDone row = false ∧ rowReads c ≤
      (c.reads.filter fun n => n == row).length ∧ s.rowTurn pos c row = true) ∧
    (∃ (s : State) (pos k : Nat) (c : Command) (stack : Nat) (s1 : State) (w : List Nat), writeResults (s.task c.task)
      pos c ((c.ready stack).take 8) s = .ok s1 () ∧ w = c.written ++ ((c.ready stack).take 8).map (·.1) ∧ s.job?
      (.thresher pos) k = some c ∧ c.status = none ∧ s.enginesRun pos = true ∧ s.commandWaits k = false ∧ c.started =
      true ∧ c.ready stack ≠ [] ∧ ((stackRows c stack).all c.rowDone = true ∨ 8 ≤ (c.ready stack).length) ∧ (tmvRows
      c).all w.contains = true) ∧
    (∃ (s : State) (pos k : Nat) (c : Command) (stack : Nat) (s1 : State) (w : List Nat), writeResults (s.task c.task)
      pos c ((c.ready stack).take 8) s = .ok s1 () ∧ w = c.written ++ ((c.ready stack).take 8).map (·.1) ∧ s.job?
      (.thresher pos) k = some c ∧ c.status = none ∧ s.enginesRun pos = true ∧ s.commandWaits k = false ∧ c.started =
      true ∧ c.ready stack ≠ [] ∧ ((stackRows c stack).all c.rowDone = true ∨ 8 ≤ (c.ready stack).length) ∧ (tmvRows
      c).all w.contains = false) :=
  ⟨⟨labThresher { labTmv [] [] with status := some (0x10, 0) }, 0, 4, _, _, _, opt_get (by decide +kernel), pair_get
     (by decide +kernel)⟩,
   ⟨labThresher (labCommand 4 0 .tmv), 0, 4, _, _, opt_get (by decide +kernel), opt_get (by decide +kernel),
     by decide +kernel⟩,
   ⟨{ stackState 0 with
     clusters := [(0, { Cluster.idle with lease := 1, thresher := [stackTmv 0], tlb := [⟨1, 0, 65536, 99⟩] })] }, 0,
     4, stackTmv 0, _, rfl, by decide +kernel⟩,
   ⟨stackState (Config.homeStack 0 0), stackPos (Config.homeStack 0 0), 4, stackTmv (Config.homeStack 0 0), _, _, _,
     _, (stack_rest _).1, (stack_rest _).2.2.2.2.1, (stack_rest _).2.1, (stack_rest _).2.2.1, (stack_rest _).2.2.2.1,
     (stack_rest _).2.2.2.2.2.1, (stack_rest _).2.2.2.2.2.2, stack_pages _ rfl, res_pair (stack_read _)⟩,
   ⟨labThresher ({ labTmv [] [] with px := labPat 3 0xE0000000000100 4 1 (2 ^ 472 + 2 ^ 507) }), 0, 4, 0,
     { labTmv [] [] with px := labPat 3 0xE0000000000100 4 1 (2 ^ 472 + 2 ^ 507) }, _, _, res_ok (by decide +kernel),
     by decide +kernel⟩,
   ⟨labThresher (labTmv [] []), 0, 4, 0, labTmv [] [], _, _, _, res_some (by decide +kernel), rfl, by decide +kernel⟩,
   ⟨labThresher ({ labTmv [0] [] with px := labPat 3 0xE0000000000100 4 1 (2 ^ 472 + 2 ^ 507) }), 0, 4, 0,
     { labTmv [0] [] with px := labPat 3 0xE0000000000100 4 1 (2 ^ 472 + 2 ^ 507) }, _, _, res_ok (by decide +kernel),
     by decide +kernel⟩,
   ⟨labThresher (labTmv [0] []), 0, 4, 0, labTmv [0] [], _, _, _, res_some (by decide +kernel), rfl,
     by decide +kernel⟩,
   ⟨labThresher (labTmv [0] [(0, 5)]), 0, 4, labTmv [0] [(0, 5)], 0, _, _, res_unit (by decide +kernel), rfl,
     by decide +kernel⟩,
   ⟨labThresher ({ labTmv [0] [(0, 5)] with
     px := labPat 3 0xE0000000000100 4 2 0, pz := labPat 9 0xE0000000000300 2 1 0, a := w64 (2 ^ 33) }), 0, 4,
     { labTmv [0] [(0, 5)] with
     px := labPat 3 0xE0000000000100 4 2 0, pz := labPat 9 0xE0000000000300 2 1 0, a := w64 (2 ^ 33) }, 0, _, _,
     res_unit (by decide +kernel), rfl, by decide +kernel⟩⟩

/-- The hypotheses of the clauses of `SendsAndMessagesAreHandled` can be met. -/
theorem test_sends_and_messages_are_handled :
    (∃ (s : State) (k id src dst : Nat) (n : Word) (x : VWord) (vec fp rel : Bool) (d : Reg) (trap : Bool) (g : Nat)
      (r : Reg), Arrives s k id src dst (.send n x vec fp rel d trap) ∧ g = nTask n ∧ r = nReg n ∧ s.heldSend k = none
      ∧ s.behindRelease id k = false ∧ ((s.task g).live = false ∨ (s.task g).gen ≠ nGen n ∨ (s.task g).loom =
      .retiring)) ∧
    (∃ (s : State) (k id src dst : Nat) (n : Word) (x : VWord) (vec fp rel : Bool) (d : Reg) (trap : Bool) (g : Nat)
      (r : Reg), Arrives s k id src dst (.send n x vec fp rel d trap) ∧ g = nTask n ∧ r = nReg n ∧ s.heldSend k = none
      ∧ s.behindRelease id k = false ∧ (s.task g).live = true ∧ (s.task g).gen = nGen n ∧ (s.task g).loom ≠ .retiring
      ∧ ((s.land k).pendingOn g r = true ∨ (s.land k).readsFirst g r = true)) ∧
    (∃ (s : State) (k id src dst : Nat) (n : Word) (x : VWord) (vec fp rel : Bool) (d : Reg) (trap : Bool) (g : Nat)
      (r : Reg), Arrives s k id src dst (.send n x vec fp rel d trap) ∧ g = nTask n ∧ r = nReg n ∧ s.heldSend k = none
      ∧ s.behindRelease id k = false ∧ (s.task g).live = true ∧ (s.task g).gen = nGen n ∧ (s.task g).loom ≠ .retiring
      ∧ (s.land k).pendingOn g r = false ∧ (s.land k).readsFirst g r = false ∧ (s.task g).held = [] ∧ ((nMode n = 0 ∧ (s.task
      g).full r = false ∧ s.armed g r = true) ∨ (nMode n = 1 ∧ (s.task g).full r = false) ∨ nMode n = 2)) ∧
    (∃ (s : State) (k id src dst : Nat) (n : Word) (x : VWord) (vec fp rel : Bool) (d : Reg) (trap : Bool) (g : Nat)
      (r : Reg), Arrives s k id src dst (.send n x vec fp rel d trap) ∧ g = nTask n ∧ r = nReg n ∧ s.heldSend k = none
      ∧ s.behindRelease id k = false ∧ (s.task g).live = true ∧ (s.task g).gen = nGen n ∧ (s.task g).loom ≠ .retiring
      ∧ (s.land k).pendingOn g r = false ∧ (s.land k).readsFirst g r = false ∧ (s.task g).held = [] ∧ nMode n = 3 ∧ (s.task
      g).full r = true) ∧
    (∃ (s : State) (k id src dst : Nat) (n : Word) (x : VWord) (vec fp rel : Bool) (d : Reg) (trap : Bool) (g : Nat)
      (r : Reg), Arrives s k id src dst (.send n x vec fp rel d trap) ∧ g = nTask n ∧ r = nReg n ∧ s.heldSend k = none
      ∧ s.behindRelease id k = false ∧ (s.task g).live = true ∧ (s.task g).gen = nGen n ∧ (s.task g).loom ≠ .retiring
      ∧ (s.land k).pendingOn g r = false ∧ (s.land k).readsFirst g r = false ∧ (s.task g).held = [] ∧ ((nMode n = 0 ∧ ((s.task
      g).full r = true ∨ s.armed g r = false)) ∨ (nMode n = 1 ∧ (s.task g).full r = true) ∨ (nMode n = 3 ∧ (s.task
      g).full r = false))) ∧
    (∃ (s : State) (k id src dst g : Nat) (vc : BitVec 2) (n : Word) (x : VWord) (vec fp rel : Bool) (d : Reg) (trap :
      Bool) (rest : List Flight), s.heldSend k = some (g, ⟨k, id, src, dst, vc, .send n x vec fp rel d trap⟩) ∧ nTask
      n = g ∧ (s.task g).held = ⟨k, id, src, dst, vc, .send n x vec fp rel d trap⟩ :: rest ∧ nMode n = 2 ∧ s.pendingOn
      g (nReg n) = false ∧ s.readsFirst g (nReg n) = false) ∧
    (∃ (s : State) (k id src dst : Nat) (st : BitVec 8) (n : Word) (d : Reg), Arrives s k id src dst (.sendStatus st n
      d false)) ∧
    (∃ (s : State) (k id src dst : Nat) (st : BitVec 8) (n : Word) (d : Reg), Arrives s k id src dst (.messageStatus
      st n d false)) ∧
    (∃ (s : State) (k id src dst : Nat) (st : BitVec 8) (d : Reg), Arrives s k id src dst (.postStatus st d)) ∧
    (∃ (s : State) (k id src dst : Nat) (st : BitVec 8) (n : Word) (d : Reg), Arrives s k id src dst
      ((Instr.sendStatus k, Body'.sendStatus st n d true, (0x25 : Word))).2.1 ∧ (s.task id).live = true ∧ (s.task
      id).wait = .answer k ∧ st = 0) ∧
    (∃ (s : State) (k id src dst : Nat) (st : BitVec 8) (n : Word) (d : Reg), Arrives s k id src dst
      ((Instr.sendStatus k, Body'.sendStatus st n d true, (0x25 : Word))).2.1 ∧ (s.task id).live = true ∧ (s.task
      id).wait = .answer k ∧ st ≠ 0 ∧ (s.task id).inh = false ∧ (s.lease (s.task id).lease).trapVec ≠ 0) ∧
    (∃ (s : State) (k id src dst core : Nat) (m : Msg) (w : Word) (d : Reg) (trap : Bool) (l : Launch), Arrives s k id
      src dst (.message core m w d trap) ∧ s.launch? m.ver.toNat = some l ∧ s.behindRelease id k = false ∧ (s.core
      core).inboxUsed < (s.lease (s.cluster (core / 8)).lease).inbox ∧ l.killed = false ∧ l.cause = none) ∧
    (∃ (s : State) (k id src dst core : Nat) (m : Msg) (w : Word) (d : Reg) (trap : Bool), Arrives s k id src dst
      (.message core m w d trap) ∧ s.behindRelease id k = false ∧ (s.lease (s.cluster (core / 8)).lease).inbox ≤
      (s.core core).inboxUsed) ∧
    (∃ (s s' : State) (core slot id : Nat) (g : BitVec 7) (m : Msg), (s.core core).inbox.find? (fun m => m.bound != 0)
      = some m ∧ s.freeSlot core = some slot ∧ s.takeIndex (core / 8) = some (s', id, g) ∧ (s.core core).activation =
      none ∧ s.halted (core / 8) = false) ∧
    (∃ (s : State) (k id src dst core : Nat) (b : Fin 4) (p : Post) (d : Reg) (old : List Post) (depth : Nat), Arrives
      s k id src dst (.post core b p d) ∧ old = (s.core core).boxes.get b ∧ depth = (s.core core).depths.get b ∧
      s.behindRelease id k = false) :=
  ⟨⟨labFlight (.send (labNeedle 9 0 8 1) 7 false false false (.s 9) false), 3, _, _, _, _, _, _, _, _, _, _, _, _, ⟨_,
     rfl, by decide +kernel⟩, rfl, rfl, by decide +kernel⟩,
   ⟨(labFlight (.send (labNeedle 0 0 9 2) 7 false false false (.s 9) false)).onMe fun t =>
     { t with fixed := [(.s 9, 7)] }, 3, _, _, _, _, _, _, _, _, _, _, _, _, ⟨_, rfl, by decide +kernel⟩, rfl, rfl,
     by decide +kernel⟩,
   ⟨labFlight (.send (labNeedle 0 0 8 2) 7 false false false (.s 9) false), 3, _, _, _, _, _, _, _, _, _, _, _, _, ⟨_,
     rfl, by decide +kernel⟩, rfl, rfl, by decide +kernel⟩,
   ⟨labFlight (.send (labNeedle 0 0 8 3) 7 false false false (.s 9) false), 3, _, _, _, _, _, _, _, _, _, _, _, _, ⟨_,
     rfl, by decide +kernel⟩, rfl, rfl, by decide +kernel⟩,
   ⟨labFlight (.send (labNeedle 0 0 8 1) 7 false false false (.s 9) false), 3, _, _, _, _, _, _, _, _, _, _, _, _, ⟨_,
     rfl, by decide +kernel⟩, rfl, rfl, by decide +kernel⟩,
   ⟨{ lab.onMe (fun t => { t with held := [⟨3, 0, 0, 0, 0, .send (labNeedle 0 0 8 2) 7 false false false (.s 9) false⟩] }) with
     flight := [] }, 3, 0, 0, 0, 0, 0, labNeedle 0 0 8 2, 7, false, false, false, .s 9, false, [], by decide +kernel⟩,
   ⟨labFlight (.sendStatus 0 0 (.s 8) false), 3, _, _, _, _, _, _, ⟨_, rfl, by decide +kernel⟩⟩,
   ⟨labFlight (.messageStatus 0 0 (.s 8) false), 3, _, _, _, _, _, _, ⟨_, rfl, by decide +kernel⟩⟩,
   ⟨labFlight (.postStatus 0 (.s 8)), 3, _, _, _, _, _, ⟨_, rfl, by decide +kernel⟩⟩,
   ⟨(labFlight (.sendStatus 0 0 (.s 8) true)).onMe fun t => { t with wait := .answer 3 }, 3, 0, _, _, 0, 0, .s 8, ⟨_,
     rfl, by decide +kernel⟩, by decide +kernel⟩,
   ⟨(labFlight (.sendStatus 0x90 5 (.s 8) true)).onMe fun t => { t with wait := .answer 3 }, 3, 0, _, _, 0x90, 5, .s
     8, ⟨_, rfl, by decide +kernel⟩, by decide +kernel⟩,
   ⟨{ labFlight (.message 0 labMsg 0 (.s 8) false) with
     launches := [(0, { Launch.none with ver := 0, lease := 1, state := .running })] }, 3, _, _, _, _, _, _, _, _, _,
     ⟨_, rfl, by decide +kernel⟩, opt_get (by decide +kernel), by decide +kernel⟩,
   ⟨(labFlight (.message 0 labMsg 0 (.s 8) false)).onCore 0 fun c => { c with inbox := List.replicate 256 labMsg }, 3,
     _, _, _, _, _, _, _, _, ⟨_, rfl, by decide +kernel⟩, by decide +kernel⟩,
   ⟨lab.onCore 0 fun c => { c with inbox := [labMsg] }, _, 0, _, _, _, _, opt_get (by decide +kernel), opt_get
     (by decide +kernel), triple_get (index_free _ (by decide +kernel) (by decide +kernel) (by decide +kernel)),
     by decide +kernel⟩,
   ⟨labFlight (.post 0 1 ⟨7, 1, 0⟩ (.s 8)), 3, _, _, _, _, _, _, _, _, _, ⟨_, rfl, by decide +kernel⟩, rfl, rfl,
     by decide +kernel⟩⟩

/-- The hypotheses of the clauses of `BarrierEventsAct` can be met. -/
theorem test_barrier_events_act :
    (∃ (s : State) (k id src dst n : Nat) (d : Reg), Arrives s k id src dst (.arrive n .barr (.task id d none)) ∧
      s.spad.wf = true ∧ s.tagK n = true ∧ (s.node n).complete = false ∧ s.nodeArrived n + 1 < s.nodeTarget n) ∧
    (∃ (s : State) (k id src dst n : Nat) (d : Reg), Arrives s k id src dst (.arrive n .barr (.task id d none)) ∧
      s.spad.wf = true ∧ s.tagK n = true ∧ (s.node n).complete = false ∧ s.nodeArrived n + 1 = s.nodeTarget n ∧
      s.basteReq = none ∧ s.nodeParent n = 0) ∧
    (∃ (s : State) (k id src dst n : Nat) (d : Reg), Arrives s k id src dst (.arrive n .barr (.task id d none)) ∧
      s.spad.wf = true ∧ s.tagK n = true ∧ (s.node n).complete = false ∧ s.nodeArrived n + 1 = s.nodeTarget n ∧
      s.basteReq = none ∧ s.nodeParent n ≠ 0) ∧
    (∃ (s : State) (k id src dst n : Nat) (d : Reg), Arrives s k id src dst (.arrive n .barr (.task id d none)) ∧
      s.spad.wf = true ∧ s.tagK n = true ∧ (s.node n).complete = true ∧ s.bankLoad (bankOf n) < 32) ∧
    (∃ (s : State) (k id src dst n : Nat) (d : Reg) (x : BitVec 16) (v : Int), Arrives s k id src dst (.arrive n
      (.blink x) (.task id d none)) ∧ v = (s.nodeTarget n : Int) + x.toInt ∧ s.spad.wf = true ∧ s.tagK n = true ∧
      (s.node n).complete = false ∧ (v < 1 ∨ 65535 < v)) ∧
    (∃ (s : State) (k id src dst n : Nat) (d : Reg) (x : BitVec 16) (v : Int), Arrives s k id src dst (.arrive n
      (.blink x) (.task id d none)) ∧ v = (s.nodeTarget n : Int) + x.toInt ∧ s.spad.wf = true ∧ s.tagK n = true ∧
      (s.node n).complete = false ∧ (s.nodeArrived n : Int) < v ∧ v ≤ 65535) ∧
    (∃ (s : State) (k id src dst n : Nat) (d : Reg), Arrives s k id src dst (.arrive n .barr (.task id d none)) ∧
      s.spad.wf = true ∧ s.tagK n = false) ∧
    (∃ (s : State) (k id src dst n : Nat) (d : Reg) (x : BitVec 16), Arrives s k id src dst (.arrive n (.blink x)
      (.task id d none)) ∧ s.spad.wf = true ∧ s.tagK n = false) ∧
    (∃ (s : State) (k id src dst n : Nat) (ph : BitVec 32), Arrives s k id src dst (.flip n ph) ∧ s.spad.wf = true ∧
      s.tagK n = true ∧ (s.node n).complete = true ∧ (s.node n).held = [] ∧ s.basteReq = none) ∧
    (∃ (s : State) (k id src dst n : Nat) (d : Reg) (tok : BitVec 32) (w : Option Nat), Arrives s k id src dst
      (.nodeWait n tok (.task id d w)) ∧ s.spad.wf = true ∧ s.tagK n = true ∧ tokenPassed (s.nodePhase n) tok.toNat =
      true) ∧
    (∃ (s : State) (k id src dst n : Nat) (d : Reg) (tok : BitVec 32) (w : Option Nat), Arrives s k id src dst
      (.nodeWait n tok (.task id d w)) ∧ s.spad.wf = true ∧ s.tagK n = true ∧ tokenPassed (s.nodePhase n) tok.toNat =
      false ∧ s.bankLoad (bankOf n) < 32) ∧
    (∃ (s : State) (k id src dst : Nat) (d : Reg) (word : Word), Arrives s k id src dst (.nodeAnswer (.task id d none)
      word) ∧ s.spad.wf = true) ∧
    (∃ (s : State) (k id src dst : Nat) (d : Reg) (word : Word) (a : Nat), Arrives s k id src dst (.nodeAnswer (.task
      id d (some a)) word) ∧ s.spad.wf = true ∧ (s.task id).wait = .answer a ∧ (s.task id).canp = false) :=
  ⟨⟨{ labNode 0 with flight := [⟨3, 0, 0, 0, 0, .arrive 0x100 .barr (.task 0 (.s 8) none)⟩] }, 3, _, _, _, _, _, ⟨_,
     rfl, by decide +kernel⟩, by decide +kernel⟩,
   ⟨{ labNode 4 with flight := [⟨3, 0, 0, 0, 0, .arrive 0x100 .barr (.task 0 (.s 8) none)⟩] }, 3, _, _, _, _, _, ⟨_,
     rfl, by decide +kernel⟩, by decide +kernel⟩,
   ⟨{ labNode 4 with
     flight := [⟨3, 0, 0, 0, 0, .arrive 0x100 .barr (.task 0 (.s 8) none)⟩] ,
     spad := (labNode 4).spad.putNum 0x108 8 0xE0000000000200 }, 3, _, _, _, _, _, ⟨_, rfl, by decide +kernel⟩,
     by decide +kernel⟩,
   ⟨{ labNode 4 with
     flight := [⟨3, 0, 0, 0, 0, .arrive 0x100 .barr (.task 0 (.s 8) none)⟩] ,
     nodes := [(0x100, { Node.idle with complete := true })] }, 3, _, _, _, _, _, ⟨_, rfl, by decide +kernel⟩,
     by decide +kernel⟩,
   ⟨{ labNode 2 with flight := [⟨3, 0, 0, 0, 0, .arrive 0x100 (.blink 0xFFF0) (.task 0 (.s 8) none)⟩] }, 3, _, _, _,
     _, _, _, _, ⟨_, rfl, by decide +kernel⟩, rfl, by decide +kernel⟩,
   ⟨{ labNode 2 with flight := [⟨3, 0, 0, 0, 0, .arrive 0x100 (.blink 3) (.task 0 (.s 8) none)⟩] }, 3, _, _, _, _, _,
     _, _, ⟨_, rfl, by decide +kernel⟩, rfl, by decide +kernel⟩,
   ⟨labFlight (.arrive 0x100 .barr (.task 0 (.s 8) none)), 3, _, _, _, _, _, ⟨_, rfl, by decide +kernel⟩,
     by decide +kernel⟩,
   ⟨{ labNode 2 with
     flight := [⟨3, 0, 0, 0, 0, .arrive 0x100 (.blink 3) (.task 0 (.s 8) none)⟩] , tags := [] }, 3, _, _, _, _, _, _,
     ⟨_, rfl, by decide +kernel⟩, by decide +kernel⟩,
   ⟨{ { labNode 0 with flight := [⟨3, 0, 0, 0, 0, .flip 0x100 10⟩] } with
     nodes := [(0x100, { Node.idle with complete := true })] }, 3, _, _, _, _, _, ⟨_, rfl, by decide +kernel⟩,
     by decide +kernel⟩,
   ⟨{ labNode 2 with flight := [⟨3, 0, 0, 0, 0, .nodeWait 0x100 8 (.task 0 (.s 8) none)⟩] }, 3, _, _, _, _, _, _, _,
     ⟨_, rfl, by decide +kernel⟩, by decide +kernel⟩,
   ⟨{ labNode 0 with flight := [⟨3, 0, 0, 0, 0, .nodeWait 0x100 10 (.task 0 (.s 8) none)⟩] }, 3, _, _, _, _, _, _, _,
     ⟨_, rfl, by decide +kernel⟩, by decide +kernel⟩,
   ⟨labFlight (.nodeAnswer (.task 0 (.s 8) none) 9), 3, _, _, _, _, _, ⟨_, rfl, by decide +kernel⟩, by decide +kernel⟩,
   ⟨(labFlight (.nodeAnswer (.task 0 (.s 8) (some 5)) 9)).onMe fun t => { t with wait := .answer 5 }, 3, _, _, _, _,
     _, _, ⟨_, rfl, by decide +kernel⟩, by decide +kernel⟩⟩

/-- The hypotheses of the clauses of `SpoolEventsAct` can be met. -/
theorem test_spool_events_act :
    (∃ (s : State) (k id src dst : Nat) (op : SpoolOp) (h : Word) (d : Reg) (r : SpoolReply), Arrives s k id src dst
      (.spool op h d) ∧ r = spoolAct (s.land k) id op h ∧ op.final = false) ∧
    (∃ (s : State) (k id src dst : Nat) (op : SpoolOp) (h : Word) (d : Reg) (r : SpoolReply), Arrives s k id src dst
      (.spool op h d) ∧ r = spoolAct (s.land k) id op h ∧ op.final = true ∧ s.unperformed id = false ∧ s.releasing id
      = false ∧ Fresh s h ∧ (s.entry (hKey h)).grid = false ∧ (s.entry (hKey h)).isSettled = false) ∧
    (∃ (s : State) (k id src dst : Nat) (op : SpoolOp) (h : Word) (d : Reg) (r : SpoolReply), Arrives s k id src dst
      (.spool op h d) ∧ r = spoolAct (s.land k) id op h ∧ op.final = true ∧ s.unperformed id = false ∧ s.releasing id
      = false ∧ Fresh s h ∧ (s.entry (hKey h)).grid = false ∧ (s.entry (hKey h)).isSettled = false) ∧
    (∃ (s : State) (k id src dst : Nat) (op : SpoolOp) (h : Word) (d : Reg) (r : SpoolReply), Arrives s k id src dst
      (.spool op h d) ∧ r = spoolAct (s.land k) id op h ∧ op.final = true ∧ s.unperformed id = false ∧ s.releasing id
      = false ∧ Fresh s h ∧ (s.entry (hKey h)).grid = false ∧ (s.entry (hKey h)).isSettled = false) ∧
    (∃ (s : State) (k id src dst : Nat) (h : Word) (d : Reg) (nc : Bool) (e : Entry) (x : Word) (b : Bool), e =
      s.entry (hKey h) ∧ Arrives s k id src dst (.answer (.touch nc) h d x none b false) ∧ (s.task id).live = true ∧
      (s.task id).wait = .answer k) ∧
    (∃ (s : State) (k id src dst : Nat) (h : Word) (d : Reg) (nc : Bool) (e : Entry), e = s.entry (hKey h) ∧ Arrives s
      k id src dst (.answer (.touch nc) h d 0 none false true) ∧ (s.task id).live = true ∧ (s.task id).wait = .answer
      k ∧ (s.task id).canp = true) ∧
    (∃ (s : State) (k id src dst : Nat) (h : Word) (d : Reg) (nc : Bool) (e : Entry), e = s.entry (hKey h) ∧ Arrives s
      k id src dst (.answer (.touch nc) h d 0 none false true) ∧ (s.task id).live = true ∧ (s.task id).wait = .answer
      k ∧ (s.task id).canp = false ∧ id ∈ e.waiters ∧ (e.isSettled = false ∨ e.spilled = true) ∧ s.holdsAny id = false
      ∧ s.localPending id = false) ∧
    (∃ (s : State) (k id src dst : Nat) (h : Word) (d : Reg) (nc : Bool) (e : Entry), e = s.entry (hKey h) ∧ Arrives s
      k id src dst (.answer (.touch nc) h d 0 none false true) ∧ (s.task id).live = true ∧ (s.task id).wait = .answer
      k ∧ (s.task id).canp = false ∧ id ∈ e.waiters ∧ (e.isSettled = false ∨ e.spilled = true) ∧ s.holdsAny id = true) ∧
    (∃ (s : State) (k id src dst : Nat) (h : Word) (d : Reg) (nc : Bool) (e : Entry), e = s.entry (hKey h) ∧ Arrives s
      k id src dst (.answer (.touch nc) h d 0 none false true) ∧ (s.task id).live = true ∧ (s.task id).wait = .answer
      k ∧ (s.task id).canp = false ∧ (s.holdsAny id = true ∨ s.localPending id = false) ∧ (id ∉ e.waiters ∨
      (e.isSettled = true ∧ e.spilled = false))) ∧
    (∃ (s : State) (k id src dst : Nat) (h : Word) (d : Reg) (nc : Bool) (e : Entry) (c : BitVec 8) (a i : Word), e =
      s.entry (hKey h) ∧ Arrives s k id src dst (.answer (.touch nc) h d 0 (some (c, a, i)) false false) ∧ (s.task
      id).live = true ∧ (s.task id).wait = .answer k ∧ (s.task id).inh = false ∧ (s.lease (s.task id).lease).trapVec ≠
      0) ∧
    (∃ (x : Reg × Bool) (s : State) (k id src dst : Nat) (h : Word) (d : Reg) (nc : Bool) (e : Entry) (c : BitVec 8)
      (a i : Word), e = s.entry (hKey h) ∧ Arrives s k id src dst (.answer (.touch nc) h d 0 (some (c, a, i)) false
      false) ∧ (s.task id).emptied = some x ∧ (s.task id).live = true ∧ (s.task id).wait = .answer k ∧ (s.task id).inh
      = false ∧ (s.lease (s.task id).lease).trapVec ≠ 0) ∧
    (∃ (s : State) (k id src dst p : Nat) (h : Word), Arrives s k id src dst (.wake p [id] h) ∧ (s.task id).live =
      true ∧ h ∈ (s.task id).waitOn ∧ (s.task id).loom = .parked ∧ (s.task id).canp = false) ∧
    (∃ (s : State) (k id src dst p : Nat) (h : Word), Arrives s k id src dst (.wake p [id] h) ∧ (s.task id).live =
      true ∧ h ∈ (s.task id).waitOn ∧ (s.task id).loom = .parked ∧ (s.task id).canp = true) ∧
    (∃ (s : State) (k id src dst p : Nat) (h : Word), Arrives s k id src dst (.wake p [id] h) ∧ (s.task id).live =
      true ∧ h ∈ (s.task id).waitOn ∧ (s.task id).loom = .waiting ∧ (s.task id).waitObj ≠ 0) ∧
    (∃ (s : State) (k id src dst : Nat), Arrives s k id src dst (.cancel id) ∧ (s.task id).live = true ∧ ((s.task
      id).loom = .running ∨ ((s.task id).loom = .waiting ∧ ∃ p, (s.task id).wait = .walk p))) ∧
    (∃ (s : State) (k id src dst : Nat), Arrives s k id src dst (.cancel id) ∧ ((s.task id).loom = .queued ∨ (s.task
      id).loom = .prefetching ∨ (s.task id).loom = .ready ∨ (s.task id).loom = .parked ∨ (s.task id).loom = .faulted ∨
      ((s.task id).loom = .waiting ∧ (∀ j, (s.task id).wait ≠ .answer j) ∧ ∀ p, (s.task id).wait ≠ .walk p)) ∧ (s.task id).live = true) ∧
    (∃ (s : State) (k id src dst j : Nat), Arrives s k id src dst (.cancel id) ∧ (s.task id).live = true ∧ (s.task
      id).loom = .waiting ∧ (s.task id).wait = .answer j ∧ (s.land k).waitsAtBank id j = true) ∧
    (∃ (s u : State) (lease key : Nat) (e : Entry), s.spool.find? (fun e => e.2.spilled && !e.2.waiters.isEmpty &&
      s.leaseOfEntry e.1 == some lease && (s.refill [] e.1).isSome) = some (key, e) ∧ s.refill [] key = some u) :=
  ⟨⟨labFlight (.spool .fstat labHandle (.s 8)), 3, _, _, _, _, _, _, _, ⟨_, rfl, by decide +kernel⟩, rfl,
     by decide +kernel⟩,
   ⟨{ labEntry labPending with flight := [⟨3, 0, 0, 0, 0, .spool (.retire 5) labHandle (.s 8)⟩] }, 3, _, _, _, _, _,
     _, _, ⟨_, rfl, by decide +kernel⟩, rfl, by decide +kernel⟩,
   ⟨{ labEntry labPending with
     flight := [⟨3, 0, 0, 0, 0, .spool (.retirePoisoned 0x18 7) labHandle (.s 8)⟩] }, 3, _, _, _, .retirePoisoned 0x18
     7, labHandle, _, _, ⟨_, rfl, by decide +kernel⟩, rfl, by decide +kernel⟩,
   ⟨{ labEntry labPending with flight := [⟨3, 0, 0, 0, 0, .spool (.retireCancelled) labHandle (.s 8)⟩] }, 3, _, _, _,
     .retireCancelled, labHandle, _, _, ⟨_, rfl, by decide +kernel⟩, rfl, by decide +kernel⟩,
   ⟨({ labEntry { labPending with waiters := [0] } with
     flight := [⟨3, 0, 0, 0, 0, .answer (.touch false) labHandle (.s 8) 9 none false false⟩] }).onMe fun t =>
     { t with wait := .answer 3, loom := .waiting }, 3, _, _, _, _, _, _, _, _, _, rfl, ⟨_, rfl, by decide +kernel⟩,
     by decide +kernel⟩,
   ⟨({ labEntry { labPending with waiters := [0] } with
     flight := [⟨3, 0, 0, 0, 0, .answer (.touch false) labHandle (.s 8) 0 none false true⟩] }).onMe fun t =>
     { t with wait := .answer 3, loom := .waiting , canp := true }, 3, _, _, _, _, _, _, _, rfl, ⟨_, rfl,
     by decide +kernel⟩, by decide +kernel⟩,
   ⟨({ labEntry { labPending with waiters := [0] } with
     flight := [⟨3, 0, 0, 0, 0, .answer (.touch false) labHandle (.s 8) 0 none false true⟩] }).onMe fun t =>
     { t with wait := .answer 3 }, 3, _, _, _, _, _, _, _, rfl, ⟨_, rfl, by decide +kernel⟩, by decide +kernel⟩,
   ⟨(({ labEntry { labPending with waiters := [0] } with
     flight := [⟨3, 0, 0, 0, 0, .answer (.touch false) labHandle (.s 8) 0 none false true⟩] }).onMe fun t =>
     { t with wait := .answer 3, loom := .waiting }).onCore 0 fun c => { c with holder := some 0, gang := 1 }, 3, _,
     _, _, _, _, _, _, rfl, ⟨_, rfl, by decide +kernel⟩, by decide +kernel⟩,
   ⟨({ labEntry { labResolved with waiters := [0] } with
     flight := [⟨3, 0, 0, 0, 0, .answer (.touch false) labHandle (.s 8) 0 none false true⟩] }).onMe fun t =>
     { t with wait := .answer 3, loom := .waiting }, 3, _, _, _, _, _, _, _, rfl, ⟨_, rfl, by decide +kernel⟩,
     by decide +kernel⟩,
   ⟨(labFlight (.answer (.touch false) labHandle (.s 8) 0 (some (0x20, 0, 0)) false false)).onMe fun t =>
     { t with wait := .answer 3 }, 3, _, _, _, _, _, _, _, _, _, _, rfl, ⟨_, rfl, by decide +kernel⟩,
     by decide +kernel⟩,
   ⟨_, (labFlight (.answer (.touch false) labHandle (.s 8) 0 (some (0x20, 0, 0)) false false)).onMe fun t =>
     { t with wait := .answer 3, emptied := some (.s 8, false) }, 3, _, _, _, _, _, false, _, 0x20, 0, 0, rfl, ⟨_,
     rfl, by decide +kernel⟩, opt_get (by decide +kernel), by decide +kernel⟩,
   ⟨(labFlight (.wake 0 [0] labHandle)).onMe fun t => { t with loom := .parked, slot := none, waitOn := [labHandle] },
     3, _, _, _, _, _, ⟨_, rfl, by decide +kernel⟩, by decide +kernel⟩,
   ⟨(labFlight (.wake 0 [0] labHandle)).onMe fun t =>
     { t with loom := .parked, slot := none, waitOn := [labHandle], canp := true }, 3, _, _, _, _, _, ⟨_, rfl,
     by decide +kernel⟩, by decide +kernel⟩,
   ⟨(labFlight (.wake 0 [0] labHandle)).onMe fun t =>
     { t with loom := .waiting, waitOn := [labHandle], waitObj := labHandle }, 3, _, _, _, _, _, ⟨_, rfl,
     by decide +kernel⟩, by decide +kernel⟩,
   ⟨labFlight (.cancel 0), 3, _, _, _, ⟨_, rfl, by decide +kernel⟩, by decide +kernel, .inl rfl⟩,
   ⟨(labFlight (.cancel 0)).onMe fun t => { t with loom := .ready }, 3, _, _, _, ⟨_, rfl, by decide +kernel⟩, .inr
     (.inr (.inl rfl)), by decide +kernel⟩,
   ⟨{ lab.onMe (fun t => { t with loom := .waiting, wait := .answer 2 }) with
     flight := [⟨3, 0, 0, 0, 0, .cancel 0⟩], bank := [⟨2, 0, .ldf, ⟨.spad, 0x100, 0, none⟩, .s 8, 0⟩] }, 3, _, _, _, 2, ⟨_,
     rfl, by decide +kernel⟩, by decide +kernel⟩,
   ⟨{ lab with spool := [(5, { labResolved with spilled := true, waiters := [0] })] }, _, 1, _, _, pair_get
     (by decide +kernel), opt_get (by decide +kernel)⟩⟩

/-- The hypotheses of the clauses of `LoomsDispatch` can be met. -/
theorem test_looms_dispatch :
    (∃ (s : State) (pos id k slot : Nat) (u : Task), s.firstIn pos .ready = some id ∧ s.emptiestCore pos = some k ∧
      s.freeSlot k = some slot ∧ s.loadFrame id = some u ∧ s.halted pos = false) ∧
    (∃ (s t : State) (pos id : Nat) (bs : List Byte), s.frameBytes id = some bs ∧ exec (.dispatch pos) s = .next t ∧
      (s.task id).inRecord = true ∧ frameOk bs false = false) ∧
    (∃ (s : State) (id : Nat), (s.task id).live = true ∧ ((s.task id).loom = .queued ∨ (s.task id).loom = .prefetching
      ∨ (s.task id).loom = .ready) ∧ (s.lease (s.task id).lease).age ≠ 0 ∧ (s.task id).prio ≠ 3 ∧ 2 ^ (s.lease (s.task
      id).lease).age * 1000 ≤ (s.now - (s.task id).agedAt).toNat * s.device.clockMHz) ∧
    (∃ (s : State) (lease n : Nat), (s.lease lease).live = true ∧ s.stop = .no ∧ (∀ p ∈ (s.lease lease).positions,
      s.gleanCount p = n)) ∧
    (∃ (s : State) (lease p q hi lo id : Nat) (l : List (Nat × Nat)), l = (s.lease lease).positions.map (fun p => (p,
      s.gleanCount p)) ∧ bestCluster (fun a b => decide (b < a)) l = some (p, hi) ∧ bestCluster (fun a b => decide (a
      < b)) l = some (q, lo) ∧ s.gleanPick p [] = some id ∧ (s.lease lease).live = true ∧ s.stop = .no ∧ (hi = lo + 2
      ∨ hi = lo + 3) ∧ (s.cluster p).forward.length < 4096) :=
  ⟨⟨lab.onMe fun t => { t with loom := .ready, slot := none }, 0, _, _, _, _, opt_get (by decide +kernel), opt_get
     (by decide +kernel), opt_get (by decide +kernel), opt_get (by decide +kernel), by decide +kernel⟩,
   ⟨labMalformed, _, 0, 0, _, opt_get (by decide +kernel), next_get (by decide +kernel), by decide +kernel⟩,
   ⟨{ lab.onMe fun t => { t with loom := .ready, slot := none } with now := 2 ^ 40 }, 0, by decide +kernel⟩,
   ⟨lab, 1, 0, by decide +kernel⟩,
   ⟨{ lab.onLease 1 (fun l => { l with positions := [0, 1] }) with
     clusters := lab.clusters ++ [(1, { Cluster.idle with lease := 1 })],
     tasks := [(0, { labTask with loom := .queued, slot := none }), (1, { labTask with loom := .queued, slot := none })] },
     1, 0, _, _, _, _, _, rfl, pair_get (by decide +kernel), pair_get (by decide +kernel), opt_get
     (by decide +kernel), by decide +kernel⟩⟩

/-- The hypotheses of the clauses of `QueuesTakeCommands` can be met. -/
theorem test_queues_take_commands :
    (∃ (s : State) (lease q : Nat) (x : HostQueue), x = s.hostQueue lease q ∧ (s.lease lease).live = true ∧ q < 16 ∧
      x.on = false) ∧
    (∃ (s : State) (lease q : Nat) (x : HostQueue) (p : BitVec 32), x = s.hostQueue lease q ∧ (s.lease lease).live =
      true ∧ q < 16 ∧ x.on = true ∧ (p - x.cidx).toNat ≠ 0 ∧ (p - x.cidx).toNat ≤ x.size ∧ (p - x.cidx).toNat < 2 ^
      31) ∧
    (∃ (s : State) (lease q : Nat) (x : HostQueue) (p : BitVec 32), x = s.hostQueue lease q ∧ (s.lease lease).live =
      true ∧ q < 16 ∧ x.on = true ∧ x.size < (p - x.cidx).toNat ∧ (p - x.cidx).toNat < 2 ^ 31) ∧
    (∃ (s : State) (lease q : Nat) (x : HostQueue) (v : Word), x = s.hostQueue lease q ∧ (s.lease lease).live = true ∧
      q < 16 ∧ v.getLsbD 0 = true ∧ x.on = false ∧ x.err = false) ∧
    (∃ (s : State) (lease q : Nat) (x : HostQueue) (v : Word), x = s.hostQueue lease q ∧ (s.lease lease).live = true ∧
      q < 16 ∧ v.getLsbD 0 = false) ∧
    (∃ (s : State) (lease q : Nat) (x : HostQueue), x = s.hostQueue lease q ∧ (s.lease lease).live = true ∧ q < 16) ∧
    (∃ (s : State) (lease q : Nat) (x : HostQueue), x = s.hostQueue lease q ∧ (s.lease lease).live = true ∧ q < 16 ∧
      x.on = true ∧ x.err = false ∧ x.cidx ≠ x.pidx ∧ s.stop = .no ∧ (x.qctl.getLsbD 2 = true ∨ x.busy = []) ∧ (∀ e ∈
      s.starts, ¬ (e.2.lease = lease ∧ e.2.queue = some q ∧ e.2.again = false)) ∧ entryBad (s.queueEntry lease x) =
      false) ∧
    (∃ (s : State) (lease q : Nat) (x : HostQueue), x = s.hostQueue lease q ∧ (s.lease lease).live = true ∧ q < 16 ∧
      x.on = true ∧ x.err = false ∧ x.cidx ≠ x.pidx ∧ s.stop = .no ∧ (x.qctl.getLsbD 2 = true ∨ x.busy = []) ∧ (∀ e ∈
      s.starts, ¬ (e.2.lease = lease ∧ e.2.queue = some q ∧ e.2.again = false)) ∧ entryBad (s.queueEntry lease x) =
      true) ∧
    (∃ (s : State) (lease : Nat) (img : LaunchImage), (s.lease lease).live = true ∧ (∀ r ∈ img.records, ((s.lease
      lease).record r.1).state = .idle) ∧ imageOk img = false) ∧
    (∃ (s : State) (lease : Nat) (img : LaunchImage) (p : Nat × PatWord), img.patterns = [p] ∧ (s.lease lease).live =
      true ∧ (∀ r ∈ img.records, ((s.lease lease).record r.1).state = .idle) ∧ imageOk img = true) ∧
    (∃ (q : Nat × BitVec 2048) (s : State) (lease : Nat) (img : LaunchImage) (p : Nat × PatWord), img.patterns = [p] ∧
      img.records = [q] ∧ (s.lease lease).live = true ∧ (∀ r ∈ img.records, ((s.lease lease).record r.1).state =
      .idle) ∧ imageOk img = true) ∧
    (∃ (s : State) (vdev pa : Nat) (bytes : List Byte), vdev < 384 ∧ pa + bytes.length ≤ hbmBytes ∧ s.device.bootFailed
      = false) ∧
    (∃ (s : State) (lease q : Nat) (x : HostQueue), x = s.hostQueue lease q ∧ (s.lease lease).live = true ∧ q < 16 ∧
      (s.lease lease).trace.tctl.getLsbD 0 = false) ∧
    (∃ (i : Nat), i < 16) :=
  ⟨⟨lab, 1, 0, _, rfl, by decide +kernel⟩,
   ⟨labHost 0x40001 0 0, 1, 0, _, 1, rfl, by decide +kernel⟩,
   ⟨labHost 1 0 0, 1, 0, _, 5, rfl, by decide +kernel⟩,
   ⟨lab, 1, 0, _, 1, rfl, by decide +kernel⟩,
   ⟨lab, 1, 0, _, 0, rfl, by decide +kernel⟩,
   ⟨lab, 1, 0, _, rfl, by decide +kernel⟩,
   ⟨{ labHost 0x40001 1 0 with host := [(0, 1)] }, 1, 0, _, rfl, by decide +kernel⟩,
   ⟨labHost 0x40001 1 0, 1, 0, _, rfl, by decide +kernel⟩,
   ⟨lab, 1, ⟨[(256, 0)], []⟩, by decide +kernel⟩,
   ⟨lab, 1, ⟨[(0, 0)], []⟩, _, rfl, by decide +kernel⟩,
   ⟨_, lab, 1, ⟨[(0, 0)], [(0, 0)]⟩, _, rfl, rfl, by decide +kernel⟩,
   ⟨lab, 0, 0, [], by decide +kernel⟩,
   ⟨lab, 1, 0, _, rfl, by decide +kernel⟩,
   ⟨15, by decide⟩⟩

/-- The hypotheses of the clauses of `LaunchesStart` can be met. -/
theorem test_launches_start :
    (∃ (s : State) (k : Nat) (l0 l : Launch), s.starts.find k = some l0 ∧ l = s.renewStart l0 ∧ s.stop = .no ∧
      l0.waits = false ∧ (s.recordBusy l = true ∨ s.rootCore l = none)) ∧
    (∃ (s : State) (k : Nat) (l0 l : Launch), s.starts.find k = some l0 ∧ l = s.renewStart l0 ∧ s.stop = .no ∧
      l0.waits = true ∧ (s.recordBusy l = true ∨ s.rootCore l = none)) ∧
    (∃ (s : State) (k : Nat) (l0 l : Launch) (core : Nat), s.starts.find k = some l0 ∧ l = s.renewStart l0 ∧
      s.rootCore l = some core ∧ s.stop = .no ∧ s.recordBusy l = false ∧ l0.waits = false ∧ s.startLaunch l core =
      none) ∧
    (∃ (s : State) (k : Nat) (l0 l : Launch) (core : Nat) (u : State), s.starts.find k = some l0 ∧ l = s.renewStart l0
      ∧ s.rootCore l = some core ∧ s.startLaunch l core = some u ∧ s.stop = .no ∧ s.recordBusy l = false ∧ l0.waits =
      false) ∧
    (∃ (s : State) (k : Nat) (l0 l : Launch) (core : Nat) (u : State), s.starts.find k = some l0 ∧ l = s.renewStart l0
      ∧ s.rootCore l = some core ∧ s.startLaunch l core = some u ∧ s.stop = .no ∧ s.recordBusy l = false ∧ l0.waits =
      true) ∧
    (∃ (s : State) (k : Nat) (l0 l : Launch) (core : Nat) (u : State), s.starts.find k = some l0 ∧ l = s.renewStart l0
      ∧ s.rootCore l = some core ∧ s.startLaunch l core = some u ∧ s.stop = .no ∧ s.recordBusy l = false) ∧
    (∃ (s : State) (lease i : Nat), (s.lease lease).armed.find? (s.armedReady lease) = some i ∧ (s.lease lease).live =
      true ∧ s.stop = .no) :=
  ⟨⟨labStarting 0xE0000000000000 false, 0, _, _, opt_get (by decide +kernel), rfl, by decide +kernel⟩,
   ⟨{ labStarting 0xE0000000000000 true with stop := .no }, 0, _, _, opt_get (by decide +kernel), rfl,
     by decide +kernel⟩,
   ⟨(labStarting (w64 windowBase) false).onLease 1 fun l => { l with spoolCount := 0 }, 0, _, _, _, opt_get
     (by decide +kernel), rfl, opt_get (by decide +kernel), by decide +kernel⟩,
   ⟨labStarting (w64 windowBase) false, 0, _, _, _, _, opt_get (by decide +kernel), rfl, opt_get (by decide +kernel),
     opt_get (start_some (by decide +kernel) (by decide +kernel) (by decide +kernel) (by decide +kernel)
     (by decide +kernel) (by decide +kernel)), by decide +kernel⟩,
   ⟨labStarting (w64 windowBase) true, 0, _, _, _, _, opt_get (by decide +kernel), rfl, opt_get (by decide +kernel),
     opt_get (start_some (by decide +kernel) (by decide +kernel) (by decide +kernel) (by decide +kernel)
     (by decide +kernel) (by decide +kernel)), by decide +kernel⟩,
   ⟨labStarting (w64 windowBase) false, 0, _, _, _, _, opt_get (by decide +kernel), rfl, opt_get (by decide +kernel),
     opt_get (start_some (by decide +kernel) (by decide +kernel) (by decide +kernel) (by decide +kernel)
     (by decide +kernel) (by decide +kernel)), by decide +kernel⟩,
   ⟨lab.onLease 1 fun l => { l with records := [(5, ⟨0, .armed, 0, none⟩)], armed := [5] }, 1, _, opt_get
     (by decide +kernel), by decide +kernel⟩⟩

/-- The hypotheses of the clauses of `LaunchesCommit` can be met. -/
theorem test_launches_commit :
    (∃ (s : State) (ver : Nat) (l : Launch), s.launch? ver = some l ∧ l.ver = ver ∧ s.stop = .no ∧ s.mayDecide l =
      true ∧ l.decided = false ∧ l.staleNow = true) ∧
    (∃ (s : State) (ver : Nat) (l : Launch), s.launch? ver = some l ∧ l.ver = ver ∧ s.stop = .no ∧ s.mayDecide l =
      true ∧ ((l.decided = false ∧ l.staleNow = false ∧ s.oneDie l = true ∧ s.quiet l = true) ∨ (l.decided = true ∧ ∀ d ∈
      s.diesOf l, d ∈ l.applied))) ∧
    (∃ (y : Launch) (v : Nat) (s : State) (ver : Nat) (l : Launch), s.launch? ver = some l ∧ s.launch? v = some y ∧
      l.ver = ver ∧ s.stop = .no ∧ s.mayDecide l = true ∧ ((l.decided = false ∧ l.staleNow = false ∧ s.oneDie l = true ∧
      s.quiet l = true) ∨ (l.decided = true ∧ ∀ d ∈ s.diesOf l, d ∈ l.applied)) ∧ l.subvs = [] ∧ (∀ c ∈ s.cores, ∀ x ∈
      c.2.l1, x.ver.toNat = ver → x.dirty = 0) ∧ y.state = .running ∧ olderVer ver v = true ∧ meetsSets l y = true) ∧
    (∃ (s : State) (ver : Nat) (l : Launch), s.launch? ver = some l ∧ l.ver = ver ∧ s.stop = .no ∧ s.mayDecide l =
      true ∧ l.decided = false ∧ l.staleNow = false ∧ s.oneDie l = false ∧ l.round = 0) ∧
    (∃ (s : State) (ver : Nat) (l : Launch) (e : Shadow) (rest : List Shadow), s.launch? ver = some l ∧ l.toCopy = e
      :: rest ∧ l.ver = ver ∧ l.state = .committed ∧ s.imaged = false ∧ (∀ o ∈ s.launches, olderVer o.1 ver = true → ∀
      x ∈ o.2.toCopy, x.granule ≠ e.granule) ∧ rest ≠ []) ∧
    (∃ (s : State) (ver : Nat) (l : Launch) (e : Shadow) (rest : List Shadow), s.launch? ver = some l ∧ l.toCopy = e
      :: rest ∧ rest = [] ∧ l.ver = ver ∧ l.state = .committed ∧ s.imaged = false ∧ (∀ o ∈ s.launches, olderVer o.1
      ver = true → ∀ x ∈ o.2.toCopy, x.granule ≠ e.granule) ∧ s.oneDie l = true ∧ s.olderCopied ver = true) ∧
    (∃ (s : State) (ver : Nat) (l : Launch), s.launch? ver = some l ∧ l.ver = ver ∧ l.state = .committed ∧ s.imaged =
      false ∧ l.toCopy = [] ∧ l.doneSent = false ∧ s.oneDie l = true ∧ s.olderCopied ver = true) ∧
    (∃ (s : State) (k v : Nat) (l : Launch) (n d : Nat), s.launch? v = some l ∧ l.ver = v ∧ s.ctrlOf k = some
      (.prepare v n d) ∧ l.round = n ∧ l.cause = none ∧ s.quietAt v d = true) ∧
    (∃ (s : State) (k v : Nat) (l : Launch) (n d sent taken : Nat) (a : List (Nat × Nat × Nat)), s.launch? v = some l
      ∧ a = (d, sent, taken) :: l.answered.filter (fun x => x.1 != d) ∧ l.ver = v ∧ s.ctrlOf k = some (.prepared v n d
      sent taken) ∧ l.round = n ∧ l.cause = none ∧ l.decided = false ∧ (∃ die ∈ s.diesOf l, ∀ x ∈ a, x.1 ≠ die)) ∧
    (∃ (s : State) (k v : Nat) (l : Launch) (n d sent taken : Nat) (a : List (Nat × Nat × Nat)), s.launch? v = some l
      ∧ a = (d, sent, taken) :: l.answered.filter (fun x => x.1 != d) ∧ l.ver = v ∧ s.ctrlOf k = some (.prepared v n d
      sent taken) ∧ l.round = n ∧ l.cause = none ∧ l.decided = false ∧ (∀ die ∈ s.diesOf l, ∃ x ∈ a, x.1 = die) ∧
      (a.foldl (fun y x => y + x.2.1) 0 = a.foldl (fun y x => y + x.2.2) 0 ∧ l.retracted = false ∧ s.mayDecide l =
      true ∧ l.staleNow = false ∧ s.stop = .no)) ∧
    (∃ (s : State) (k v : Nat) (l : Launch) (n d sent taken : Nat) (a : List (Nat × Nat × Nat)), s.launch? v = some l
      ∧ a = (d, sent, taken) :: l.answered.filter (fun x => x.1 != d) ∧ l.ver = v ∧ s.ctrlOf k = some (.prepared v n d
      sent taken) ∧ l.round = n ∧ l.cause = none ∧ l.decided = false ∧ (∀ die ∈ s.diesOf l, ∃ x ∈ a, x.1 = die) ∧ (¬
      (a.foldl (fun y x => y + x.2.1) 0 = a.foldl (fun y x => y + x.2.2) 0 ∧ l.retracted = false ∧ s.mayDecide l =
      true ∧ l.staleNow = false ∧ s.stop = .no))) ∧
    (∃ (s : State) (k v : Nat) (l : Launch) (d : Nat), s.launch? v = some l ∧ l.ver = v ∧ s.ctrlOf k = some (.retract
      v d)) ∧
    (∃ (s : State) (k v : Nat) (l : Launch) (d : Nat), s.launch? v = some l ∧ l.ver = v ∧ s.ctrlOf k = some (.commit v
      d)) ∧
    (∃ (s : State) (k v : Nat) (l : Launch) (d : Nat), s.launch? v = some l ∧ l.ver = v ∧ s.ctrlOf k = some (.done v
      d) ∧ (∀ die ∈ s.diesOf l, die ∈ d :: l.copied)) ∧
    (∃ (s : State) (k v : Nat) (l : Launch) (d : Nat), s.launch? v = some l ∧ l.ver = v ∧ s.ctrlOf k = some (.done v
      d) ∧ (∃ die ∈ s.diesOf l, die ∉ d :: l.copied)) :=
  ⟨⟨labLaunched false ({ labLaunch with
     stale := [(false, 0)], shadow := [⟨false, 0, 0, true, false, false, false, some 0, [], none⟩] }), 2, _, opt_get (by decide +kernel),
     by decide +kernel⟩,
   ⟨labLaunched false labLaunch, 2, _, opt_get (by decide +kernel), by decide +kernel⟩,
   ⟨_, 3, { labLaunched false labLaunch with
     launches := [(2, { labLaunch with shadow := [⟨true, 0, 0, false, true, false, false, some 0, [(0, 7)], none⟩] }), (3, { labLaunch with ver := 3, shadow := [⟨true, 0, 0, true, false, false, false, some 0, [], none⟩] })] },
     2, _, opt_get (by decide +kernel), opt_get (by decide +kernel), by decide +kernel⟩,
   ⟨labLaunched true labLaunch, 2, _, opt_get (by decide +kernel), by decide +kernel⟩,
   ⟨labLaunched false { labLaunch with
     state := .committed,
     toCopy := [⟨false, 0, 0, false, true, false, false, some 0, [(0, 7)], none⟩, ⟨false, 1, 0, false, true, false, false, some 0, [], none⟩] },
     2, _, _, _, opt_get (by decide +kernel), rfl, by decide +kernel⟩,
   ⟨labLaunched false ({ labLaunch with
     state := .committed, toCopy := [⟨false, 0, 0, false, true, false, false, some 0, [], none⟩] }), 2, _, _, _,
     opt_get (by decide +kernel), rfl, rfl, by decide +kernel⟩,
   ⟨labLaunched false { labLaunch with state := .committed }, 2, _, opt_get (by decide +kernel), by decide +kernel⟩,
   ⟨labCtrl false ({ labLaunch with round := 1 }) (.prepare 2 1 0), 3, 2, _, 1, 0, opt_get (by decide +kernel),
     by decide +kernel⟩,
   ⟨labCtrl true ({ labLaunch with round := 1 }) (.prepared 2 1 0 0 0), 3, 2, _, 1, 0, 0, 0, _, opt_get
     (by decide +kernel), rfl, by decide +kernel⟩,
   ⟨labCtrl false ({ labLaunch with round := 1 }) (.prepared 2 1 0 0 0), 3, 2, _, 1, 0, 0, 0, _, opt_get
     (by decide +kernel), rfl, by decide +kernel⟩,
   ⟨labCtrl false ({ labLaunch with round := 1 }) (.prepared 2 1 0 1 0), 3, 2, _, 1, 0, 1, 0, _, opt_get
     (by decide +kernel), rfl, by decide +kernel⟩,
   ⟨labCtrl false labLaunch (.retract 2 0), 3, 2, _, 0, opt_get (by decide +kernel), by decide +kernel⟩,
   ⟨labCtrl false labLaunch (.commit 2 0), 3, 2, _, 0, opt_get (by decide +kernel), by decide +kernel⟩,
   ⟨labCtrl false labLaunch (.done 2 0), 3, 2, _, 0, opt_get (by decide +kernel), by decide +kernel⟩,
   ⟨labCtrl true labLaunch (.done 2 0), 3, 2, _, 0, opt_get (by decide +kernel), by decide +kernel⟩⟩

/-- The hypotheses of the clauses of `LaunchesAbort` can be met. -/
theorem test_launches_abort :
    (∃ (s : State) (ver : Nat) (l : Launch) (c : BitVec 8), s.launch? ver = some l ∧ l.cause = some c ∧ (∀ f ∈
      s.flight, ∀ d c, f.body ≠ .ctrl (.abortq ver d c)) ∧ l.ver = ver ∧ l.decided = false ∧ s.imaged = false ∧
      l.state = .running) ∧
    (∃ (s : State) (ver : Nat) (l : Launch) (c : BitVec 8), s.launch? ver = some l ∧ (∀ f ∈ s.flight, ∀ d c, f.body ≠
      .ctrl (.abortq ver d c)) ∧ (c = 0x50 ∨ c = 0x51) ∧ l.ver = ver ∧ l.decided = false ∧ l.cause = some c ∧ s.imaged
      = false ∧ l.state = .running ∧ s.oneDie l = false ∧ l.retried = false ∧ l.killed = false ∧ (s.rootEntry
      l).isSettled = false ∧ (s.rootEntry l).gen = hGen l.root) ∧
    (∃ (s : State) (ver : Nat) (l : Launch) (c : BitVec 8), s.launch? ver = some l ∧ l.cause = some c ∧ (∀ f ∈
      s.flight, ∀ d c, f.body ≠ .ctrl (.abortq ver d c)) ∧ l.ver = ver ∧ l.decided = false ∧ s.imaged = false ∧
      l.state = .aborting ∧ (∀ f ∈ s.flight, ∀ d c, f.body ≠ .ctrl (.abort ver d c)) ∧ s.quiet l = true ∧ (∀ d ∈ s.dumps, (s.task
      d.task).ver.toNat ≠ ver)) ∧
    (∃ (s : State) (ver : Nat) (l : Launch) (c : BitVec 8), s.launch? ver = some l ∧ l.cause = some c ∧ (∀ f ∈
      s.flight, ∀ d c, f.body ≠ .ctrl (.abortq ver d c)) ∧ l.ver = ver ∧ l.decided = false ∧ s.imaged = false ∧
      l.state = .aborting ∧ (∀ f ∈ s.flight, ∀ d c, f.body ≠ .ctrl (.abort ver d c)) ∧ s.quiet l = true ∧ (∀ d ∈ s.dumps, (s.task
      d.task).ver.toNat ≠ ver) ∧ l.conflict = true ∧ l.retries ≠ 0 ∧ l.killed = false) ∧
    (∃ (s : State) (ver : Nat) (l : Launch), s.launch? ver = some l ∧ l.ver = ver ∧ l.decided = false ∧ l.state =
      .running) ∧
    (∃ (s : State) (ver : Nat) (l : Launch), s.launch? ver = some l ∧ l.ver = ver ∧ l.decided = false ∧ l.state =
      .starting) ∧
    (∃ (s : State) (ver : Nat) (l : Launch), s.launch? ver = some l ∧ l.ver = ver ∧ l.decided = false ∧ l.state =
      .aborting) ∧
    (∃ (s : State) (k v d : Nat) (c : BitVec 8), s.ctrlOf k = some (.abort v d c)) ∧
    (∃ (s : State) (k v d : Nat) (c : BitVec 8) (l : Launch), s.launch? v = some l ∧ s.ctrlOf k = some (.abortq v d c)
      ∧ l.cause = none) :=
  ⟨⟨labLaunched false ({ labLaunch with cause := some 0x50 }), 2, _, _, opt_get (by decide +kernel), opt_get
     (by decide +kernel), (fun _ hf => nomatch hf), by decide +kernel⟩,
   ⟨{ labLaunched true { labLaunch with cause := some 0x50 } with spool := [(5, labPending)] }, 2, _, 0x50, opt_get
     (by decide +kernel), (fun _ hf => nomatch hf), .inl rfl, by decide +kernel⟩,
   ⟨labLaunched false ({ labLaunch with cause := some 0x50, state := .aborting, applied := [0] }), 2, _, _, opt_get
     (by decide +kernel), opt_get (by decide +kernel), (fun _ hf => nomatch hf), rfl, rfl, rfl, rfl,
     (fun _ hf => nomatch hf), by decide +kernel⟩,
   ⟨labLaunched false { labLaunch with
     cause := some 0x50, conflict := true, retries := 1, state := .aborting, applied := [0] }, 2, _, _, opt_get
     (by decide +kernel), opt_get (by decide +kernel), (fun _ hf => nomatch hf), rfl, rfl, rfl, rfl,
     (fun _ hf => nomatch hf), by decide +kernel⟩,
   ⟨labLaunched false ({ labLaunch with cause := some 0x50 }), 2, _, opt_get (by decide +kernel), by decide +kernel⟩,
   ⟨labLaunched false ({ labLaunch with state := .starting }), 2, _, opt_get (by decide +kernel), by decide +kernel⟩,
   ⟨labLaunched false ({ labLaunch with cause := some 0x50, state := .aborting, applied := [0] }), 2, _, opt_get
     (by decide +kernel), by decide +kernel⟩,
   ⟨labCtrl false labLaunch (.abort 2 0 0x50), 3, 2, 0, 0x50, by decide +kernel⟩,
   ⟨labCtrl false labLaunch (.abortq 2 0 0x50), 3, 2, 0, 0x50, _, opt_get (by decide +kernel), by decide +kernel⟩⟩

/-- The hypotheses of the clauses of `TheJobStopsAndResumes` can be met. -/
theorem test_the_job_stops_and_resumes :
    (∃ (s : State) (vdev : Nat), s.deviceCores vdev ≠ [] ∧ s.stop = .no) ∧
    (∃ (s : State) (vdev : Nat), s.deviceCores vdev ≠ [] ∧ s.stop = .stopping ∧ (∃ k ∈ s.deviceCores vdev, (s.core
      k).stopped = false) ∧ (∀ e ∈ s.launches, e.2.ver = e.1)) ∧
    (∃ (l : Launch) (v : Nat) (s : State) (vdev : Nat), s.deviceCores vdev ≠ [] ∧ s.stop = .stopping ∧ (∃ k ∈
      s.deviceCores vdev, (s.core k).stopped = false) ∧ (∀ e ∈ s.launches, e.2.ver = e.1) ∧ s.launch? v = some l ∧
      l.state = .running ∧ l.decided = false) ∧
    (∃ (s : State) (pos : Nat), s.halted pos = true) ∧
    (∃ (s : State) (ch : Channel) (u : State), u = { s with markers := ch :: s.markers } ∧ (s.stop = .stopping ∨
      s.stop = .draining) ∧ ch ∉ s.markers ∧ s.mayMark ch = true) ∧
    (∃ (s : State) (lease : Nat), s.stop = .cut ∧ (s.lease lease).live = true ∧ s.images.find lease = none ∧ (∀ e ∈
      s.leases, e.2.live = true → e.1 = lease ∨ (s.images.find e.1).isSome = true)) ∧
    (∃ (s : State) (damage : List (Nat × Nat × Byte)) (places : List (Nat × Nat × Nat)), (s.stop = .quiescent ∨ s.stop =
      .no) ∧ s.images ≠ [] ∧ s.basteReq = none ∧ s.placesOk places = true ∧ s.restorable damage = []) ∧
    (∃ (s : State) (damage : List (Nat × Nat × Byte)) (places : List (Nat × Nat × Nat)), (s.stop = .quiescent ∨ s.stop =
      .no) ∧ s.images ≠ [] ∧ s.basteReq = none ∧ s.placesOk places = true ∧ s.restorable damage ≠ []) :=
  ⟨⟨lab, 0, by decide +kernel⟩,
   ⟨{ lab with stop := .stopping }, 0, by decide +kernel⟩,
   ⟨labLaunch, 2, { labLaunched false labLaunch with stop := .stopping }, 0, by decide +kernel⟩,
   ⟨{ lab with stop := .draining }, 0, by decide +kernel⟩,
   ⟨{ lab with
     stop := .draining, cores := (List.range 8).map fun i => (i, { Core.idle with stopped := true }) }, ⟨0, 1, 0⟩, _,
     rfl, by decide +kernel⟩,
   ⟨{ lab with stop := .cut }, 1, by decide +kernel⟩,
   ⟨{ labDevice with images := [(1, [])] }, [], [(1, 1, 2)], by decide +kernel⟩,
   ⟨labImaged, [], [], .inr rfl, List.cons_ne_nil _ _, rfl, by decide +kernel, labImaged_restorable⟩⟩

/-- The hypotheses of the clauses of `ErrorsAreReported` can be met. -/
theorem test_errors_are_reported :
    (∃ (s : State) (e : SoftError) (b : Basted), s.basted = some b ∧ s.errorMeets e = true ∧ s.inBasting e = true) ∧
    (∃ (s : State) (e : SoftError) (b : Basted), s.basted = some b ∧ s.errorMeets e = true ∧ s.inBasting e = false ∧
      s.pendingError = none) ∧
    (∃ (s : State) (e : SoftError) (b : Basted), s.basted = some b ∧ s.errorMeets e = true ∧ s.inBasting e = false ∧
      s.pendingError ≠ none) ∧
    (∃ (s : State) (id : Nat) (r : BitVec 7), s.basted = none ∧ s.errorMeets (.register id r) = true ∧ (s.task
      id).slot ≠ none) ∧
    (∃ (s : State) (v : Nat) (l : Launch) (e : SoftError), s.launch? v = some l ∧ (e = .control v ∨ ∃ id r, e =
      .register id r ∧ (s.task id).slot = none ∧ (s.task id).ver.toNat = v) ∧ s.basted = none ∧ l.ver = v ∧ l.state =
      .running ∧ l.decided = false ∧ s.errorMeets e = true) ∧
    (∃ (s : State) (k : Nat) (f : Flight), s.flight? k = some f ∧ s.basted = none ∧ s.errorMeets (.producer k) = true) ∧
    (∃ (s : State) (a : Nat), s.basted = none ∧ s.errorMeets (.spad a) = true) ∧
    (∃ (s : State) (k : Nat) (host : Bool) (ln : Nat), s.basted = none ∧ s.errorMeets (.line k host ln) = true) ∧
    (∃ (s : State) (u : EngineUnit) (k : Nat), s.basted = none ∧ s.errorMeets (.engine u k) = true) ∧
    (∃ (s : State) (vdev pa : Nat), s.basted = none ∧ vdev < 384 ∧ pa < hbmBytes) ∧
    (∃ (s : State) (e : SoftError) (b : Basted), s.pendingError = some e ∧ s.basted = some b ∧ s.stop = .no ∧
      s.mayRollBack = true) ∧
    (∃ (s : State) (e : SoftError) (b : Basted) (id : Nat) (u : Task), s.pendingError = some e ∧ s.basted = some b ∧
      b.tasks.find id = some u ∧ s.stop = .no ∧ s.mayRollBack = true ∧ u.lease ∈ b.covered) ∧
    (∃ (s : State) (e : SoftError) (b : Basted) (id : Nat), s.pendingError = some e ∧ s.basted = some b ∧ s.stop = .no
      ∧ s.mayRollBack = true ∧ (s.task id).lease ∈ b.covered ∧ b.tasks.find id = none) ∧
    (∃ (s : State) (e : SoftError) (b : Basted) (a : Nat), s.pendingError = some e ∧ s.basted = some b ∧ s.stop = .no
      ∧ s.mayRollBack = true ∧ b.spad.wf = true ∧ s.spad.wf = true ∧ (s.cluster (posOfKey a)).lease ∈ b.covered) ∧
    (∃ (s : State) (e : SoftError) (b : Basted) (a : Nat), s.pendingError = some e ∧ s.basted = some b ∧ s.stop = .no
      ∧ s.mayRollBack = true ∧ b.saved.wf = true ∧ s.mem.wf = true ∧ inSpans b.spans a = true) ∧
    (∃ (x : Lease) (i : Nat) (s : State) (e : SoftError) (b : Basted), s.pendingError = some e ∧ s.basted = some b ∧
      s.leases.find i = some x ∧ s.stop = .no ∧ s.mayRollBack = true ∧ i ∈ b.covered ∧ (b.leases.find i).isSome =
      true) ∧
    (∃ (s : State) (e : SoftError) (b : Basted) (x : Nat × Launch), s.pendingError = some e ∧ s.basted = some b ∧ x ∈
      s.launches ∧ s.stop = .no ∧ s.mayRollBack = true ∧ x.2.state = .running ∧ b.launches.find x.2.ver = none) ∧
    (∃ (s : State) (e : SoftError), s.pendingError = some e ∧ s.stop = .no ∧ (s.basted = none ∨ s.mayRollBack =
      false)) ∧
    (∃ (s : State) (lease : Nat) (core : Option Nat), (s.lease lease).live = true ∧ (∀ k, core = some k → k ∈ (s.lease
      lease).cores)) ∧
    (∃ (s : State) (vdev pa : Nat), vdev < 384 ∧ pa < hbmBytes ∧ s.basted = none) ∧
    (∃ (s : State) (vdev pa : Nat) (b : Basted), s.basted = some b ∧ vdev < 384 ∧ pa < hbmBytes ∧ s.inBasting (.memory
      vdev pa) = false ∧ s.pendingError = none) ∧
    (∃ (s : State), s.stop ≠ .no ∧ s.stop ≠ .debug) ∧
    (∃ (s : State) (d : Dump) (rest : List Dump) (lease i : Nat), s.dumps = d :: rest ∧ lease = (s.task d.task).lease
      ∧ (s.lease lease).freeDump = some i ∧ (s.stop = .no ∨ s.stop = .debug) ∧ s.localPending d.task = false ∧ s.dumpOk lease ((s.lease lease).dumpArea + i * 8192) =
      true) ∧
    (∃ (s : State) (d : Dump) (rest : List Dump) (lease : Nat) (ok : Bool), s.dumps = d :: rest ∧ lease = (s.task
      d.task).lease ∧ (ok = false ∨ (∃ i, (s.lease lease).freeDump = some i ∧ s.dumpOk lease ((s.lease lease).dumpArea
      + i * 8192) = false)) ∧ (s.stop = .no ∨ s.stop = .debug) ∧ s.localPending d.task = false) ∧
    (∃ (s : State) (lease slot : Nat), slot ∈ (s.lease lease).dumpUsed) :=
  ⟨⟨{ labBastedState with
       leases := labWalking.leases.map (fun e => (e.1, { e.2 with bastingArea := 0x50000 })),
       mem := labWalking.mem }, .memory 0 0x50010, _, opt_get (by decide +kernel), by decide +kernel⟩,
   ⟨{ lab with basted := some labBasted }, .memory 0 0x400, _, opt_get (by decide +kernel), by decide +kernel⟩,
   ⟨{ lab with basted := some labBasted, pendingError := some (.memory 0 0x400) }, .memory 0 0x400, _, opt_get
     (by decide +kernel), by decide +kernel⟩,
   ⟨lab, 0, 8, by decide +kernel⟩,
   ⟨labLaunched false labLaunch, 2, _, .control 2, opt_get (by decide +kernel), .inl rfl, by decide +kernel⟩,
   ⟨labFlight (.value (.s 8) 7 false true 0x400), 3, _, opt_get (by decide +kernel), by decide +kernel⟩,
   ⟨lab, 0, by decide +kernel⟩,
   ⟨labL1, 0, false, 16, by decide +kernel⟩,
   ⟨labJob true (labFill 8), .copy 0, 4, by decide +kernel⟩,
   ⟨lab, 0, 0, by decide +kernel⟩,
   ⟨labBastedState, _, _, opt_get (by decide +kernel), opt_get (by decide +kernel), by decide +kernel⟩,
   ⟨labBastedState, _, _, 0, _, opt_get (by decide +kernel), opt_get (by decide +kernel), opt_get (by decide +kernel),
     by decide +kernel⟩,
   ⟨{ labBastedState with tasks := labBastedState.tasks ++ [(1, labTask)] }, _, _, 1, opt_get (by decide +kernel),
     opt_get (by decide +kernel), by decide +kernel⟩,
   ⟨labBastedState, _, _, 0, opt_get (by decide +kernel), opt_get (by decide +kernel), by decide +kernel⟩,
   ⟨labBastedState, _, _, 65, opt_get (by decide +kernel), opt_get (by decide +kernel), by decide +kernel⟩,
   ⟨_, 1, labBastedState, _, _, opt_get (by decide +kernel), opt_get (by decide +kernel), opt_get (by decide +kernel),
     by decide +kernel⟩,
   ⟨{ labBastedState with launches := [(3, { labLaunch with ver := 3 })] }, _, _, (3, { labLaunch with ver := 3 }),
     opt_get (by decide +kernel), opt_get (by decide +kernel), List.mem_singleton_self _, by decide +kernel⟩,
   ⟨{ lab with pendingError := some (.register 0 8) }, _, opt_get (by decide +kernel), by decide +kernel⟩,
   ⟨lab, 1, some 0, by decide +kernel, forall_some (by decide +kernel)⟩,
   ⟨lab, 0, 0, by decide +kernel⟩,
   ⟨{ lab with basted := some labBasted }, 0, 0, _, opt_get (by decide +kernel), by decide +kernel⟩,
   ⟨{ lab with stop := .cut }, by decide +kernel⟩,
   ⟨{ (labWalking.onLease 1 fun l => { l with dumpSlots := 8, dumpArea := 0x50000 }) with
     dumps := [⟨0, 0x18, [], false, none, 0⟩], walks := [] }, _, _, _, _, rfl, rfl, opt_get (by decide +kernel),
     by decide +kernel⟩,
   ⟨{ labLeased fun l => { l with dumpSlots := 2 } with dumps := [⟨0, 0x18, [], false, none, 0⟩] }, _, _, _, false,
     rfl, rfl, .inl rfl, by decide +kernel⟩,
   ⟨labLeased fun l => { l with dumpUsed := [0] }, 1, 0, by decide +kernel⟩⟩

/-- The hypotheses of the clauses of `WindowsAndRoutes` can be met. -/
theorem test_windows_and_routes :
    (∃ (s : State) (lease win : Nat), (s.lease lease).live = true ∧ win < 16) ∧
    (∃ (s : State) (lease win : Nat) (x : BitVec 256), (s.lease lease).live = true ∧ win < 16 ∧ x ≠ 0 ∧ windowFieldsOk
      x = false) ∧
    (∃ (s : State) (lease win : Nat) (x : BitVec 256), (s.lease lease).live = true ∧ win < 16 ∧ x ≠ 0 ∧ windowFieldsOk
      x = true ∧ (∀ w ∈ (s.lease lease).remap.toList, w.valid = false) ∧ s.mapsSpan lease (windowOf x).base.toNat
      (windowOf x).span = false ∧ s.tablePinned lease (windowOf x).table = true) ∧
    (∃ (s : State) (lease slot : Nat) (x y : BitVec 256), y = x &&& ~~~slotReserved ∧ (s.lease lease).live = true ∧
      slot < 8 ∧ (slotArm ((s.lease lease).routes.toList.getD slot 0) = true ∨ s.inScratchpad ((s.lease
      lease).positions.headD 0) (slotDrain x) = false ∨ slotDrain x % 8 ≠ 0 ∨ (slotArm x = true ∧ (slotNewrt x % 8 ≠ 0
      ∨ s.tablePinned lease (w64 (slotNewrt x)) = false)))) ∧
    (∃ (s : State) (lease slot : Nat) (x y : BitVec 256), y = x &&& ~~~slotReserved ∧ (s.lease lease).live = true ∧
      slot < 8 ∧ slotArm ((s.lease lease).routes.toList.getD slot 0) = false ∧ s.inScratchpad ((s.lease
      lease).positions.headD 0) (slotDrain x) = true ∧ slotDrain x % 8 = 0 ∧ (slotArm x = true → slotNewrt x % 8 = 0
      ∧ s.tablePinned lease (w64 (slotNewrt x)) = true)) ∧
    (∃ (s : State) (lease slot : Nat) (x : BitVec 256) (w : RemapWindow) (a : Nat), x = (s.lease
      lease).routes.toList.getD slot 0 ∧ (s.lease lease).remap.toList[slotWin x]? = some w ∧ a = wideAddr ((s.lease
      lease).positions.headD 0) (slotDrain x) - windowBase ∧ slot < 8 ∧ s.drainDone lease x = true ∧ s.tagK a = false
      ∧ (∀ b ∈ s.bank, b.loc.addr ≠ a)) ∧
    (∃ (s : State) (lease slot : Nat) (x : BitVec 256) (w : RemapWindow) (a : Nat), x = (s.lease
      lease).routes.toList.getD slot 0 ∧ (s.lease lease).remap.toList[slotWin x]? = some w ∧ a = wideAddr ((s.lease
      lease).positions.headD 0) (slotDrain x) - windowBase ∧ slot < 8 ∧ s.drainDone lease x = true ∧ s.tagK a = true) ∧
    (∃ (s : State) (lease : Nat) (w : PinnedReq), s.pinOk (s.lease lease) w = true) ∧
    (∃ (s : State) (lease win : Nat) (w : PinnedWindow), (s.lease lease).pinned.find? (fun w => w.win == win) = some
      w) :=
  ⟨⟨lab, 1, 0, by decide +kernel⟩,
   ⟨lab, 1, 0, 1, by decide +kernel⟩,
   ⟨labWalking.onLease 1 fun l => { l with pinned := [⟨0, 0, 0, 0, 0x80000, [0], 1⟩] }, 1, 0, (0x80000000 ||| (1 <<<
     64) ||| (0x1000 <<< 128) : BitVec 256), by decide +kernel⟩,
   ⟨labLeased fun l => { l with routes := l.routes.set 0 (1 <<< 240) }, 1, 0, 0, _, rfl, by decide +kernel⟩,
   ⟨lab, 1, 0, 0xE0000000000100 <<< 8, _, rfl, by decide +kernel⟩,
   ⟨labLeased fun l => { l with
     routes := l.routes.set 0 ((1 <<< 240) ||| (0xFFFFFFFF <<< 208) ||| (0xE0000000000100 <<< 8) : BitVec 256) }, 1,
     0, _, _, _, rfl, opt_get (by decide +kernel), rfl, by decide +kernel⟩,
   ⟨{ labLeased fun l => { l with routes := l.routes.set 0 ((1 <<< 240) ||| (0xFFFFFFFF <<< 208) ||| (0xE0000000000100 <<< 8) : BitVec 256) } with
     tags := [(0x100, 2)] }, 1, 0, _, _, _, rfl, opt_get (by decide +kernel), rfl, by decide +kernel⟩,
   ⟨lab, 1, ⟨0, 0, 0, 0, 524288, [0], 1⟩, by decide +kernel⟩,
   ⟨labWalking.onLease 1 fun l => { l with pinned := [⟨0, 0, 0, 0, 0x80000, [0], 1⟩] }, 1, 0, _, opt_get
     (by decide +kernel)⟩⟩

/-- The hypotheses of the clauses of `TraceRecordAndDebug` can be met. -/
theorem test_trace_record_and_debug :
    (∃ (s u : State) (id why : Nat) (e : ChunkEnd), s.chunkEnding id why = some e ∧ s.logRecords (s.task id).lease
      (chunkRecord s.order id e.count e.why e.kind :: match e.value with | some v => [v.setWidth 128] | none => []) =
      some u ∧ s.chunkTakes id = true ∧ e.why = why ∧ s.unperformed id = false ∧ s.releasing id = false ∧
      s.replays id = false) ∧
    (∃ (s : State) (id why : Nat) (e : ChunkEnd) (r : BitVec 128 × Option Word), s.chunkEnding id why = some e ∧
      s.nextChunk id (e.kind == 2) = some r ∧ s.chunkTakes id = true ∧ e.why = why ∧ s.unperformed id = false ∧
      s.releasing id = false ∧ s.replays id = true ∧ chunkAgrees e r.1 = true) ∧
    (∃ (s : State) (id why : Nat) (e : ChunkEnd), s.chunkEnding id why = some e ∧ s.chunkTakes id = true ∧ e.why
      = why ∧ s.unperformed id = false ∧ s.releasing id = false ∧ s.replays id = true ∧ (s.nextChunk id (e.kind == 2)
      = none ∨ ∃ r, s.nextChunk id (e.kind == 2) = some r ∧ chunkAgrees e r.1 = false)) ∧
    (∃ (s : State), (∃ e ∈ s.leases, e.2.live = true ∧ e.2.debugger = true ∧ e.2.replay = true)) ∧
    (∃ (s : State) (lease : Nat) (r : TraceRing), r = (s.lease lease).trace ∧ (s.lease lease).live = true ∧
      r.tctl.getLsbD 0 = true) ∧
    (∃ (s : State) (lease : Nat) (r : TraceRing) (x : Word), r = (s.lease lease).trace ∧ (s.lease lease).live = true ∧
      x.getLsbD 0 = true ∧ r.tctl.getLsbD 0 = false) ∧
    (∃ (s : State) (lease : Nat) (r : TraceRing) (x : Word), r = (s.lease lease).trace ∧ (s.lease lease).live = true ∧
      x.getLsbD 0 = false) ∧
    (∃ (s : State) (lease : Nat) (r : TraceRing), r = (s.lease lease).trace ∧ (s.lease lease).live = true) ∧
    (∃ (s : State) (lease : Nat) (r : TraceRing) (core : Nat), r = (s.lease lease).trace ∧ core ∈ (s.lease
      lease).cores ∧ (s.lease lease).live = true) ∧
    (∃ (s : State) (lease : Nat) (r : TraceRing) (die slice : Nat), r = (s.lease lease).trace ∧ (s.lease lease).live =
      true ∧ slice < 64 ∧ (∃ p ∈ s.positions, p / 128 = die / 8)) ∧
    (∃ (s : State) (lease : Nat), (s.lease lease).live = true ∧ (s.lease lease).debugger = false) ∧
    (∃ (s : State) (lease ix : Nat) (x : BitVec 128), (s.lease lease).live = true ∧ ix < 16 ∧ s.betweenActivations
      lease = true ∧ 30 < fld x 87 82) ∧
    (∃ (s : State) (lease ix : Nat) (x : BitVec 128), (s.lease lease).live = true ∧ ix < 16 ∧ s.betweenActivations
      lease = true ∧ fld x 87 82 ≤ 30) ∧
    (∃ (s : State) (lease id cause : Nat), s.stoppedAt = some (id, cause) ∧ (s.lease lease).live = true ∧ (s.lease
      lease).debugger = true ∧ s.stop = .debug) ∧
    (∃ (s : State) (lease id : Nat) (spec : BitVec 7) (r : Reg), debugReg spec = some r ∧ (s.lease lease).live = true
      ∧ (s.lease lease).debugger = true ∧ s.stop = .debug ∧ (s.task id).live = true ∧ (s.task id).lease = lease) ∧
    (∃ (s : State) (lease : Nat) (pc : Word) (m : BitVec 3) (a : Nat) (va : Word) (via : Option RowVia) (e : Bool)
      (rows : Option RowEntry), (s.lease lease).live = true ∧ (s.lease lease).debugger = true ∧ legalPc pc = true ∧
      s.mem.wf = true ∧ s.host.wf = true ∧
      s.resolveNow lease ((s.lease lease).positions.headD 0) (w64 (lineOf pc)) = .ok ⟨.mem m, a, va, via⟩ e rows) ∧
    (∃ (s : State) (lease : Nat) (pc : Word) (m : BitVec 3) (a : Nat) (va : Word) (via : Option RowVia) (e : Bool)
      (rows : Option RowEntry), (s.lease lease).live = true ∧ (s.lease lease).debugger = true ∧ legalPc pc = true ∧
      s.mem.wf = true ∧ s.host.wf = true ∧
      s.resolveNow lease ((s.lease lease).positions.headD 0) (w64 (lineOf pc)) = .ok ⟨.host m, a, va, via⟩ e rows) :=
  ⟨⟨(labLeased fun l => { l with chunkLogSize := 64 }).onMe fun t => { t with due := some 2 }, _, 0, 2, _, opt_get
     (by decide +kernel), opt_get (by decide +kernel), by decide +kernel⟩,
   ⟨{ (labLeased fun l => { l with replay := true, chunkLogSize := 64 }).onMe (fun t => { t with due := some 2 }) with
     replayLog := [chunkRecord 0 0 0 2 0] }, 0, 2, _, _, opt_get (by decide +kernel), opt_get (by decide +kernel),
     by decide +kernel⟩,
   ⟨{ (labLeased fun l => { l with replay := true, chunkLogSize := 64 }).onMe (fun t => { t with due := some 2 }) with
     replayLog := chunkRecord 0 0 5 2 0 :: [] }, 0, 2, _, opt_get (by decide +kernel), by decide +kernel⟩,
   ⟨labLeased fun l => { l with debugger := true, replay := true }, by decide +kernel⟩,
   ⟨labLeased fun l => { l with trace := ⟨0, 1, 8, 0, 0, 0, 0⟩ }, 1, _, rfl, by decide +kernel⟩,
   ⟨lab, 1, _, 1, rfl, by decide +kernel⟩,
   ⟨lab, 1, _, 0, rfl, by decide +kernel⟩,
   ⟨lab, 1, _, rfl, by decide +kernel⟩,
   ⟨lab, 1, _, _, rfl, getElem_in (i := 0) (by decide +kernel), by decide +kernel⟩,
   ⟨lab, 1, _, 0, 63, rfl, by decide +kernel⟩,
   ⟨lab, 1, by decide +kernel⟩,
   ⟨lab, 1, 0, 0xFFFFFFFFFFFFFFFFFFFFFFFFFFFFFFFF, by decide +kernel⟩,
   ⟨lab, 1, 0, 0, by decide +kernel⟩,
   ⟨labDebug, 1, _, _, pair_get (by decide +kernel), by decide +kernel⟩,
   ⟨labDebug, 1, 0, 8, _, opt_get (by decide +kernel), by decide +kernel⟩,
   ⟨labWalking.onLease 1 fun l => { l with debugger := true }, 1, 0, 0, 0, 0, none, false, none, by decide +kernel⟩,
   ⟨{ labWalking.onLease 1 (fun l => { l with debugger := true }) with
     mem := Memory.putNum (Memory.putNum [] 0x100000 8 0x180001) 0x180000 8 0x47 }, 1, 0, 1, 0, 0, none, false, none,
     by decide +kernel⟩⟩

/-- The hypotheses of the clauses of `TheDeviceAndItsLinks` can be met. -/
theorem test_the_device_and_its_links :
    (∃ (s : State) (mw : Nat), s.device.configured = true ∧ s.device.powerLimit * 1000 < mw) ∧
    (∃ (s : State) (mw : Nat), s.device.configured = true ∧ mw ≤ s.device.powerLimit * 1000 ∧ s.clockHeld = false) ∧
    (∃ (s : State), s.clockHeld = false) ∧
    (∃ (s : State) (b : ConfigBlob), s.device.booted = true ∧ (b.valid = false ∨ 384 < b.devices.length)) ∧
    (∃ (s : State) (b : ConfigBlob), s.device.booted = true ∧ b.valid = true ∧ b.devices.length ≤ 384) ∧
    (∃ (s : State), s.device.booted = true) ∧
    (∃ (s : State) (f : WireFlit), s.device.booted = true ∧ f.trunk = true) ∧
    (∃ (s : State) (f : WireFlit), s.device.booted = true ∧ f.trunk = true ∧ flitKind f = 0x30 ∧ flitVc f = 3) ∧
    (∃ (s : State) (f : WireFlit), s.device.booted = true ∧ f.trunk = false ∧ (flitKindOk f = false ∨ (s.lease
      f.toLease).live = false ∨ (s.lease f.toLease).phys / 8 ≠ f.toDevice ∨ (f.toLease, f.fromDevice, f.fromLease) ∉
      s.fabric.deviceMap)) ∧
    (∃ (s : State) (f : WireFlit), s.device.booted = true ∧ f.trunk = false ∧ flitKindOk f = true ∧ (s.lease
      f.toLease).live = true ∧ (s.lease f.toLease).phys / 8 = f.toDevice ∧ (f.toLease, f.fromDevice, f.fromLease) ∈
      s.fabric.deviceMap) ∧
    (∃ (s : State) (x : Word), s.device.bootFailed = false ∧ ((x - s.now).toNat ≤ 8 ∨ (s.now - x).toNat ≤ 8)) ∧
    (∃ (s : State) (link n : Nat), n = (s.fabric.replays.find link).getD 0 + 1 ∧ s.fabric.live (link / 24) (link % 24)
      = true ∧ n < 16) ∧
    (∃ (s : State) (link n : Nat) (y : Fabric), n = (s.fabric.replays.find link).getD 0 + 1 ∧ y = { s.fabric with
      dead := link :: s.fabric.dead } ∧ s.fabric.live (link / 24) (link % 24) = true ∧ 16 ≤ n ∧ (∀ a ∈ s.jobDevices,
      ∀ b ∈ s.jobDevices, a = b ∨ y.share a b = true)) ∧
    (∃ (s : State) (link n : Nat) (y : Fabric), n = (s.fabric.replays.find link).getD 0 + 1 ∧ y = { s.fabric with
      dead := link :: s.fabric.dead } ∧ s.fabric.live (link / 24) (link % 24) = true ∧ 16 ≤ n ∧ (∃ a ∈ s.jobDevices,
      ∃ b ∈ s.jobDevices, a ≠ b ∧ y.share a b = false)) ∧
    (∃ (s : State) (tbl : List Nat), tbl ≠ [] ∧ tbl.length % 24 = 0 ∧ (∀ i, i < tbl.length → tbl.getD i 0 < 24 ∧
      s.fabric.live (i / 24) (tbl.getD i 0) = true)) ∧
    (∃ (s : State) (src dst vc : Nat), (∃ f ∈ s.fabric.kept, flitSrc f = src ∧ flitDst f = dst ∧ flitVc f = vc)) :=
  ⟨⟨labDevice, 2000, by decide +kernel⟩,
   ⟨labDevice, 0, by decide +kernel⟩,
   ⟨lab, by decide +kernel⟩,
   ⟨labDevice, ⟨false, 0, 0, [], [], []⟩, by decide +kernel⟩,
   ⟨labDevice, ⟨true, 9000, 3, [0], [[1]], [2]⟩, by decide +kernel⟩,
   ⟨labDevice, by decide +kernel⟩,
   ⟨labDevice, labFlit 0 true, by decide +kernel⟩,
   ⟨labDevice, { labFlit 0x30 true with header := (0x30 <<< 100) ||| (3 <<< 98) }, by decide +kernel⟩,
   ⟨labDevice, labFlit 0 false, by decide +kernel⟩,
   ⟨labDevice, labFlit 0x3F false, by decide +kernel⟩,
   ⟨lab, 0, by decide +kernel⟩,
   ⟨labDevice, 0, _, rfl, by decide +kernel⟩,
   ⟨{ labDevice with fabric := { labDevice.fabric with replays := [(0, 15)] } }, 0, _, _, rfl, rfl, by decide +kernel⟩,
   ⟨{ labDevice with
     fabric := { labDevice.fabric with replays := [(0, 15)] }
     leases := lab.leases ++ [(2, { labLease with phys := 8, positions := [128] })] }, 0, _, _, rfl, rfl, by decide +kernel⟩,
   ⟨labDevice, List.replicate 24 0, by decide +kernel⟩,
   ⟨labDevice, _, _, _, _, List.mem_cons_self, rfl, rfl, rfl⟩⟩

/-- The hypotheses of the clauses of `LeasesComeAndGo` can be met. -/
theorem test_leases_come_and_go :
    (∃ (s : State) (r : LeaseRequest), s.stop = .no ∧ s.leaseOk (filledRequest r) = false) ∧
    (∃ (s : State) (r : LeaseRequest), s.stop = .no ∧ s.leaseOk (filledRequest r) = true) ∧
    (∃ (s : State) (lease : Nat) (i : Instr), (s.lease lease).live = true ∧ (i = .teardown lease ∨ i =
      .functionLevelReset lease) ∧ s.images.find lease = none) ∧
    (∃ (s : State) (lease : Nat) (i : Instr), (s.lease lease).live = true ∧ (i = .teardown lease ∨ i =
      .functionLevelReset lease) ∧ (s.images.find lease).isSome = true) :=
  ⟨⟨lab, labRequest, by decide +kernel⟩,
   ⟨{ labDevice with leases := [], clusters := [] }, labRequest, by decide +kernel⟩,
   ⟨lab, 1, .teardown 1, by decide +kernel⟩,
   ⟨{ lab with images := [(1, [])] }, 1, .functionLevelReset 1, by decide +kernel⟩⟩

/-- The hypotheses of the clauses of `TheHostReadsItsRegisters` can be met. -/
theorem test_the_host_reads_its_registers :
    (∃ (s : State), s.device.bootFailed = true) ∧
    (∃ (s : State) (lease q : Nat) (x : HostQueue) (b : Nat), (s.lease lease).queues.toList[q]? = some x ∧ b = 0x1000 +
      0x100 * q ∧ s.device.bootFailed = false ∧ q < 16) ∧
    (∃ (s : State) (lease i : Nat) (x : Word), (s.lease lease).msixTable.toList[i]? = some x ∧ s.device.bootFailed =
      false) ∧
    (∃ (i : Nat), 1 ≤ i ∧ i ≤ 8 ∧ i = 8) :=
  ⟨⟨{ lab with device := { lab.device with bootFailed := true } }, rfl⟩,
   ⟨lab, 0, 0, _, _, opt_get (by decide +kernel), rfl, by decide +kernel⟩,
   ⟨lab, 1, 15, _, opt_get (by decide +kernel), by decide +kernel⟩,
   ⟨8, by decide +kernel⟩⟩

/-- The hypotheses of the clauses of `EveryWordHasItsFate` can be met. -/
theorem test_every_word_has_its_fate :
    (∃ (w : IWord), w ≠ BitVec.allOnes 96 ∧ 0xC ≤ fld w 95 92) ∧
    (∃ (w : IWord), (∀ x l, ofParts (fld w 95 92) (fld w 91 84) x l = none) ∧ w ≠ BitVec.allOnes 96) ∧
    (∃ (w : IWord) (i : Instr) (n : Nat), ofParts (fld w 95 92) (fld w 91 84) (fieldsOfWord w) (lfieldsOfWord w) =
      some i ∧ w ≠ BitVec.allOnes 96 ∧ fieldError i = some n) ∧
    (∃ (w : IWord) (i : Instr), ofParts (fld w 95 92) (fld w 91 84) (fieldsOfWord w) (lfieldsOfWord w) = some i ∧ w ≠
      BitVec.allOnes 96 ∧ fieldError i = none) ∧
    (∃ (w : IWord) (i : Instr), ofParts (fld w 95 92) (fld w 91 84) (fieldsOfWord w) (lfieldsOfWord w) = some i ∧ w ≠
      BitVec.allOnes 96 ∧ fieldError i = none ∧ modOk i = false) ∧
    (∃ (w : IWord) (i : Instr), ofParts (fld w 95 92) (fld w 91 84) (fieldsOfWord w) (lfieldsOfWord w) = some i ∧ w ≠
      BitVec.allOnes 96 ∧ fieldError i = none ∧ modOk i = true) :=
  ⟨⟨0xC <<< 92, by decide +kernel⟩,
   ⟨0xFF <<< 84, fun _ _ => rfl, by decide +kernel⟩,
   ⟨1 <<< 72, _, 1, opt_get (by decide +kernel), by decide +kernel⟩,
   ⟨0, _, opt_get (by decide +kernel), by decide +kernel⟩,
   ⟨(0x1 <<< 92 : IWord) ||| (0xFF <<< 64), _, opt_get (by decide +kernel), by decide +kernel⟩,
   ⟨0, _, opt_get (by decide +kernel), by decide +kernel⟩⟩

/-- The hypotheses of the clauses of `EncodingReadsBack` can be met. -/
theorem test_encoding_reads_back :
    ∃ (i : Instr), i.coded = true ∧ i.wf = true :=
  ⟨.nop (flds (.s 0) (.s 0) (.s 0) (.s 0) 0 0), by decide +kernel⟩

/-- The hypotheses of the clauses of `WordsHaveOneMeaning` can be met. -/
theorem test_words_have_one_meaning :
    ∃ (w : IWord) (i : Instr), decode w = .ok i :=
  ⟨0, .nop (flds (.s 0) (.s 0) (.s 0) (.s 0) 0 0), is_ok (by decide +kernel)⟩

/-- The hypotheses of the clauses of `StepRunsTheDecodedInstruction` can be met. -/
theorem test_step_runs_the_decoded_instruction :
    (∃ (s w u : State) (id : Nat) (rest : List Turn), w = { s with agenda := rest } ∧ u = { w with cur := id } ∧
      s.agenda = .issue id :: rest ∧ w.mayIssue id = false) ∧
    (∃ (s w u : State) (id : Nat) (rest : List Turn) (x : IWord) (lw : BitVec 32) (i : Instr) (v : State), w =
      { s with agenda := rest } ∧ u = { w with cur := id } ∧ (∀ c a i, (u.task id).wait ≠ .trap c a i) ∧ decodeIn (fld
      lw 22 10 != 0) x = .ok i ∧ v =
      { u.onTask id (fun t => { t with tgt := none, stamp := u.seq }) with seq := u.seq + 1 } ∧ s.agenda = .issue id
      :: rest ∧ w.mayIssue id = true ∧ u.eligible id = true ∧ u.stopsHere id = false ∧ (u.task id).deferred = [] ∧
      u.fetchAt (u.task id) (u.task id).pc (u.task id).tgt.isSome = .got x lw) ∧
    (∃ (s w u : State) (id : Nat) (rest : List Turn) (x : IWord) (lw : BitVec 32) (i : Instr) (v : State), w =
      { s with agenda := rest } ∧ u = { w with cur := id } ∧ (∀ c a i, (u.task id).wait ≠ .trap c a i) ∧ decodeIn (fld
      lw 22 10 != 0) x = .ok i ∧ v =
      { u.onTask id (fun t => { t with tgt := none, stamp := u.seq }) with seq := u.seq + 1 } ∧ s.agenda = .issue id
      :: rest ∧ w.mayIssue id = true ∧ u.eligible id = true ∧ u.stopsHere id = false ∧ (u.task id).deferred = [] ∧
      u.fetchAt (u.task id) (u.task id).pc (u.task id).tgt.isSome = .got x lw ∧ w.recorded id = false) ∧
    (∃ (s w u : State) (id : Nat) (rest : List Turn) (x : IWord) (lw : BitVec 32) (e : DecodeError), w =
      { s with agenda := rest } ∧ u = { w with cur := id } ∧ (∀ c a i, (u.task id).wait ≠ .trap c a i) ∧ decodeIn (fld
      lw 22 10 != 0) x = .error e ∧ s.agenda = .issue id :: rest ∧ w.mayIssue id = true ∧ u.eligible id = true ∧
      u.stopsHere id = false ∧ (u.task id).deferred = [] ∧ u.fetchAt (u.task id) (u.task id).pc (u.task id).tgt.isSome
      = .got x lw ∧ w.recorded id = false) ∧
    (∃ (s w u : State) (id : Nat) (rest : List Turn) (c : BitVec 8) (a i : Word), w = { s with agenda := rest } ∧ u =
      { w with cur := id } ∧ (∀ c a i, (u.task id).wait ≠ .trap c a i) ∧ s.agenda = .issue id :: rest ∧ w.mayIssue id
      = true ∧ u.eligible id = true ∧ u.stopsHere id = false ∧ (u.task id).deferred = [] ∧ u.fetchAt (u.task id)
      (u.task id).pc (u.task id).tgt.isSome = .trap c a i ∧ w.recorded id = false) ∧
    (∃ (s : State) (i : Instr) (rest : List Turn), s.agenda = .event i :: rest) :=
  ⟨⟨{ labIssue with
     tasks := lab.tasks ++ (List.range 3).map fun i => (i + 1, { labTask with slot := some (i + 1), prio := 3 }) }, _,
     _, 0, [], rfl, rfl, by decide +kernel⟩,
   ⟨labIssue, _, _, 0, [], 0, 0xF8000000, .nop (flds (.s 0) (.s 0) (.s 0) (.s 0) 0 0), _, rfl, rfl, no_trap
     (by decide +kernel), is_ok (by decide +kernel), rfl, by decide +kernel⟩,
   ⟨labIssue, _, _, 0, [], 0, 0xF8000000, .nop (flds (.s 0) (.s 0) (.s 0) (.s 0) 0 0), _, rfl, rfl, no_trap
     (by decide +kernel), is_ok (by decide +kernel), rfl, by decide +kernel⟩,
   ⟨{ labIssue with mem := [(11, 0xF0), (63, 0xF8)] }, _, _, 0, [], 0xF0 <<< 88, 0xF8000000, .opcode 15 0, rfl, rfl,
     no_trap (by decide +kernel), is_error (by decide +kernel), by decide +kernel⟩,
   ⟨labIssue.onMe fun t => { t with pc := 2 }, _, _, 0, [], 3, 2, 1, rfl, rfl, no_trap (by decide +kernel),
     by decide +kernel⟩,
   ⟨{ lab with agenda := [.event (.aging 0)] }, .aging 0, [], by decide +kernel⟩⟩

/-- The hypotheses of the clauses of `MisalignedAccessesTrap` can be met. -/
theorem test_misaligned_accesses_trap :
    (∃ (f : Fields) (s : State), ReadyF f s ∧ (effAddr f s).toNat % 8 ≠ 0) ∧
    (∃ (f : Fields) (s : State), ReadyF f s ∧ leavesCore (effAddr f s) (widBytes f.mod) = true) ∧
    (∃ (f : Fields) (s : State), ReadyF f s ∧ ((effAddr f s).toNat % 8 ≠ 0 ∨ (effAddr f s).toNat < ownBase ∨ 2 ^ 56 ≤
      (effAddr f s).toNat)) ∧
    (∃ (f : Fields) (s : State) (e : (Fields → Instr) × AtomicOp × (Fields → State → Word)), e ∈ atomicTable ∧ ReadyF
      f s ∧ leavesCore (e.2.2 f s) (widBytes f.mod) = true) ∧
    (∃ (f : Fields) (s : State) (e : (Fields → Instr) × AtomicOp × (Fields → State → Word)) (unit : Nat), e ∈
      atomicTable ∧ unit = (if ownBase ≤ (e.2.2 f s).toNat ∧ (e.2.2 f s).toNat < 2 ^ 56 then 8 else 64) ∧ ReadyF f s ∧
      leavesCore (e.2.2 f s) (widBytes f.mod) = false ∧ unit < (e.2.2 f s).toNat % unit + widBytes f.mod) :=
  ⟨⟨flds (.s 8) (.s 5) (.s 2) (.s 1) 5 0, lab, by decide +kernel⟩,
   ⟨flds (.s 8) (.s 4) (.s 0) (.s 5) 3 0, labEdge, by decide +kernel⟩,
   ⟨flds (.s 8) (.s 1) (.s 2) (.s 5) 0 0, lab, by decide +kernel⟩,
   ⟨flds (.s 8) (.s 4) (.s 0) (.s 5) 3 0, labEdge, (atomicTable)[0]'(by decide), getElem_in _, by decide +kernel⟩,
   ⟨flds (.s 8) (.s 5) (.s 2) (.s 1) 5 0, lab, (atomicTable)[0]'(by decide), _, getElem_in _, rfl, by decide +kernel⟩⟩

/-- The hypotheses of the clauses of `MemoryReadsBack` can be met. -/
theorem test_memory_reads_back :
    (∃ (m : Memory), m.wf = true) ∧
    (∃ (m : Memory), m.wf = true) ∧
    (∃ (m : Memory), m.wf = true) ∧
    (∃ (m : Memory) (a n c : Nat), m.wf = true ∧ (c < a ∨ a + n ≤ c)) ∧
    (∃ (m : Memory), m.wf = true) :=
  ⟨⟨[], by decide +kernel⟩,
   ⟨[], by decide +kernel⟩,
   ⟨[], by decide +kernel⟩,
   ⟨[], 1, 0, 0, by decide +kernel⟩,
   ⟨[], by decide +kernel⟩⟩

/-- The hypotheses of the clauses of `StepKeepsTheInvariant` can be met. -/
theorem test_step_keeps_the_invariant :
    ∃ (s t : State), s.Inv ∧ step s = .next t :=
  ⟨{ lab with agenda := [.tick 5] }, _, ⟨by decide +kernel, (fun _ h => nomatch h)⟩, rfl⟩

end Sys2Proof.Tests
end

namespace Sys2Proof.Machine

open Sys2Proof

/-! What the value of an instruction depends on is not changed by the first reads. -/

@[simp] theorem lease_touch (s : State) (rs : List Reg) : (s.touch rs).me.lease = s.me.lease := by
  rw [touch_me]

@[simp] theorem pat_touch (s : State) (rs : List Reg) (l i : Nat) : (s.touch rs).pat l i = s.pat l i := by
  rw [touch_eq]; rfl

@[simp] theorem movValue_touch (f : Fields) (s : State) (rs : List Reg) : movValue f (s.touch rs) = movValue f s := by
  simp only [movValue, sa_touch, touch_value]

@[simp] theorem multiplier_touch (f : Fields) (s : State) (rs : List Reg) : multiplier f (s.touch rs) = multiplier f s := by
  simp only [multiplier, sb_touch]

@[simp] theorem zeroPoint_touch (f : Fields) (s : State) (rs : List Reg) : zeroPoint f (s.touch rs) = zeroPoint f s := by
  simp only [zeroPoint, sc_touch]

@[simp] theorem convertRule_touch (s : State) (rs : List Reg) (f : Fields) (ws wd : Nat) (g : Nat → Nat → Nat) :
    convertRule (s.touch rs) f ws wd g = convertRule s f ws wd g := by
  simp only [convertRule, touch_value]

/-! A ready instruction whose work is one register write. -/

/-- An instruction that writes s[DST] with a word of its operands completes with it. -/
theorem instr_put {f : Fields} {s : State} (v : State → Word) (hv : ∀ rs, v (s.touch rs) = v s) (hd : NotGuard f.dst)
    (h : ReadyF f s) :
    ∃ t, instr f (fun u => .ok (u.put f.dst (v u))) s = .next t ∧ RegistersOnly s t ∧ WroteW s t f.dst (v s) := by
  refine ⟨_, instr_ready _ h, ?_⟩
  have hw : v (s.workingF f) = v s := hv _
  rw [hw]
  exact put_advance s _ f.dst (v s) hd

/-- An instruction whose work traps takes that trap, and the first reads are forgotten. -/
theorem instr_trap {f : Fields} {s : State} {work : State → Res} {c : BitVec 8} {a i : Word} (h : ReadyF f s)
    (hw : work (s.workingF f) = .trap c a i) : instr f work s = .next (s.takeTrap s.cur c s.me.pc a i) := by
  rw [instr_ready work h, hw]; rfl

/-- A trap with a handler is taken (R264). -/
theorem takeTrap_taken {s : State} (c : BitVec 8) (a i : Word) (hi : s.me.inh = false)
    (hv : (s.lease s.me.lease).trapVec ≠ 0) : TrapTaken s (s.takeTrap s.cur c s.me.pc a i) c s.me.pc a i := by
  rw [takeTrap_handled c s.me.pc a i hi hv]
  exact ⟨State.me_onTask_cur s _, rfl, fun id hid => State.task_onTask_ne s s.cur id _ (Ne.symm hid)⟩

/-! Width operations (R92, R95, R97). -/

/-- A ready width operation completes with its extended result. -/
theorem widthOp_completes (op : IntArgs → Int) {f : Fields} {s : State} (hd : NotGuard f.dst) (h : ReadyF f s) :
    ∃ t, widthOp f op s = .next t ∧ RegistersOnly s t ∧ WroteW s t f.dst ((intArgs f s).result (op (intArgs f s))) :=
  instr_put (fun u => (intArgs f u).result (op (intArgs f u))) (fun rs => by simp only [intArgs_touch]) hd h

theorem shlOp_eq : shlOp = fun x => if x.w ≤ x.full.toNat then 0 else ((x.pa * 2 ^ x.full.toNat : Nat) : Int) := by
  funext x; simp only [shlOp, Nat.shiftLeft_eq]

theorem shrOp_eq : shrOp = fun x => if x.w ≤ x.full.toNat then 0 else ((x.pa / 2 ^ x.full.toNat : Nat) : Int) := by
  funext x; simp only [shrOp, Nat.shiftRight_eq_div_pow]

theorem sarOp_eq : sarOp = fun x => sgn x.w x.pa / 2 ^ (min x.full.toNat x.w) := by
  funext x; exact congrArg (sgn x.w x.pa / ·) (Int.natCast_pow 2 (min x.full.toNat x.w))

theorem rotOp_eq : rotOp = fun x =>
    ((x.pa * 2 ^ (x.full.toNat % x.w) % 2 ^ x.w + x.pa / 2 ^ (x.w - x.full.toNat % x.w) : Nat) : Int) := by
  funext x; simp only [rotOp, Nat.shiftLeft_eq, Nat.shiftRight_eq_div_pow]

theorem mulhOp_eq : (fun x : IntArgs => x.a * x.b / (2 ^ x.w : Nat)) = fun x => x.a * x.b / 2 ^ x.w := by
  funext x; exact congrArg (x.a * x.b / ·) (Int.natCast_pow 2 x.w)

theorem minOp_eq : (fun x : IntArgs => if x.b < x.a then x.b else x.a) = fun x => min x.a x.b := by
  funext x; split <;> omega

theorem maxOp_eq : (fun x : IntArgs => if x.a < x.b then x.b else x.a) = fun x => max x.a x.b := by
  funext x; split <;> omega

/-- Each instruction of `widthRule` is the width operation of its rule. -/
theorem exec_widthRule : ∀ e ∈ widthRule, ∀ (f : Fields) (s : State), exec (e.1 f) s = widthOp f e.2 s := by
  simp only [widthRule, List.forall_mem_cons, ← shlOp_eq, ← shrOp_eq, ← sarOp_eq, ← rotOp_eq, ← mulhOp_eq, ← minOp_eq,
    ← maxOp_eq]
  exact ⟨fun _ _ => rfl, fun _ _ => rfl, fun _ _ => rfl, fun _ _ => rfl, fun _ _ => rfl, fun _ _ => rfl, fun _ _ => rfl,
    fun _ _ => rfl, fun _ _ => rfl, fun _ _ => rfl, fun _ _ => rfl, fun _ _ => rfl, fun _ _ => rfl, fun _ _ => rfl,
    fun _ _ => rfl, fun _ _ => rfl, fun _ _ => rfl, fun _ _ => rfl, fun _ _ => rfl, fun _ _ => rfl, fun _ _ => rfl,
    List.forall_mem_nil _⟩

/-- Settles O3: every rule is run by `widthOp`, whose work is one register write. -/
theorem widthOperationsComplete : Obligations.WidthOperationsComplete := by
  intro e he f s hd h
  rw [exec_widthRule e he]
  exact widthOp_completes e.2 hd h

/-! Division (R96). -/

/-- A division with a divisor that is not zero at the width completes with its extended result. -/
theorem divOp_completes (op : Int → Int → Int) {f : Fields} {s : State} (hd : NotGuard f.dst) (h : ReadyF f s)
    (hb : (intArgs f s).b ≠ 0) :
    ∃ t, divOp f op s = .next t ∧ RegistersOnly s t ∧
      WroteW s t f.dst ((intArgs f s).result (op (intArgs f s).a (intArgs f s).b)) := by
  refine ⟨_, instr_ready _ h, ?_⟩
  have ha : intArgs f (s.workingF f) = intArgs f s := intArgs_touch f s _
  simp only [ha, hb, if_false]
  exact put_advance s _ f.dst _ hd

/-- A division by zero at the width traps DIVIDE_ZERO. -/
theorem divOp_traps (op : Int → Int → Int) {f : Fields} {s : State} (h : ReadyF f s) (hb : (intArgs f s).b = 0) :
    divOp f op s = .next (s.takeTrap s.cur 0x18 s.me.pc 0 (s.sa f)) := by
  refine instr_trap h ?_
  have ha : intArgs f (s.workingF f) = intArgs f s := intArgs_touch f s _
  have hs : (s.workingF f).sa f = s.sa f := sa_touch f s _
  simp only [ha, hb, hs, if_true]

/-- Settles O4: DIV and REM are `divOp`, which writes or traps as the divisor is not or is zero. -/
theorem divisionCompletesOrTraps : Obligations.DivisionCompletesOrTraps := by
  intro f s hd h
  refine ⟨fun hb => ⟨divOp_completes Int.tdiv hd h hb, divOp_completes Int.tmod hd h hb⟩, fun hb => ?_⟩
  have hdiv : exec (.div f) s = _ := divOp_traps Int.tdiv h hb
  have hrem : exec (.rem f) s = _ := divOp_traps Int.tmod h hb
  exact ⟨hdiv, hrem, fun hi hv => ⟨⟨_, hdiv, takeTrap_taken _ _ _ hi hv⟩, ⟨_, hrem, takeTrap_taken _ _ _ hi hv⟩⟩⟩

/-! Scalar floating point (R106 to R112). -/

/-- A ready operation of class 0x1 completes with its value, zero-extended. -/
theorem floatOp_completes (op : Fmt → Round → Word → Word → Word → Nat) {f : Fields} {s : State} (hd : NotGuard f.dst)
    (h : ReadyF f s) :
    ∃ t, floatOp f op s = .next t ∧ RegistersOnly s t ∧
      WroteW s t f.dst (w64 (op (ftOf f.mod) (roundOf f.mod s.me 0) (s.sa f) (s.sb f) (s.sc f))) :=
  instr_put (fun u => w64 (op (ftOf f.mod) (roundOf f.mod u.me 0) (u.sa f) (u.sb f) (u.sc f)))
    (fun rs => by simp only [roundOf_touch, sa_touch, sb_touch, sc_touch]) hd h

/-- Each instruction of `floatRule` is the operation of class 0x1 with its rule. -/
theorem exec_floatRule : ∀ e ∈ floatRule, ∀ (f : Fields) (s : State), exec (e.1 f) s = floatOp f (e.2 f) s := by
  simp only [floatRule, List.forall_mem_cons]
  exact ⟨fun _ _ => rfl, fun _ _ => rfl, fun _ _ => rfl, fun _ _ => rfl, fun _ _ => rfl, fun _ _ => rfl, fun _ _ => rfl,
    fun _ _ => rfl, fun _ _ => rfl, fun _ _ => rfl, fun _ _ => rfl, fun _ _ => rfl, fun _ _ => rfl, List.forall_mem_nil _⟩

/-- Settles O5: every rule is run by `floatOp`, whose work is one register write. -/
theorem floatOperationsComplete : Obligations.FloatOperationsComplete := by
  intro e he f s hd h
  rw [exec_floatRule e he]
  exact floatOp_completes (e.2 f) hd h

/-! Value instructions (R98 to R104, R161 to R171, R226). -/

/-- The entry of a key where every value has been changed by a function. -/
theorem Store.find_map {α β : Type} (f : α → β) (m : Store α) (a : Nat) :
    Store.find (m.map fun e => (e.1, f e.2)) a = (m.find a).map f := by
  induction m with
  | nil => rfl
  | cons e m ih =>
    simp only [List.map_cons, Store.find, ih]
    split <;> rfl

/-- A function applied to every queued command changes of a core its queue alone. -/
@[simp] theorem State.core_mapCommands (s : State) (f : Command → Command) (k : Nat) :
    (s.mapCommands f).core k = { s.core k with queue := (s.core k).queue.map f } := by
  simp only [State.core, State.mapCommands, Store.find_map fun c : Core => { c with queue := c.queue.map f }]
  cases s.cores.find k <;> rfl

/-- It changes of a cluster its copy unit's queue and its Thresher's. -/
@[simp] theorem State.cluster_mapCommands (s : State) (f : Command → Command) (p : Nat) :
    (s.mapCommands f).cluster p =
      { s.cluster p with jobs := (s.cluster p).jobs.map f, thresher := (s.cluster p).thresher.map f } := by
  simp only [State.cluster, State.mapCommands,
    Store.find_map fun c : Cluster => { c with jobs := c.jobs.map f, thresher := c.thresher.map f }]
  cases s.clusters.find p <;> rfl

/-- A write that is no guard's teaches a held command nothing. -/
theorem learned_of_notGuard (t : State) {r : Reg} (h : NotGuard r) : Learned t [r] = id := by
  funext c
  have hc : ∀ q, [r].contains (.q q) = false := fun q => by
    simp only [List.contains_cons, List.contains_nil, Bool.or_false, beq_eq_false_iff_ne]; exact (h q).symm
  simp only [Learned, hc, Bool.and_false, Bool.false_eq_true, if_false]
  split <;> rfl

/-- What a held command learns from a guard is what the fill of that guard gives it (R50). -/
theorem guardFills_eq_learned (t : State) (n : Fin 8) :
    Command.guardFills t.cur n (t.me.regs.q.getLsbD n.val) = Learned t [.q n] := by
  have hmem : ∀ g : Fin 8, [Reg.q n].contains (.q g) = (g == n) := fun g => by
    rw [Bool.eq_iff_iff, List.contains_iff_mem, List.mem_singleton, Reg.q.injEq, beq_iff_eq]
  funext c
  rcases hheld : c.held with _ | ⟨neg, g⟩
  · simp only [Command.guardFills, Learned, hheld]
  rcases hvalue : c.heldValue with _ | b
  · by_cases hg : g = n
    · subst hg; simp only [Command.guardFills, Learned, hheld, hvalue, hmem]
    · simp only [Command.guardFills, Learned, hheld, hvalue, hmem, beq_false_of_ne hg, Bool.and_false, Bool.false_eq_true,
        if_false]
  · simp only [Command.guardFills, Learned, hheld, hvalue]

theorem getLsbD_setBit {w : Nat} (x : BitVec w) (i : Nat) (b : Bool) (h : i < w) : (setBit x i b).getLsbD i = b := by
  have hone : (BitVec.ofNat w (2 ^ i)).getLsbD i = true := by
    rw [BitVec.getLsbD_ofNat, Nat.testBit_two_pow_self, Bool.and_true, decide_eq_true h]
  cases b
  · simp only [setBit, Bool.false_eq_true, if_false, BitVec.getLsbD_and, BitVec.getLsbD_not, hone, Bool.not_true, Bool.and_false]
  · simp only [setBit, if_true, BitVec.getLsbD_or, hone, Bool.or_true]

/-- A write that keeps to the registers, of one that is no guard, leaves every held command as it was. -/
theorem RegistersOnly.guardsOnly {s t : State} {r : Reg} (h : RegistersOnly s t) (hr : NotGuard r) : GuardsOnly s t [r] := by
  obtain ⟨ht, htasks, hcores, hgo⟩ := h
  have hclusters : t.clusters = s.clusters := by rw [ht]
  refine ⟨by rw [hclusters]; exact ht, htasks, hgo, fun k => ⟨?_, (hcores k).2⟩, fun p => ?_⟩
  · rw [learned_of_notGuard t hr, List.map_id]; exact (hcores k).1
  · rw [learned_of_notGuard t hr, List.map_id, List.map_id, State.cluster, hclusters]; rfl

/-- After a write that keeps to the registers, the held commands learn the guard's bit, and nothing else changes. -/
theorem RegistersOnly.guardsOnly_mapCommands {s t : State} (h : RegistersOnly s t) (n : Fin 8) :
    GuardsOnly s (t.mapCommands (Learned t [.q n])) [.q n] := by
  obtain ⟨ht, htasks, hcores, hgo⟩ := h
  have hclusters : t.clusters = s.clusters := by rw [ht]
  refine ⟨by rw [ht]; rfl, htasks, hgo, fun k => ?_, fun p => ?_⟩
  · obtain ⟨hk, hdirty⟩ := hcores k
    refine ⟨?_, ?_⟩
    · rw [State.core_mapCommands, hk]; rfl
    · simpa only [KeepsDirty, State.core_mapCommands] using hdirty
  · rw [State.cluster_mapCommands, State.cluster, hclusters]; rfl

/-- A register write of the issuing task, a guard's too, keeps to the registers until the held commands learn of it. -/
theorem write_advance (s : State) (rs : List Reg) (r : Reg) (x : VWord) :
    RegistersOnly s (((s.touch rs).onMe fun t => t.write r x).advance s.cur) ∧
      Wrote s (((s.touch rs).onMe fun t => t.write r x).advance s.cur) r x := by
  have hme := advance_me ((s.touch rs).onMe fun t => t.write r x)
  rw [State.onMe_cur, touch_cur, State.me_onMe, touch_me s rs] at hme
  refine ⟨⟨by rw [touch_eq s rs]; rfl, fun id hid => ?_, touch_sameCores s rs, ?_⟩, ?_⟩
  · rw [State.advance, State.task_onTask_ne _ _ _ _ (Ne.symm hid),
      State.task_onMe_ne _ _ _ (by rw [touch_cur]; exact Ne.symm hid), touch_task_ne s rs id hid]
  · rw [GoesOn, hme]; rfl
  · rw [Wrote, hme]; rfl

/-- An instruction whose work is one register write, a guard's too, leaves everything else but the knowledge of held
commands. -/
theorem putV_advance_completes (s : State) (rs : List Reg) (r : Reg) (x : VWord) :
    Wrote s (((s.touch rs).putV r x).advance s.cur) r x ∧ GuardsOnly s (((s.touch rs).putV r x).advance s.cur) [r] ∧
      (NotGuard r → RegistersOnly s (((s.touch rs).putV r x).advance s.cur)) := by
  by_cases hr : NotGuard r
  · obtain ⟨hframe, hwrote⟩ := putV_advance s rs r x hr
    exact ⟨hwrote, hframe.guardsOnly hr, fun _ => hframe⟩
  · obtain ⟨n, hn⟩ := Classical.not_forall.1 hr
    obtain rfl := Classical.not_not.1 hn
    obtain ⟨hframe, hwrote⟩ := write_advance s rs (.q n) x
    generalize ht : ((s.touch rs).onMe fun t => t.write (.q n) x).advance s.cur = t at hframe hwrote
    have hbit : t.me.regs.q.getLsbD n.val = x.getLsbD 0 := by rw [hwrote]; exact getLsbD_setBit _ _ _ n.isLt
    have hcur : t.cur = s.cur := by rw [← ht]; exact touch_cur s rs
    have hput : ((s.touch rs).putV (.q n) x).advance s.cur = t.mapCommands (Learned t [.q n]) := by
      rw [← guardFills_eq_learned, hbit, hcur, ← ht, ← touch_cur s rs]; rfl
    rw [hput]
    exact ⟨hwrote, hframe.guardsOnly_mapCommands n, fun h => absurd rfl (h n)⟩

/-- An instruction writes into DST the value of a rule: beside its sources it reads the registers that the rule names, and
in any state where the rule gives a value its work is to put that value. -/
def WritesRule (i : Instr) (f : Fields) (rule : State → Option (List Reg × VWord)) (s : State) : Prop :=
  ∃ more work, exec i s = run (issue f.guard (sourcesOf f) more [f.dst] work) s ∧
    ∀ u m x, rule u = some (m, x) → m = more ∧ work u = .ok (u.putV f.dst x)

/-- A rule that gives a value for every operand is met by the work that puts it. -/
theorem writesRule_some {i : Instr} {f : Fields} {s : State} {more : List Reg} {v : State → VWord}
    (h : exec i s = run (issue f.guard (sourcesOf f) more [f.dst] fun u => .ok (u.putV f.dst (v u))) s) :
    WritesRule i f (fun u => some (more, v u)) s := by
  refine ⟨more, _, h, fun u m x hu => ?_⟩
  obtain ⟨hm, hx⟩ := Prod.mk.inj (Option.some.inj hu)
  exact ⟨hm.symm, by rw [hx]⟩

/-- A rule that refuses some operands is met by the work that traps for these and puts the value for all others. -/
theorem writesRule_ite {i : Instr} {f : Fields} {s : State} {p : State → Prop} [DecidablePred p]
    {more : List Reg} {v : State → VWord} {trap : State → Res}
    (h : exec i s = run (issue f.guard (sourcesOf f) more [f.dst] fun u =>
      if p u then trap u else .ok (u.putV f.dst (v u))) s) :
    WritesRule i f (fun u => if p u then none else some (more, v u)) s := by
  refine ⟨more, _, h, fun u m x hu => ?_⟩
  by_cases hp : p u
  · simp only [if_pos hp, reduceCtorEq] at hu
  · simp only [if_neg hp] at hu
    obtain ⟨hm, hx⟩ := Prod.mk.inj (Option.some.inj hu)
    exact ⟨hm.symm, by rw [if_neg hp, hx]⟩

/-- Every instruction of `valueRule` writes the value of its rule. -/
theorem writesRule_valueRule : ∀ e ∈ valueRule, ∀ (f : Fields) (s : State), WritesRule (e.1 f) f (fun u => e.2 u f) s := by
  -- `ite_not` turns CHK's rule round, to name what is refused as the other rules do.
  simp only [valueRule, List.forall_mem_cons, ← ite_not (p := _ ∧ _)]
  refine ⟨?bfx, ?bfi, ?sel, ?mov, ?lea, ?chk, ?vcmp, ?vfcmp, ?vsel, ?vbcast, ?vext, ?vins, ?vred, ?vscan, ?vpopc, ?vfirst,
    ?viota, ?plog, ?vcompress, ?vtopk, ?vfred, ?vfcvt, ?vftoi, ?vitof, ?vquant, ?vdeq, ?patget, List.forall_mem_nil _⟩
  case chk =>
    refine fun f s => writesRule_ite (trap := fun u => .trap 0x1A (u.sa f) (second f u)) ?_
    simp only [ite_not]; rfl
  case vtopk =>
    refine fun f s => writesRule_ite (trap := fun u => .trap 0x1A 0 (second f u)) ?_
    change execVtopk f s = _
    simp only [execVtopk, Bool.or_eq_true, decide_eq_true_eq]; rfl
  case vext | vins => exact fun f s => writesRule_ite rfl
  all_goals exact fun f s => writesRule_some rfl

/-- No rule of `valueRule` sees the first reads. -/
theorem valueRule_touch : ∀ e ∈ valueRule, ∀ (f : Fields) (s : State) (rs : List Reg), e.2 (s.touch rs) f = e.2 s f := by
  simp only [valueRule, List.forall_mem_cons, sa_touch, sb_touch, sc_touch, second_touch, intArgs_touch,
    roundOf_touch, maskOf_touch, vecA_touch, vecB_touch, touch_value, lease_touch, pat_touch, movValue_touch,
    multiplier_touch, zeroPoint_touch, convertRule_touch, implies_true, true_and]
  exact List.forall_mem_nil _

/-- The work of a ready instruction, but for a register that an error has spoilt (R283). -/
theorem issue_admitted {g : Guard} {srcs : List (Nat × Src)} {more outs : List Reg} {s : State} (work : State → Res)
    (hg : guardTest g s.me = some true) (hs : ∀ x ∈ srcs, s.me.full x.2.reg = true) (hm : ∀ r ∈ more, s.me.full r = true)
    (hl : s.me.landing (srcs.map fun (e : Nat × Src) => e.2.reg) = false) (hl' : s.me.landing more = false)
    (ho : ∀ r ∈ outs, s.pendingOn s.cur r = false) :
    issue g srcs more outs work s = unspoilt s (readRegs g srcs more) (work (s.working g srcs more)) := by
  have h1 : emptySource s srcs = none := by
    simp only [emptySource, hl, Bool.false_eq_true, if_false, firstEmpty_eq_none hs, Option.map_none]
  have h2 : (more.find? fun r => !s.me.full r) = none := by
    simpa only [List.find?_eq_none, Bool.not_eq_true', Bool.not_eq_false] using hm
  have h3 : outs.any (s.pendingOn s.cur) = false := by
    simpa only [List.any_eq_false, Bool.not_eq_true] using ho
  simp only [issue, hg, h1, h2, hl', h3, Bool.or_self, Bool.false_eq_true, if_false]
  rfl

/-- A trap stands whatever is spoilt (R270). -/
theorem unspoilt_trap (s : State) (rs : List Reg) (c : BitVec 8) (a i : Word) :
    unspoilt s rs (.trap c a i) = .trap c a i := by
  simp only [unspoilt, ite_self]

/-- VINS of an element that is not there traps BOUNDS, though its old DST be spoilt (R162). -/
theorem vins_traps {f : Fields} {s : State} (h : ReadyF f s) (hb : 2048 / vecWidth f.mod ≤ (second f s).toNat)
    (hfull : s.me.full f.dst = true) (hland : s.me.landing [f.dst] = false) :
    exec (.vins f) s = .next (s.takeTrap s.cur 0x1A s.me.pc 0 (second f s)) := by
  obtain ⟨hlive, hg, hs, -, hl, -, ho, -, -⟩ := h
  have hw : exec (.vins f) s = run (issue f.guard (sourcesOf f) [f.dst] [f.dst] fun u =>
      if 2048 / vecWidth f.mod ≤ (second f u).toNat then .trap 0x1A 0 (second f u)
      else .ok (u.putV f.dst (setLane (u.me.value f.dst) (vecWidth f.mod) (second f u).toNat (u.sa f).toNat))) s := rfl
  rw [hw, run_live hlive, issue_admitted _ hg hs (fun r hr => List.mem_singleton.1 hr ▸ hfull) hl hland ho]
  simp only [State.working, second_touch, if_pos hb, unspoilt_trap]
  rfl

/-- VEXT of an element that is not there traps BOUNDS (R162). -/
theorem vext_traps {f : Fields} {s : State} (h : ReadyF f s) (hb : 2048 / vecWidth f.mod ≤ (second f s).toNat) :
    exec (.vext f) s = .next (s.takeTrap s.cur 0x1A s.me.pc 0 (second f s)) :=
  instr_trap h (by simp only [State.workingF, State.working, second_touch, if_pos hb])

/-- VTOPK of no element or of more than 64 traps BOUNDS (R164). -/
theorem vtopk_traps {f : Fields} {s : State} (h : ReadyF f s) (hb : (second f s).toNat = 0 ∨ 64 < (second f s).toNat) :
    exec (.vtopk f) s = .next (s.takeTrap s.cur 0x1A s.me.pc 0 (second f s)) :=
  instr_trap h (by
    simp only [State.workingF, State.working, second_touch, Bool.or_eq_true, decide_eq_true_eq, if_pos hb])

/-- CHK of an index outside its bound traps BOUNDS (R104). -/
theorem chk_traps {f : Fields} {s : State} (h : ReadyF f s)
    (hb : ¬ (0 ≤ (intArgs f s).a ∧ (intArgs f s).a < (intArgs f s).b)) :
    exec (.chk f) s = .next (s.takeTrap s.cur 0x1A s.me.pc (s.sa f) (second f s)) :=
  instr_trap h (by
    simp only [State.workingF, State.working, intArgs_touch, sa_touch, if_neg hb]; rfl)

/-- Settles O7: every rule's work is one register write whose value the first reads do not change, and the four traps. -/
theorem valueInstructionsComplete : Obligations.ValueInstructionsComplete := by
  refine ⟨fun e he f more x s hx h => ?_, fun f s h => ⟨vext_traps h, vins_traps h, vtopk_traps h, chk_traps h⟩⟩
  obtain ⟨more', work, hexec, hwork⟩ := writesRule_valueRule e he f s
  obtain ⟨rfl, -⟩ := hwork s more x hx
  have hput := (hwork (s.working f.guard (sourcesOf f) more) more x ((valueRule_touch e he f s _).trans hx)).2
  refine ⟨_, hexec.trans (run_issue work h), ?_⟩
  rw [hput]
  exact putV_advance_completes s _ f.dst x

end Sys2Proof.Machine
